-- ==== Sys2Proof/Word.lean ====
section
/-!
DEFINITION. The words of the Calic: 64-bit register values, bytes, 32-bit parcels and 9-bit causes.
Bit 0 is the least significant bit (R2).
-/
namespace Sys2Proof

/-- A general register's value, an address, a control register (R125, R141). -/
abbrev Word := BitVec 64
/-- One byte of a memory (R2). -/
abbrev Byte := BitVec 8
/-- One 32-bit parcel of an instruction (R3). -/
abbrev Parcel := BitVec 32
/-- A cause: class in bits 8:5, reason in bits 4:0 (R395). -/
abbrev Cause := BitVec 9

end Sys2Proof
end

