-- ==== Sys2Proof/Syntax.lean ====
section
/-!
DEFINITION. The rows of spec/opcode_table.json as ONE inductive: the encoded instructions with their operand fields
(R82 to R92) and the machine's own steps (spec/95_what_each_step_holds.md). A machine step has no encoding; its
arguments say which queue entry, core or record it concerns, and carry whatever the spec leaves to the agent that makes it.
-/
namespace Sys2Proof

/-! ## Coded fields of instructions -/

/-- A 6-bit operand code (R91). `rsv` holds the codes 36-39 and 48-62, which WellFormed refuses. -/
inductive Opd where
  | g (n : BitVec 5)      -- g0-g31
  | link (d : BitVec 2)   -- $n $e $s $w
  | x (k : BitVec 3)      -- x0-x7
  | imm                   -- 63: immediate, none, or zero
  | rsv (c : BitVec 6)
deriving DecidableEq, Repr

/-- Type codes (R88); code 0xF is reserved. -/
inductive Ty where
  | i64 | i32 | i16 | ui16 | i8 | ui8 | f32 | f16 | bf16 | e4m3 | e5m2 | t8 | t6 | l4 | blk
deriving DecidableEq, Repr

/-- Rounding modes (R89, R113). -/
inductive Rm where
  | rne | rtz | rdn | rup | rna | sto
deriving DecidableEq, Repr

/-- MD: rounding mode and the .sat flag (R89). -/
structure Md where
  rm : Rm
  sat : Bool
deriving DecidableEq, Repr

/-- Conditions of CMP, BCMP, FCMP and VCMP (R96). -/
inductive Cc where
  | eq | ne | lt | le | gt | ge | ltu | leu | gtu | geu
deriving DecidableEq, Repr

/-- Access sizes (R90). -/
inductive Sz where
  | b | h | w | d
deriving DecidableEq, Repr

/-- Sync modes (R90, R178). -/
inductive Sm where
  | plain | rf | tk | we | wf | wz
deriving DecidableEq, Repr

/-- Address spaces of a memory operand (R90). -/
inductive Space where
  | glob | ls | cl
deriving DecidableEq, Repr

/-- Atomic operations (R96, R186). -/
inductive AOp where
  | add | fadd | min | max | umin | umax | and | or | xor | swap
deriving DecidableEq, Repr

/-- The SFU functions (R92, R160). -/
inductive SfuFn where
  | exp2 | log2 | rcp | rsq | sqrt | sin | cos | tanh
deriving DecidableEq, Repr

/-- Pack forms of CVP (R96, R162). -/
inductive PackForm where
  | h2 | b4 | q4 | t6
deriving DecidableEq, Repr

/-- Buffer states (R96, R275). -/
inductive BufState where
  | empty | filling | full | draining
deriving DecidableEq, Repr

/-- Fields that SHSET and SHRD name (R211). -/
inductive ShField where
  | base | esz | rank | ext (d : BitVec 2) | stride (d : BitVec 2) | cur (d : BitVec 2) | remain | index | rewind
deriving DecidableEq, Repr

/-- Collective operations (R246, R256). -/
inductive CollOp where
  | bcast | allred | allmax | allgath | redscat | alltoall
deriving DecidableEq, Repr

/-- Operand fields of a two-source A64 instruction: D, A, TA, B, TB, IMM16 (R82). -/
structure Bin where
  d : Opd
  a : Opd
  ta : Bool
  b : Opd
  tb : Bool
  imm : BitVec 16
deriving DecidableEq, Repr

/-- Operand fields of a one-source A64 instruction. -/
structure Un where
  d : Opd
  a : Opd
  ta : Bool
  imm : BitVec 16
deriving DecidableEq, Repr

/-- One source operand with IMM16. -/
structure Src where
  a : Opd
  ta : Bool
  imm : BitVec 16
deriving DecidableEq, Repr

/-- The landing options LO: ask for an upcall on rejection, and run under a timeline (R172). -/
structure LandOpt where
  urj : Bool
  tle : Bool
  tl : BitVec 3
deriving DecidableEq, Repr

/-- The M96 memory operand and data operand (R72, R85). -/
structure MemOp where
  sc : BitVec 2
  tv : Bool
  index : Opd
  base : Opd
  v : Opd
  sp : Space
  disp : BitVec 32
deriving DecidableEq, Repr

/-- Cache policy of LD, ST, STC and LDL (R181): HINT<1:0>; value 3 is refused. -/
inductive Policy where
  | normal | streaming | keep
deriving DecidableEq, Repr

/-- Level of PREF, RESID and EVICT (R193). -/
inductive Level where
  | l2 | stacked | both
deriving DecidableEq, Repr

/-- The V96 operand fields (R86). -/
structure VecOp where
  gs : Opd
  sbf : Bool
  sc : BitVec 3
  sb : BitVec 3
  sa : BitVec 3
  sd : BitVec 3
  count : BitVec 16
  imm : BitVec 32
deriving DecidableEq, Repr

/-- The T128 fields of a matrix instruction or an engine command (R87). -/
structure TOp where
  ga : Opd
  gb : Opd
  gc : Opd
  gd : Opd
  osrc : BitVec 4
  fn : BitVec 8
  accmode : BitVec 4
  sb : Bool
  sa : Bool
  tyb : Ty
  tya : Ty
  acc : BitVec 2
  notify : BitVec 4
  tle : Bool
  tl : BitVec 3
  step : BitVec 8
  kcnt : BitVec 16
deriving DecidableEq, Repr

/-- POST and SUSP (R263): offset, affinity, mask, tile-buffer requirements, priority. -/
structure PostOp where
  off : BitVec 32
  aff : Opd
  mask : Opd
  imm : BitVec 16
  ntb : BitVec 3
  prioSet : Bool
  prio : BitVec 7
deriving DecidableEq, Repr

/-- LDX, STX and AMOX operands (R171, R189). -/
structure ShardOp where
  d : Opd
  a : Opd
  ta : Bool
  b : Opd
  tb : Bool
  nc : Bool
  imm : BitVec 16
deriving DecidableEq, Repr

/-! ## Arguments of machine steps -/

/-- What stops an instruction fetch (R167, R402). -/
inductive FetchCause where
  | notValid          -- 501
  | hostNotPresent    -- 601
  | entryInvalid      -- 506
  | noExecute         -- 507
  | hostDenies        -- 602
  | poisoned          -- 007
deriving DecidableEq, Repr

/-- The host's answer to an address translation request: a translation covers 2^lg bytes about its address (R428). -/
inductive HostAns where
  | translated (hpa lg : Nat) (rd wr : Bool)
  | notPresent
  | denied
deriving DecidableEq, Repr, Inhabited

/-- What the host does to a line of its own memory, once the package has given its copies back (R313, R425). -/
inductive HostAct where
  | look                                                    -- nothing, or a read that keeps no data here
  | read (off len : Nat)
  | write (off : Nat) (bytes : List Byte) (poison : Bool)
  | rmw (off : Nat) (op : AOp) (v : Word)
deriving DecidableEq, Repr

/-- The host's answer to a page request; with a success, what it then answers for the page's translation (R428). -/
inductive PriAns where
  | success (page : HostAns)
  | invalidRequest | responseFailure
deriving DecidableEq, Repr

/-- Why the dispatcher pre-empts a unit (R38). -/
inductive HaltWhy where
  | priority | slice | spin | packing | remap | reset | cancel | park | trapLost | rollback
deriving DecidableEq, Repr

/-- A slot of the slot table (R349), without its generation. -/
structure Slot where
  asid : Nat
  stage : Nat
  inst : Nat
  bhi : Nat
  blo : Nat
  floor : Nat
  part : Nat
  pwr : Nat
  lend : Bool
  mode : Bool
  v : Bool
deriving DecidableEq, Repr

/-- A Krerum Link packet (R416, R417): header fields and payload, lines with poison in PMASK. -/
structure Packet where
  pmask : Nat
  status : Nat
  tag : Nat
  nl : Nat
  sz : Nat
  sm : Nat
  aop : Nat
  lo : Nat
  sh : Bool
  typ : Nat
  asid : Nat
  tenant : Nat
  src : Nat
  dst : Nat
  addr : Word
  payload : List Word
  rsv : Nat := 0          -- bits 99:64, reserved
deriving DecidableEq, Repr

/-- What a hop finds when a packet's flits arrive (R419). -/
inductive FlitFate where
  | good | headerBad | payloadBad | hallmarkBad (line : Nat)
  | noPacket              -- an acknowledgement alone
deriving DecidableEq, Repr

/-- Where an uncorrectable error strikes (R319, R328, R404, R405). -/
inductive ErrLoc where
  | lsGranule (core granule : Nat)
  | memGranule (granule : Nat)
  | memMarks (line : Nat)
  | lsMarks (core line : Nat)
  | tltEntry (t : Nat)
  | slotEntry (c : Nat)
  | bufDesc (core idx : Nat)
  | window (w : Nat)
  | clusterMirror (n : Nat)
  | krtEntry (asid stage : Nat)
  | stageEntry (asid stage : Nat)
  | trvSram
deriving DecidableEq, Repr

/-- Who writes a register without a row of its own (R5). -/
inductive Writer where
  | treleveber | supervisor (part : Nat) | physFunction | host
deriving DecidableEq, Repr

/-- A register outside the CSR map (R337, R353, R357, R358, R406, R426 to R431, R439). -/
inductive RegName where
  | sched (part : Nat)
  | ring (part r : Nat) (off : Nat)
  | winReg (w : Nat) (k : Nat)
  | fold (w : Nat)
  | logReg (part : Nat) (off : Nat)
  | complReg (part : Nat) (off : Nat)
  | share (part : Nat)
  | stageCmd (part : Nat)
  | victimReq (part : Nat) (hi : Bool)
  | reach (part peer : Nat)
  | tenant (part : Nat)
  | awin
  | memRange (part base : Nat)
  | priEnable (part : Nat)
  | priAlloc (part : Nat)
  | hdmBase
  | msix (part i : Nat)
  | asPart (asid : Nat)
  | islandCap (island : Nat)
deriving DecidableEq, Repr

/-- What a read of the host names: memory behind the HDM decoders, BAR 0 or the MSI-X table of a partition's virtual function, or the
alias aperture or the control page in BAR 2 of the physical function (R426, R427, R429). -/
inductive HostPlace where
  | hdm (addr : Nat)
  | bar0 (part off : Nat)
  | msix (part off : Nat)
  | aperture (off : Nat)
  | ctl (off : Nat)
deriving DecidableEq, Repr

/-- Operating points of an island (R438). -/
inductive OpPoint where
  | ghz30 | ghz24 | ghz18 | ghz12
deriving DecidableEq, Repr

/-- An image slot as the boot ROM reads it (R434). -/
structure BootImage where
  magic : Nat
  svn : Nat
  len : Nat
  digest : Nat
  sigr : Nat
  sigs : Nat
  reserved : Nat
  body : List Byte
deriving DecidableEq, Repr

/-- What a boot step takes from the fuses, the image slots and Treleveber's configuration (R433). -/
structure BootIn where
  sramOk : Bool
  fuseSvn : Nat
  keyHash : Nat
  rootKey : Nat
  slotA : BootImage
  slotB : BootImage
  carve : Nat
  tltLog : Nat
  peer : Nat
  cmap : List Nat
  peers : List (Nat × Nat)
  deviceCert : Nat := 0     -- the DeviceID certificate that the fuses hold (R436)
deriving DecidableEq, Repr

/-- SPDM 1.3 requests that Treleveber answers (R437). -/
inductive SpdmReq where
  | getVersion | getCapabilities | negotiateAlgorithms (asym hash : Nat) | getDigests | getCertificate (slot : Nat)
  | challenge (slot nonce : Nat) | getMeasurements (index nonce : Nat)
deriving DecidableEq, Repr

/-! ## The rows -/

/-- The rows of the opcode table: the encoded instructions in the table's order, then the machine's own steps. -/
inductive Instr where
  -- integer and address (R149-R156)
  | iadd (ty : Ty) (sat : Bool) (o : Bin)
  | isub (ty : Ty) (sat : Bool) (o : Bin)
  | imul (ty : Ty) (sat : Bool) (o : Bin)
  | imulh (ty : Ty) (o : Bin)
  | idiv (ty : Ty) (o : Bin)
  | irem (ty : Ty) (o : Bin)
  | imin (ty : Ty) (o : Bin)
  | imax (ty : Ty) (o : Bin)
  | iabs (ty : Ty) (sat : Bool) (o : Un)
  | and (o : Bin)
  | or (o : Bin)
  | xor (o : Bin)
  | andn (o : Bin)
  | shl (ty : Ty) (o : Bin)
  | shr (ty : Ty) (o : Bin)
  | sra (ty : Ty) (o : Bin)
  | rol (ty : Ty) (o : Bin)
  | clz (ty : Ty) (o : Un)
  | ctz (ty : Ty) (o : Un)
  | popc (ty : Ty) (o : Un)
  | bswap (ty : Ty) (o : Un)
  | bfx (o : Bin)
  | bfi (o : Bin)
  | iext (o : Bin)
  | cmp (cc : Cc) (ty : Ty) (o : Bin)
  | sel (o : Bin)
  | ldi (d : Opd) (imm : BitVec 32)
  | ldk (d : Opd) (imm : BitVec 64)
  | adda (o : Bin)
  | mramk (o : Bin)
  | self (d : Opd)
  -- control flow (R164-R167)
  | br (off : BitVec 32)
  | bz (a : Src) (off : BitVec 32)
  | bnz (a : Src) (off : BitVec 32)
  | bcmp (cc : Cc) (ty : Ty) (a : Opd) (ta : Bool) (b : Opd) (tb : Bool) (off : BitVec 16)
  | jmp (a : Opd) (ta : Bool)
  | call (d : Opd) (a : Opd) (off : BitVec 32)
  | loop (d : Opd) (off : BitVec 32)
  | nop
  -- presence and queues (R168)
  | empty (d : Opd)
  | markf (d : Opd)
  | probe (d a : Opd)
  | waitf (a : Opd) (ta : Bool)
  | qcfg (d a : Opd) (imm : BitVec 16)
  | qrst (d : Opd)
  | qocc (d a : Opd)
  -- memory (R171-R197)
  | ld (sz : Sz) (sm : Sm) (pol : Policy) (m : MemOp)
  | st (sz : Sz) (sm : Sm) (pol : Policy) (m : MemOp)
  | pref (lvl : Level) (m : MemOp)
  | resid (lvl : Level) (m : MemOp)
  | evict (lvl : Level) (m : MemOp)
  | fence
  | ldl (sz : Sz) (sm : Sm) (pol : Policy) (lo : LandOpt) (m : MemOp)
  | rsend (d a : Opd) (ta : Bool) (imm : BitVec 16) (lo : LandOpt)
  | ldx (sz : Sz) (sm : Sm) (o : ShardOp)
  | stx (sz : Sz) (sm : Sm) (o : ShardOp)
  | smfrz (a : Src)
  | smrel (a : Src)
  | amo (op : AOp) (l : Bool) (sz : Sz) (mreg : Opd) (lo : LandOpt) (m : MemOp)
  | cas (sz : Sz) (m : MemOp)
  | amox (op : AOp) (sz : Sz) (o : ShardOp)
  | flagf (tl : BitVec 3) (m : MemOp)
  -- shapes and vectors (R198-R222)
  | shld (v : VecOp)
  | shst (v : VecOp)
  | shset (fld : ShField) (v : VecOp)
  | shadv (v : VecOp)
  | shrd (fld : ShField) (v : VecOp)
  | vadd (ty : Ty) (md : Md) (v : VecOp)
  | vsub (ty : Ty) (md : Md) (v : VecOp)
  | vmul (ty : Ty) (md : Md) (v : VecOp)
  | vfma (ty : Ty) (md : Md) (v : VecOp)
  | vmin (ty : Ty) (md : Md) (v : VecOp)
  | vmax (ty : Ty) (md : Md) (v : VecOp)
  | vabs (ty : Ty) (md : Md) (v : VecOp)
  | vneg (ty : Ty) (md : Md) (v : VecOp)
  | vand (ty : Ty) (v : VecOp)
  | vor (ty : Ty) (v : VecOp)
  | vxor (ty : Ty) (v : VecOp)
  | vshl (ty : Ty) (v : VecOp)
  | vshr (ty : Ty) (v : VecOp)
  | vcmp (cc : Cc) (ty : Ty) (md : Md) (v : VecOp)
  | vsel (ty : Ty) (v : VecOp)
  | vcvt (ty : Ty) (md : Md) (v : VecOp)
  | vcopy (ty : Ty) (v : VecOp)
  | vbcst (ty : Ty) (md : Md) (v : VecOp)
  | vgath (ty : Ty) (v : VecOp)
  | vscat (ty : Ty) (v : VecOp)
  | vsum (ty : Ty) (sat : Bool) (v : VecOp)
  | vrmax (ty : Ty) (v : VecOp)
  | vsfu (fn : SfuFn) (ty : Ty) (md : Md) (v : VecOp)
  | vqnt (ty : Ty) (md : Md) (v : VecOp)
  | vdq (ty : Ty) (md : Md) (v : VecOp)
  | vpclr (ty : Ty) (v : VecOp)
  -- float scalar, SFU, pack and unpack (R157-R163)
  | fadd (ty : Ty) (md : Md) (o : Bin)
  | fsub (ty : Ty) (md : Md) (o : Bin)
  | fmul (ty : Ty) (md : Md) (o : Bin)
  | ffma (ty : Ty) (md : Md) (o : Bin)
  | fmin (ty : Ty) (o : Bin)
  | fmax (ty : Ty) (o : Bin)
  | fabs (ty : Ty) (o : Un)
  | fneg (ty : Ty) (o : Un)
  | fcmp (cc : Cc) (ty : Ty) (o : Bin)
  | fcvt (dty sty : Ty) (md : Md) (d a : Opd) (ta : Bool)
  | fclass (ty : Ty) (o : Un)
  | cvp (form : PackForm) (ty : Ty) (md : Md) (o : Bin)
  | cvu (ty : Ty) (o : Bin)
  | fexp2 (ty : Ty) (md : Md) (o : Un)
  | flog2 (ty : Ty) (md : Md) (o : Un)
  | frcp (ty : Ty) (md : Md) (o : Un)
  | frsq (ty : Ty) (md : Md) (o : Un)
  | fsqrt (ty : Ty) (md : Md) (o : Un)
  | fsin (ty : Ty) (md : Md) (o : Un)
  | fcos (ty : Ty) (md : Md) (o : Un)
  | ftanh (ty : Ty) (md : Md) (o : Un)
  -- matrix (R223-R245)
  | mma (t : TOp)
  | mmb (t : TOp)
  | mms (t : TOp)
  | mcmp (t : TOp)
  | mzero (t : TOp)
  | mlda (t : TOp)
  | msta (t : TOp)
  | mdrn (t : TOp)
  | mrsum (t : TOp)
  | mcsum (t : TOp)
  | mtbl (t : TOp)
  | mstat (t : TOp)
  -- engines and timelines (R246-R261)
  | cpy (t : TOp)
  | gath (t : TOp)
  | scat (t : TOp)
  | coll (op : CollOp) (t : TOp)
  | tlwait (tl : BitVec 3) (a : Src)
  | tlread (d : Opd) (tl : BitVec 3) (fld : BitVec 3)
  | tlnote (d a : Opd) (ta : Bool) (imm : BitVec 16) (tl : BitVec 3)
  | fqprst (tl : BitVec 3)
  -- helpers, tasks, stages, tile buffers, spans, levels (R262-R278)
  | start (a : Src) (off : BitVec 32)
  | hjoin (a : Src)
  | hexit
  | post (p : PostOp)
  | susp (p : PostOp)
  | yield
  | uexit
  | enq (d : Opd) (a : Src) (b : Opd)
  | enqw (d : Opd) (a : Src) (b : Opd)
  | deq
  | recdone
  | splitok (a : Src)
  | mergeok
  | tballoc (o : Un)
  | tbfree (a : Src)
  | tbset (st : BufState) (a : Opd) (ta : Bool) (b : Opd) (tb : Bool) (imm : BitVec 16)
  | tbstat (o : Un)
  | spanx
  | spanc
  | gbar
  | lcnt (d : Opd) (lvl : BitVec 16)
  | cancel (lvl : BitVec 16)
  -- poison, signatures, upcalls, system (R281-R305)
  | pchk (d a : Opd) (ta : Bool)
  | pclr (d : Opd)
  | pset (d : Opd)
  | stc (sz : Sz) (sm : Sm) (pol : Policy) (m : MemOp)
  | sig (v : BitVec 24)
  | upret
  | upmask (o : Un)
  | trap (n : BitVec 5)
  | tret
  | csrr (d : Opd) (n : BitVec 12)
  | csrw (a : Opd) (ta : Bool) (n : BitVec 12)
  | tinv (d a b : Opd) (scope : BitVec 2)
  | tsync
  | l2fl (mode : Bool)
  | idle
  -- machine steps; what the environment answers or measures stands beside the argument that it belongs to
  | fetchFault (k : FetchCause × HostAns)
  | decodeTrap (cause : Cause) (taddr : Word)
  | trapEntry (cause : Cause) (tpc taddr : Word)
  | upcallEntry (cause : Cause) (upc uarg : Word)
  | noticeDelivery (core ctx : Nat)
  | noticeArrival (i : Nat)
  | noticeRetry (i : Nat)
  | landingDelivery (i : Nat)
  | landingRetry (i : Nat)
  | landingBounce (i : Nat)
  | sfuResult (core : Nat)
  | accessAccept (i : Nat) (ans : HostAns)
  | loadDataReturn (i : Nat)
  | accessPerform (i : Nat)
  | retryListWalk (word : Nat)
  | requestRetry (i : Nat)
  | accessFailAtHome (i : Nat)
  | smfrzDrain (core ctx : Nat)
  | flagfWrite (i : Nat) (ans : HostAns)
  | vectorChunk (core : Nat)
  | matrixStep (core : Nat)
  | matrixGlobalRead (core : Nat) (ans : HostAns)
  | engineOpComplete (thread op : Nat)
  | engineAccess (thread op : Nat) (ans : HostAns)
  | collMatch (tag : Word) (order : List Nat × List (Nat × List (Byte × Bool)))
  | tlnoteLand (thread op : Nat)
  | preemptRequest (core : Nat) (why : HaltWhy)
  | timeSliceExpiry (core : Nat)
  | spinDeschedule (core : Nat)
  | unitHalt (core : Nat)
  | unitSave (core : Nat)
  | saveComplete (core : Nat)
  | restoreBegin (core thread : Nat)
  | restoreComplete (core : Nat)
  | unitDiscard (core : Nat)
  | dispatchSelect (core : Nat)
  | unitBind (core thread : Nat)
  | recordPlacement (r : Nat)
  | groupBind (r : Nat) (cores threads : List Nat)
  | groupReserve (r : Nat) (cores : List Nat)
  | recordAgeing (r : Nat)
  | recordEligible (r : Nat)
  | admitLaunchRecord (part : Nat) (ring : Nat × HostAns)
  | recordFrameRetry (core ctx : Nat)
  | unitEndRelease (thread : Nat)
  | jobCompletion (job : Nat × HostAns)
  | coreClockGate (core : Nat)
  | islandWake (core : Nat)
  | gbarComplete (launch : Nat)
  | gangRollback (launch : Nat)
  | monitorFire (i : Nat)
  | invalidationComplete (thread ctx : Nat)
  | victimEvict (part frame : Nat)
  | victimRecall (part : Nat)
  | stageInstall (part : Nat)
  | stageUninstall (part : Nat)
  | instanceStart (asid stage inst thread : Nat)
  | governorSample (asid stage : Nat)
  | splitRoutineEntry (asid stage inst : Nat)
  | twinStart (asid stage inst : Nat) (thread : Nat × HostAns)
  | brimMove (asid stage inst lane : Nat)
  | recordDelivery (asid stage inst : Nat)
  | twinQuiesce (asid stage : Nat) (inst : Nat × HostAns)
  | mergeRoutineEntry (asid stage inst : Nat)
  | stageStop (asid stage : Nat)
  | gauntletRequest (i : Nat)
  | responseReceived (i : Nat)
  | functionLevelReset (part : Nat)
  | logEntryWrite (part : Nat)
  | packetReceive (port : Nat) (p : Packet) (q : FlitFate × Nat)
  | linkReplay (port : Nat)
  | linkDown (port : Nat)
  | routeChange (gw peer : Nat) (v : Bool) (port : Nat)
  | peerFailed (peer : Nat)
  | hostMemRead (addr : HostPlace) (len : Nat)
  | hostMemWrite (addr : Nat) (bytes : List Byte) (poison : Bool)
  | hostLockedRmw (addr : Nat) (op : AOp) (v : Word)
  | hostSnoop (line : Nat × HostAct)
  | aliasDataWrite (off : Nat) (v : Word)
  | aliasFullEmptyWrite (off : Nat) (v : Word)
  | notifyProdWrite (part ring : Nat) (v : BitVec 32)
  | notifyErrClear (part ring : Nat)
  | notifyReprioritise (part ring : Nat) (v : Word)
  | windowEnable (part w : Nat)
  | windowDisable (part w : Nat)
  | poisonReportClear (part : Nat)
  | bootstCommit
  | moduleCapWrite (v : Word)
  | registerWrite (by_ : Writer) (r : RegName) (v : Word)
  | powerOnReset
  | bootStep (inp : BootIn)
  | treleveberRestart (digest : BootIn)
  | spdmRequest (r : SpdmReq)
  | dvfsChange (island : Nat) (p : OpPoint)
  | powerCapRegulate (draw : Nat × List (Nat × Nat))
  | softError (loc : ErrLoc) (v : Word)
  | deviceErrorReport (line : Nat)
  | peerSetPresent (peer : Nat)
  | carveOutChange (steps : Nat)
  | islandPowerGating (island : Nat) (off : Bool)
  | policyFirmwareLoad (digest : Nat)
  | slotWrite (c gen : Nat) (v : Slot)
  | clusterRemap (m : List (Nat × Nat))
  | tltEntryLost (t : Nat)
  | priResponse (part asid : Nat) (va : Word) (ans : PriAns)
  | atsInvalidation (part asid : Nat) (va len : Word)
  | l2Fill (asid : Nat) (va : Word) (noise : List (Nat × Byte))
  | l2Writeback (asid : Nat) (va : Word) (noise : List (Nat × Byte))
  | l2ModeChange (priv : Bool)
  | viewLineAssemble (w n : Nat)
  | viewLineEvict (w n : Nat)
  | victimMigrate (token frame : Nat)
deriving DecidableEq, Repr

end Sys2Proof
end

