-- ==== Sys2Proof/Config.lean ====
section
/-!
DEFINITION. What an implementation fixes and the manual does not: the stepping of the silicon, and the functions that the
manual names by standard and does not spell out (SHA-384, ECDSA P-384, HMAC-SHA-384, key derivation). Each is a constant
without a body, so that no proof can lean on a value of it.
-/
namespace Sys2Proof

/-- DEVCFG.STEP (R13). Free. -/
opaque Config.silicon : BitVec 8
/-- SHA-384 of a byte string (R434). Free. -/
opaque Config.sha384 : List Byte → Nat
/-- The unique device secret in the fuses (R436). Free. -/
opaque Config.uds : Nat
/-- SHA-384 of the boot ROM (R437). Free. -/
opaque Config.romDigest : Nat
/-- ECDSA P-384: a signature (r, s) over header bits 511:0 verifies under a key (R434). Free. -/
opaque Config.verifies : Nat → Nat → Nat → Nat → Bool
/-- HMAC-SHA-384 of a key and a digest (R436). Free. -/
opaque Config.hmac : Nat → Nat → Nat
/-- The Alias private key derived from the CDI (R436). Free. -/
opaque Config.aliasKey : Nat → Nat
/-- An SPDM answer's certificate chain or signature over a transcript, under a key (R437). Free. -/
opaque Config.spdm : Nat → Nat → Nat → Nat

/-- What the host answers a hardware reader of a page that it has yet to translate: clk, address space and address (R428). Free. -/
opaque Config.hostAnswer : Nat → Nat → Nat → HostAns
/-- The DeviceID key pair derived from the UDS (R436). Free. -/
opaque Config.deviceKey : Nat → Nat
/-- The certificate of a public key, signed with another key (R436). Free. -/
opaque Config.certify : Nat → Nat → Nat
/-- The lowest rate, in steps below 3.0 GHz, that the links or memories of an uncore island allow (R438). Free. -/
opaque Config.uncoreFloor : Nat → Nat

/-- The L4 code that a NaN outlier is folded to, which R333 does not give. Free. -/
opaque Config.l4OfNan : BitVec 4

end Sys2Proof
end

