-- ==== Sys2Proof/Machine/Legal.lean ====
section
/-!
DEFINITION. What makes an instruction ill-formed, in the order of R95: coded and reserved fields (cause 005), operand codes
(101, 103), and matrix type combinations (006). The shadow and link checks (102, 108) depend on the state and are made
where an instruction is issued.
-/
namespace Sys2Proof

/-! ## Types -/

/-- Integer codes 0x0-0x5 (R88). -/
def Ty.isInt : Ty → Bool
  | .i64 | .i32 | .i16 | .ui16 | .i8 | .ui8 => true
  | _ => false

/-- The signed integer types (R97). -/
def Ty.signed : Ty → Bool
  | .i64 | .i32 | .i16 | .i8 => true
  | _ => false

/-- The IEEE formats .f32, .f16 and .bf16 (R98). -/
def Ty.isIeee : Ty → Bool
  | .f32 | .f16 | .bf16 => true
  | _ => false

/-- Codes 0x6-0xC: floats and tapered formats. -/
def Ty.isFloat : Ty → Bool
  | .f32 | .f16 | .bf16 | .e4m3 | .e5m2 | .t8 | .t6 => true
  | _ => false

/-- Codes 0x0-0xC. -/
def Ty.isElem (t : Ty) : Bool := t.isInt || t.isFloat

/-- SA and SB of T128 follow the type: 1 for codes 0x1, 0x2 and 0x4 (R88). -/
def Ty.matSigned : Ty → Bool
  | .i32 | .i16 | .i8 => true
  | _ => false

/-- Outlier slots of a block-line format (R109). -/
def Ty.slots : Ty → Nat
  | .t8 | .e4m3 => 5
  | .t6 => 9
  | .l4 => 13
  | _ => 0

/-- The block-line element formats (R109). -/
def Ty.isBlockFmt (t : Ty) : Bool := t.slots != 0

/-! ## Coded and reserved fields (cause 005) -/

/-- IMM16 is reserved unless some source is code 63 (R82). -/
def immOk (imm : BitVec 16) (l : List Opd) : Bool := imm == 0 || l.contains .imm

/-- A take bit on an immediate operand traps with cause 005 (R91). -/
def takeOk (o : Opd) (t : Bool) : Bool := !(t && o == .imm)

def Bin.ok (o : Bin) : Bool := takeOk o.a o.ta && takeOk o.b o.tb && immOk o.imm [o.a, o.b]
def Un.ok (o : Un) : Bool := takeOk o.a o.ta && immOk o.imm [o.a]
def Src.ok (o : Src) : Bool := takeOk o.a o.ta && immOk o.imm [o.a]

/-- Common rules of M96 (R90, R171, R178). -/
def MemOp.ok (m : MemOp) (sz : Sz) (sm : Sm) : Bool :=
  (m.index != .imm || m.sc == 0) && (sm == .plain || (sz == .d && m.sp == .glob))

def Sm.loads : Sm → Bool
  | .plain | .rf | .tk => true
  | _ => false

def Sm.stores : Sm → Bool
  | .plain | .we | .wf | .wz => true
  | _ => false

/-- LDX, STX and AMOX (R171, R189). -/
def ShardOp.ok (o : ShardOp) : Bool :=
  takeOk o.a o.ta && takeOk o.b o.tb && immOk o.imm [o.a, o.b] &&
  (!o.nc || match o.b with
    | .g n => n.toNat ≤ 30
    | .x k => k.toNat ≤ 6
    | .link _ => false
    | .imm => false
    | .rsv _ => false)

/-- GS of a V96 form whose GS and IMM32 are unused (R201). -/
def VecOp.noGs (v : VecOp) : Bool := v.gs == .g 0 && v.imm == 0
/-- GS read as a scalar: IMM32 has a use only under code 63 (R86). -/
def VecOp.gsVal (v : VecOp) : Bool := v.gs == .imm || v.imm == 0
/-- Operand B: a shape, or the scalar GS under SBF (R201). -/
def VecOp.bOk (v : VecOp) : Bool := if v.sbf then v.sb == 0 && v.gsVal else v.noGs
/-- Only SD and SA are named. -/
def VecOp.da (v : VecOp) : Bool := v.sb == 0 && v.sc == 0 && !v.sbf
/-- Only SD is named. -/
def VecOp.dOnly (v : VecOp) : Bool := v.da && v.sa == 0
/-- Only SA is named. -/
def VecOp.aOnly (v : VecOp) : Bool := v.da && v.sd == 0

/-- MD of an elementwise instruction: R89 for floats, also where VCMP and VBCST round nothing and ignore it (DESIGN CHOICE,
log 92); for integers no rounding mode, .sat only where named (R201). -/
def mdOk (ty : Ty) (md : Md) (satInt : Bool) : Bool :=
  if ty.isInt then md.rm == .rne && (!md.sat || satInt) else true

def Ty.vecArith (t : Ty) : Bool := t.isInt || t.isIeee

/-- Register pair codes of a matrix operand (R223). -/
def pairCode : Opd → Bool
  | .g n => n.toNat % 2 == 0 && n.toNat != 0
  | .x k => k.toNat % 2 == 0
  | _ => false

/-- Register group codes of a matrix operand (R223). -/
def groupCode : Opd → Bool
  | .g n => n.toNat == 8 || n.toNat == 16 || n.toNat == 24
  | .x k => k.toNat == 0
  | _ => false

/-- An operand that OSRC describes: source code, register field, KCNT and TLE (R223, R227, R228). -/
def srcOk (src : BitVec 2) (o : Opd) (kcnt : BitVec 16) (tle : Bool) : Bool :=
  if src == 1 then groupCode o && kcnt == 1
  else if src == 2 then pairCode o && tle
  else if src == 0 then pairCode o
  else false

def kOk (k : BitVec 16) : Bool := 1 ≤ k.toNat && k.toNat ≤ 256

/-- Fields common to every matrix instruction (R88, R229, R230). ACCMODE<2> has no use and is judged as a reserved bit, with 005 and not
006 (R94; DESIGN CHOICE, log 92). -/
def TOp.matOk (t : TOp) : Bool :=
  t.gd == .g 0 && t.notify == 0 && (t.tle || t.tl == 0) &&
  t.sa == t.tya.matSigned && t.sb == t.tyb.matSigned && t.accmode.toNat % 4 != 3 && t.accmode.toNat / 4 % 2 == 0

/-- A matrix instruction other than MMA, MMB and MMS: no OSRC, no TLE, no zero-first start. -/
def TOp.plainMat (t : TOp) : Bool := t.matOk && t.osrc == 0 && !t.tle && t.accmode.toNat < 8

def TOp.mulOk (t : TOp) : Bool :=
  t.matOk && t.gc == .g 0 && t.fn == 0 && kOk t.kcnt && t.step.toNat < t.kcnt.toNat &&
  srcOk (t.osrc.extractLsb' 0 2) t.ga t.kcnt t.tle && srcOk (t.osrc.extractLsb' 2 2) t.gb t.kcnt t.tle

/-- No types, no accumulation mode (R229). -/
def TOp.untyped (t : TOp) : Bool := t.tya == .i64 && t.tyb == .i64 && t.accmode == 0

/-- Fields common to CPY, GATH, SCAT and COLL (R246). -/
def TOp.engOk (t : TOp) (dstMra : Bool) : Bool :=
  t.acc == 0 && t.accmode == 0 && t.tyb == .i64 && !t.sb && t.step == 0 && t.notify.toNat < 2 && t.tle &&
  (t.osrc.extractLsb' 2 2 != 3) && (dstMra || t.osrc.extractLsb' 0 2 != 3)

def PostOp.ok (p : PostOp) : Bool :=
  p.ntb.toNat ≤ 4 && (p.mask != .imm || p.ntb == 0) && (p.mask == .imm || p.imm == 0)

/-- First register of a stage record (R268); any other code of the field traps 005 (DESIGN CHOICE, log 92). -/
def recordCode (o : Opd) : Bool := groupCode o

/-- Cause 005 does not apply: every coded field is defined and every unused field is 0 (R94). -/
def Instr.coded : Instr → Bool
  | .iadd ty _ o | .isub ty _ o | .imul ty _ o => ty.isInt && o.ok
  | .imulh ty o | .idiv ty o | .irem ty o | .imin ty o | .imax ty o => ty.isInt && o.ok
  | .iabs ty _ o => ty.isInt && o.ok
  | .and o | .or o | .xor o | .andn o => o.ok
  | .shl ty o | .shr ty o | .sra ty o | .rol ty o => ty.isInt && o.ok
  | .clz ty o | .ctz ty o | .popc ty o => ty.isInt && o.ok
  | .bswap ty o => ty.isInt && ty != .i8 && ty != .ui8 && o.ok
  | .bfx o | .bfi o | .iext o => o.ok
  | .cmp _ ty o => ty.isInt && o.ok
  | .sel o => o.ok
  | .ldi _ _ | .ldk _ _ => true
  | .adda o => takeOk o.a o.ta && takeOk o.b o.tb && (o.b == .imm || o.imm.toNat < 4)
  | .mramk o => o.ok
  | .self _ => true
  | .br _ => true
  | .bz a _ | .bnz a _ => a.ok
  | .bcmp _ ty a ta b tb _ => ty.isInt && takeOk a ta && takeOk b tb
  | .jmp a ta => takeOk a ta
  | .call _ a off => a == .imm || off == 0
  | .loop _ _ | .nop => true
  | .empty _ | .markf _ | .probe _ _ => true
  | .waitf a ta => takeOk a ta
  | .qcfg _ a imm => immOk imm [a]
  | .qrst _ | .qocc _ _ => true
  | .ld sz sm _ m => m.ok sz sm && sm.loads && !m.tv
  | .st sz sm _ m | .stc sz sm _ m => m.ok sz sm && sm.stores
  | .pref _ m | .resid _ m | .evict _ m => m.ok .b .plain && m.sp == .glob
  | .fence => true
  | .ldl sz sm _ _ m => m.ok sz sm && sm.loads
  | .rsend _ a ta imm _ => takeOk a ta && immOk imm [a]
  | .ldx sz sm o => o.ok && sm.loads && (sm == .plain || sz == .d)
  | .stx sz sm o => o.ok && sm.stores && (sm == .plain || sz == .d)
  | .smfrz a | .smrel a => a.ok
  | .amo op l sz mreg lo m =>
    m.ok sz .plain && (sz == .w || sz == .d) && m.sp == .glob && (op != .fadd || sz == .w) &&
    (l || (!m.tv && mreg == .g 0 && lo == ⟨false, false, 0⟩))
  | .cas sz m => (sz == .w || sz == .d) && m.sp == .glob && m.sc == 0 && !m.tv
  | .amox op sz o => o.ok && (sz == .w || sz == .d) && (op != .fadd || sz == .w)
  | .flagf _ m => m.index == .imm && m.sc == 0 && m.sp == .glob
  | .shld v => v.dOnly && v.count == 0
  | .shst v => v.aOnly && v.count == 0
  | .shset f v =>
    v.dOnly && v.count == 0 && v.gsVal && f != .remain && f != .index && (f != .rewind || (v.gs == .imm && v.imm == 0))
  | .shadv v => v.dOnly && v.count == 0 && v.gsVal
  | .shrd f v => v.aOnly && v.count == 0 && v.imm == 0 && f != .rewind
  | .vadd ty md v | .vsub ty md v | .vmul ty md v => ty.vecArith && v.sc == 0 && v.bOk && mdOk ty md true
  | .vfma ty _ v => ty.isIeee && v.bOk
  | .vmin ty md v | .vmax ty md v => ty.vecArith && v.sc == 0 && v.bOk && mdOk ty md false
  | .vabs ty md v | .vneg ty md v => ty.vecArith && v.da && v.noGs && mdOk ty md true
  | .vand ty v | .vor ty v | .vxor ty v | .vshl ty v | .vshr ty v => ty.isInt && v.sc == 0 && v.bOk
  | .vcmp cc ty md v =>
    ty.vecArith && v.sc == 0 && v.bOk && mdOk ty md false &&
    (ty.isInt || (cc != .ltu && cc != .leu && cc != .gtu && cc != .geu))
  | .vsel ty v => ty.isElem && v.bOk
  | .vcvt ty _ v => ty.isElem && v.da && v.gs == .imm && v.imm.toNat ≤ 12
  | .vcopy ty v => (ty.isElem || ty == .blk) && v.da && v.noGs
  | .vbcst ty md v => ty.isElem && v.dOnly && v.gsVal && mdOk ty md false
  | .vgath ty v | .vscat ty v => (ty.isElem || ty == .blk) && v.sc == 0 && !v.sbf && v.noGs
  | .vsum ty sat v => ty.vecArith && v.aOnly && v.imm == 0 && (!sat || ty.isInt)
  | .vrmax ty v => ty.vecArith && v.aOnly && v.imm == 0
  | .vsfu _ ty _ v => ty.isIeee && v.da && v.noGs
  | .vqnt ty md v =>
    ty.isBlockFmt && v.da && v.gs == .imm && v.imm.toNat ≤ ty.slots && (ty != .l4 || md == ⟨.rne, false⟩)
  | .vdq ty _ v => ty.isBlockFmt && v.da && v.noGs
  | .vpclr ty v => (ty.isElem || ty == .blk) && v.dOnly && v.noGs
  | .fadd ty _ o | .fsub ty _ o | .fmul ty _ o | .ffma ty _ o => ty.isIeee && o.ok
  | .fmin ty o | .fmax ty o => ty.isIeee && o.ok
  | .fabs ty o | .fneg ty o => ty.isIeee && o.ok
  | .fcmp cc ty o => ty.isIeee && o.ok && (cc != .ltu && cc != .leu && cc != .gtu && cc != .geu)
  | .fcvt dty sty _ _ a ta => dty.isElem && sty.isElem && takeOk a ta
  | .fclass ty o => ty.isFloat && o.ok
  | .cvp form ty _ o => o.ok && (match form with
    | .h2 => ty == .f16 || ty == .bf16
    | .b4 => ty == .i8 || ty == .ui8 || ty == .e4m3 || ty == .e5m2 || ty == .t8
    | .q4 => ty == .l4
    | .t6 => ty == .t6)
  | .cvu ty o => o.ok && (ty == .f16 || ty == .bf16 || ty == .i8 || ty == .ui8 || ty == .e4m3 || ty == .e5m2
      || ty == .t8 || ty == .t6 || ty == .l4)
  | .fexp2 ty _ o | .flog2 ty _ o | .frcp ty _ o | .frsq ty _ o => ty.isIeee && o.ok
  | .fsqrt ty _ o | .fsin ty _ o | .fcos ty _ o | .ftanh ty _ o => ty.isIeee && o.ok
  | .mma t | .mmb t | .mms t => t.mulOk
  | .mcmp t => t.plainMat && pairCode t.ga && pairCode t.gb && t.gc == .g 0 && t.acc == 0 && t.fn == 0 &&
      kOk t.kcnt && t.step.toNat < t.kcnt.toNat
  | .mzero t => t.plainMat && t.untyped && t.ga == .g 0 && t.gb == .g 0 && t.gc == .g 0 && t.fn == 0 && t.kcnt == 0
      && t.step == 0
  | .mlda t | .msta t => t.plainMat && t.untyped && pairCode t.ga && t.gb == .g 0 && t.gc == .g 0 && t.fn == 0 &&
      t.kcnt == 0 && t.step == 0
  | .mdrn t =>
    t.plainMat && pairCode t.ga && t.kcnt == 0 && t.step.toNat < 4 && t.fn.toNat < 64 && t.fn.toNat % 8 ≤ 5 &&
    (if t.fn.getLsbD 5 then t.fn.toNat % 16 == 0 else t.gb == .g 0 && t.gc == .g 0)
  | .mrsum t | .mcsum t => t.plainMat && pairCode t.ga && t.gb == .g 0 && t.fn == 0 && kOk t.kcnt &&
      t.step.toNat < t.kcnt.toNat
  | .mtbl t => t.plainMat && t.untyped && t.gb == .g 0 && t.gc == .g 0 && t.acc == 0 && t.fn == 0 && t.kcnt == 0 &&
      t.step == 0
  | .mstat t => t.plainMat && t.untyped && t.gb == .g 0 && t.gc == .g 0 && t.fn.toNat < 2 && t.kcnt == 0 && t.step == 0
  | .cpy t => t.engOk true && t.fn == 0 && t.tya == .i64 && !t.sa &&
      (if t.gd == .imm then t.kcnt != 0 else t.kcnt == 0)
  | .gath t | .scat t => t.engOk false && t.fn.toNat ≤ 12 && t.tya == .i64 && !t.sa && t.kcnt != 0
  | .coll _ t => t.engOk false && t.fn == 0 && t.kcnt == 0 && t.sa == t.tya.matSigned &&
      (t.tya == .i64 || t.tya == .i32 || t.tya == .f32 || t.tya == .bf16)
  | .tlwait _ a => a.ok
  | .tlread _ _ fld => fld.toNat ≤ 5
  | .tlnote _ a ta imm _ => takeOk a ta && immOk imm [a]
  | .fqprst _ => true
  | .start a _ | .hjoin a => a.ok
  | .hexit => true
  | .post p | .susp p => p.ok
  | .yield | .uexit => true
  | .enq _ a b | .enqw _ a b => a.ok && recordCode b
  | .deq | .recdone => true
  | .splitok a => a.ok
  | .mergeok => true
  | .tballoc o => o.ok
  | .tbfree a => a.ok
  | .tbset _ a ta b tb imm => takeOk a ta && takeOk b tb && immOk imm [a, b]
  | .tbstat o => o.ok
  | .spanx | .spanc | .gbar => true
  | .lcnt _ _ | .cancel _ => true
  | .pchk _ a ta => takeOk a ta
  | .pclr _ | .pset _ => true
  | .sig _ | .upret => true
  | .upmask o => takeOk o.a o.ta && (if o.a == .imm then o.imm.toNat ≤ 1 else o.imm == 0)
  | .trap _ | .tret => true
  | .csrr _ _ => true
  | .csrw a _ _ => a != .imm
  | .tinv d a b scope => a != .imm && b != .imm && scope != 3 && (scope == 0 || (a == .g 0 && b == .g 0)) &&
      (scope != 2 || d == .g 0)
  | .tsync | .l2fl _ | .idle => true
  | _ => true

/-! ## Operand codes (causes 101 and 103) -/

/-- The sets of operand codes a field accepts (R91 and the field rules of each chapter). -/
inductive Accept where
  | gen       -- D: general, link, shadow
  | src       -- A, B, GS: general, link, shadow, 63
  | srcReg    -- a source that refuses 63
  | gx        -- general and shadow
  | gxi       -- general, shadow, 63
  | gOnly     -- general only (presence instructions, R168)
  | sfuDst    -- g1-g31 (R160)
deriving DecidableEq, Repr

def Accept.takes (k : Accept) : Opd → Bool
  | .g n => match k with | .sfuDst => n != 0 | _ => true
  | .link _ => match k with | .gen | .src | .srcReg => true | _ => false
  | .x _ => match k with | .gOnly | .sfuDst => false | _ => true
  | .imm => match k with | .src | .gxi => true | _ => false
  | .rsv _ => false

def Bin.opds (o : Bin) : List (Opd × Accept) := [(o.d, .gen), (o.a, .src), (o.b, .src)]
def Un.opds (o : Un) : List (Opd × Accept) := [(o.d, .gen), (o.a, .src)]
def MemOp.addr (m : MemOp) : List (Opd × Accept) := [(m.base, .gxi), (m.index, .gxi)]
def ShardOp.opds (o : ShardOp) : List (Opd × Accept) := [(o.d, .gx), (o.a, .gxi), (o.b, .gx)]

/-- The operand fields of an instruction with what each accepts. -/
def Instr.opds : Instr → List (Opd × Accept)
  | .iadd _ _ o | .isub _ _ o | .imul _ _ o => o.opds
  | .imulh _ o | .idiv _ o | .irem _ o | .imin _ o | .imax _ o => o.opds
  | .iabs _ _ o => o.opds
  | .and o | .or o | .xor o | .andn o => o.opds
  | .shl _ o | .shr _ o | .sra _ o | .rol _ o => o.opds
  | .clz _ o | .ctz _ o | .popc _ o | .bswap _ o => o.opds
  | .bfx o | .bfi o | .iext o => o.opds
  | .cmp _ _ o => o.opds
  | .sel o | .adda o | .mramk o => o.opds
  | .ldi d _ => [(d, .gen)]
  | .ldk d _ => [(d, .gen)]
  | .self d => [(d, .gen)]
  | .bz a _ | .bnz a _ => [(a.a, .src)]
  | .bcmp _ _ a _ b _ _ => [(a, .srcReg), (b, .srcReg)]
  | .jmp a _ => [(a, .srcReg)]
  | .call d a _ => [(d, .gen), (a, .src)]
  | .loop d _ => [(d, .gen)]
  | .empty d | .markf d | .qrst d => [(d, .gOnly)]
  | .probe d a | .qocc d a => [(d, .gen), (a, .gOnly)]
  | .waitf a _ => [(a, .gOnly)]
  | .qcfg d a _ => [(d, .gOnly), (a, .src)]
  | .ld _ _ _ m | .st _ _ _ m | .stc _ _ _ m => (m.v, .gx) :: m.addr
  | .pref _ m | .resid _ m | .evict _ m => (m.v, .gx) :: m.addr
  | .ldl _ _ _ _ m => (m.v, .gx) :: m.addr
  | .rsend d a _ _ _ => [(d, .gx), (a, .gxi)]
  | .ldx _ _ o | .stx _ _ o => o.opds
  | .smfrz a | .smrel a => [(a.a, .gxi)]
  | .amo _ _ _ mreg _ m => (m.v, .gx) :: (mreg, .gx) :: m.addr
  | .cas _ m => (m.v, .gx) :: m.addr
  | .amox _ _ o => o.opds
  | .flagf _ m => (m.v, .gx) :: m.addr
  | .shld v | .shst v => [(v.gs, .src)]
  | .shset _ v | .shadv v => [(v.gs, .src)]
  | .shrd _ v => [(v.gs, .gx)]
  | .vadd _ _ v | .vsub _ _ v | .vmul _ _ v | .vfma _ _ v | .vmin _ _ v | .vmax _ _ v => [(v.gs, .src)]
  | .vabs _ _ v | .vneg _ _ v => [(v.gs, .src)]
  | .vand _ v | .vor _ v | .vxor _ v | .vshl _ v | .vshr _ v => [(v.gs, .src)]
  | .vcmp _ _ _ v => [(v.gs, .src)]
  | .vsel _ v => [(v.gs, .src)]
  | .vcvt _ _ v | .vbcst _ _ v => [(v.gs, .src)]
  | .vcopy _ v | .vgath _ v | .vscat _ v | .vpclr _ v => [(v.gs, .src)]
  | .vsum _ _ v => [(v.gs, .gx)]
  | .vrmax _ v => [(v.gs, .gx)]
  | .vsfu _ _ _ v => [(v.gs, .src)]
  | .vqnt _ _ v | .vdq _ _ v => [(v.gs, .src)]
  | .fadd _ _ o | .fsub _ _ o | .fmul _ _ o | .ffma _ _ o => o.opds
  | .fmin _ o | .fmax _ o => o.opds
  | .fabs _ o | .fneg _ o | .fclass _ o => o.opds
  | .fcmp _ _ o => o.opds
  | .fcvt _ _ _ d a _ => [(d, .gen), (a, .src)]
  | .cvp _ _ _ o => o.opds
  | .cvu _ o => o.opds
  | .fexp2 _ _ o | .flog2 _ _ o | .frcp _ _ o | .frsq _ _ o => [(o.d, .sfuDst), (o.a, .src)]
  | .fsqrt _ _ o | .fsin _ _ o | .fcos _ _ o | .ftanh _ _ o => [(o.d, .sfuDst), (o.a, .src)]
  | .mma t | .mmb t | .mms t | .mcmp t | .mzero t | .mlda t | .msta t => [(t.ga, .gx), (t.gb, .gx)]
  | .mdrn t => [(t.ga, .gx), (t.gb, .gx), (t.gc, .gx)]
  | .mrsum t | .mcsum t => [(t.ga, .gx), (t.gc, .gx)]
  | .mtbl t | .mstat t => [(t.ga, .gx)]
  | .cpy t => [(t.ga, .gx), (t.gb, .gx), (t.gc, .gx), (t.gd, .gxi)]
  | .gath t | .scat t => [(t.ga, .gx), (t.gb, .gx), (t.gc, .gx), (t.gd, .gx)]
  | .coll _ t => [(t.ga, .gx), (t.gb, .gx), (t.gc, .gx), (t.gd, .gx)]
  | .tlwait _ a => [(a.a, .src)]
  | .tlread d _ _ => [(d, .gen)]
  | .tlnote d a _ _ _ => [(d, .gen), (a, .src)]
  | .start a _ | .hjoin a => [(a.a, .src)]
  | .post p | .susp p => [(p.aff, .gx), (p.mask, .src)]
  | .enq d a b | .enqw d a b => [(d, .gen), (a.a, .src), (b, .gx)]
  | .splitok a | .tbfree a => [(a.a, .src)]
  | .tballoc o | .tbstat o => o.opds
  | .tbset _ a _ b _ _ => [(a, .src), (b, .src)]
  | .lcnt d _ => [(d, .gen)]
  | .pchk d a _ => [(d, .gx), (a, .gx)]
  | .pclr d | .pset d => [(d, .gx)]
  | .upmask o => [(o.d, .gx), (o.a, .gxi)]
  | .csrr d _ => [(d, .gx)]
  | .csrw a _ _ => [(a, .gx)]
  | .tinv d a b _ => [(d, .gx), (a, .gx), (b, .gx)]
  | _ => []

def Opd.isRsv : Opd → Bool
  | .rsv _ => true
  | _ => false

def Opd.isX : Opd → Bool
  | .x _ => true
  | _ => false

def Opd.isLink : Opd → Bool
  | .link _ => true
  | _ => false

/-- Cause 101 does not apply. -/
def Instr.noRsv (i : Instr) : Bool := i.opds.all (fun p => !p.1.isRsv)
/-- Cause 103 does not apply. -/
def Instr.accepted (i : Instr) : Bool := i.opds.all (fun p => p.2.takes p.1)
/-- The instruction names a shadow register (cause 102 outside a handler, R91). -/
def Instr.usesShadow (i : Instr) : Bool := i.opds.any (fun p => p.1.isX)
/-- The instruction names a mesh link (cause 108 outside an exchange span, R47). -/
def Instr.usesLink (i : Instr) : Bool := i.opds.any (fun p => p.1.isLink)

/-! ## Matrix type combinations (cause 006) -/

def Ty.intTile : Ty → Bool
  | .i8 | .ui8 | .l4 => true
  | _ => false

def Ty.float8 : Ty → Bool
  | .e4m3 | .e5m2 | .t8 | .t6 => true
  | _ => false

/-- The combinations the matrix unit implements (R229). -/
def Instr.combo : Instr → Bool
  | .mma t =>
    let m := t.accmode.toNat % 4
    (t.tya.intTile && t.tyb.intTile && (m == 1 || m == 2)) || (t.tya.float8 && t.tyb.float8 && m == 0) ||
    (t.tya == .bf16 && t.tyb == .bf16 && m == 0) || (t.tya == .f16 && t.tyb == .f16 && m == 0)
  | .mmb t => t.tya.isBlockFmt && t.tyb.isBlockFmt && t.accmode.toNat % 4 == 0
  | .mms t =>
    let m := t.accmode.toNat % 4
    ((t.tya == .i8 || t.tya == .ui8) && t.tyb.intTile && (m == 1 || m == 2)) ||
    (t.tya.float8 && t.tyb.float8 && m == 0)
  | .mcmp t => (t.tya == .i8 || t.tya == .ui8 || t.tya.float8) && t.tyb == .i64 && t.accmode.toNat % 4 == 0
  | .mrsum t | .mcsum t => t.tya.intTile && t.tyb == .i64 && (t.accmode.toNat % 4 == 1 || t.accmode.toNat % 4 == 2)
  | .mdrn t =>
    t.tyb == .i64 && (t.accmode.toNat % 4 == 0 || t.accmode.toNat % 4 == 1) && t.tya.isElem && t.tya != .i64 &&
    (!t.fn.getLsbD 5 || (t.accmode.toNat % 4 == 1 && t.tya.isInt))
  | _ => true

/-! ## Codes on the fabric (R90, R186, R416) -/

/-- A sync mode that may wait at the home (R178, R179). -/
def Sm.waits : Sm → Bool
  | .rf => true | .tk => true | .we => true | .plain => false | .wf => false | .wz => false

def Sm.num : Sm → Nat
  | .plain => 0 | .rf => 1 | .tk => 2 | .we => 3 | .wf => 4 | .wz => 5
def Sz.num : Sz → Nat
  | .b => 0 | .h => 1 | .w => 2 | .d => 3
def AOp.num : AOp → Nat
  | .add => 0 | .fadd => 1 | .min => 2 | .max => 3 | .umin => 4 | .umax => 5 | .and => 6 | .or => 7 | .xor => 8 | .swap => 9

/-! ## Machine steps -/

/-- The rows that are encoded instructions; the others are steps of the machine. -/
def Instr.isStep : Instr → Bool
  | .fetchFault _ | .decodeTrap _ _ | .trapEntry _ _ _ | .upcallEntry _ _ _ | .noticeDelivery _ _ | .noticeArrival _
  | .noticeRetry _ | .landingDelivery _ | .landingRetry _ | .landingBounce _ | .sfuResult _ | .accessAccept _ _
  | .loadDataReturn _ | .accessPerform _ | .retryListWalk _ | .requestRetry _ | .accessFailAtHome _ | .smfrzDrain _ _
  | .flagfWrite _ _ | .vectorChunk _ | .matrixStep _ | .matrixGlobalRead _ _ | .engineOpComplete _ _
  | .engineAccess _ _ _ | .collMatch _ _ | .tlnoteLand _ _ | .preemptRequest _ _ | .timeSliceExpiry _
  | .spinDeschedule _ | .unitHalt _ | .unitSave _ | .saveComplete _ | .restoreBegin _ _ | .restoreComplete _
  | .unitDiscard _ | .dispatchSelect _ | .unitBind _ _ | .recordPlacement _ | .groupBind _ _ _ | .groupReserve _ _
  | .recordAgeing _ | .recordEligible _ | .admitLaunchRecord _ _ | .recordFrameRetry _ _ | .unitEndRelease _
  | .jobCompletion _ | .coreClockGate _ | .islandWake _ | .gbarComplete _ | .gangRollback _ | .monitorFire _
  | .priResponse _ _ _ _ | .atsInvalidation _ _ _ _ | .invalidationComplete _ _ | .l2Fill _ _ _ | .l2Writeback _ _ _
  | .l2ModeChange _ | .viewLineAssemble _ _ | .viewLineEvict _ _ | .victimEvict _ _ | .victimRecall _
  | .victimMigrate _ _ | .stageInstall _ | .stageUninstall _ | .instanceStart _ _ _ _ | .governorSample _ _
  | .splitRoutineEntry _ _ _ | .twinStart _ _ _ _ | .brimMove _ _ _ _ | .recordDelivery _ _ _ | .twinQuiesce _ _ _
  | .mergeRoutineEntry _ _ _ | .stageStop _ _ | .slotWrite _ _ _ | .clusterRemap _ | .tltEntryLost _
  | .logEntryWrite _ | .packetReceive _ _ _ | .linkReplay _ | .linkDown _ | .routeChange _ _ _ _ | .peerFailed _
  | .gauntletRequest _ | .responseReceived _ | .hostMemRead _ _ | .hostMemWrite _ _ _ | .hostLockedRmw _ _ _
  | .hostSnoop _ | .aliasDataWrite _ _ | .aliasFullEmptyWrite _ _ | .notifyProdWrite _ _ _ | .notifyErrClear _ _
  | .notifyReprioritise _ _ _ | .windowEnable _ _ | .windowDisable _ _ | .poisonReportClear _ | .bootstCommit
  | .moduleCapWrite _ | .registerWrite _ _ _ | .functionLevelReset _ | .powerOnReset | .bootStep _
  | .treleveberRestart _ | .spdmRequest _ | .dvfsChange _ _ | .powerCapRegulate _ | .softError _ _
  | .deviceErrorReport _ | .peerSetPresent _ | .carveOutChange _ | .islandPowerGating _ _ | .policyFirmwareLoad _ =>
    true
  | _ => false

end Sys2Proof
end

