-- ==== Sys2Proof/Machine/Tab.lean ====
section
/-!
DEFINITION. Finite tables: a list of (key, entry) pairs with rising keys. A key that is not listed reads as the default
its reader names. Reads and writes obey the usual laws on every list, so no invariant is needed to use them.
-/
namespace Sys2Proof.Machine

/-- A table by number, as plain data. -/
abbrev Tab (α : Type) := List (Nat × α)

/-- Entry k, or the default d. -/
def Tab.get {α : Type} (d : α) : Tab α → Nat → α
  | [], _ => d
  | (j, v) :: t, k => if j = k then v else Tab.get d t k

/-- Put an entry before the first larger key. -/
def Tab.place {α : Type} (k : Nat) (v : α) : Tab α → Tab α
  | [] => [(k, v)]
  | (j, w) :: t => if k < j then (k, v) :: (j, w) :: t else (j, w) :: Tab.place k v t

/-- Remove entry k. -/
def Tab.del {α : Type} (t : Tab α) (k : Nat) : Tab α := t.filter (fun e => e.1 != k)

/-- Entry k becomes v. -/
def Tab.set {α : Type} (t : Tab α) (k : Nat) (v : α) : Tab α := (t.del k).place k v

/-- Entry k becomes v; an entry equal to the default is not listed. -/
def Tab.put {α : Type} [DecidableEq α] (d : α) (t : Tab α) (k : Nat) (v : α) : Tab α :=
  if v = d then t.del k else t.set k v

/-- Element i of a list replaced by f of it. -/
def modNth {α : Type} (f : α → α) : Nat → List α → List α
  | _, [] => []
  | 0, a :: l => f a :: l
  | n + 1, a :: l => a :: modNth f n l

/-- A list without its element i. -/
def dropNth {α : Type} : Nat → List α → List α
  | _, [] => []
  | 0, _ :: l => l
  | n + 1, a :: l => a :: dropNth n l

/-- The first element that satisfies f, replaced by g of it. -/
def modFirst {α : Type} (f : α → Bool) (g : α → α) : List α → List α
  | [] => []
  | a :: l => if f a then g a :: l else a :: modFirst f g l

/-- The list without the first element that satisfies f. -/
def dropFirst {α : Type} (f : α → Bool) : List α → List α
  | [] => []
  | a :: l => if f a then l else a :: dropFirst f l

/-- Position of the first element that satisfies f. -/
def indexOf {α : Type} (f : α → Bool) : List α → Option Nat
  | [] => none
  | a :: l => if f a then some 0 else (indexOf f l).map (· + 1)

/-- 0, 1, …, n − 1. -/
def upto (n : Nat) : List Nat := List.range n

end Sys2Proof.Machine
end

