-- ==== Sys2Proof/Machine/Num.lean ====
section
/-!
DEFINITION. Numbers (R97-R117): exact values of the formats, RoundTo, Sat, conversions, the stochastic draw, and exact sums
and products. A finite value is num × 2^exp with its sign; nothing is rounded but by round.
-/
namespace Sys2Proof.Machine

/-! ## Exact values -/

/-- A value of a float format, or of an exact computation. -/
inductive FV where
  | nan
  | inf (neg : Bool)
  | zero (neg : Bool)
  | fin (neg : Bool) (num : Nat) (exp : Int)
deriving DecidableEq, Repr

/-- (−1)^neg × num × 2^exp, zero when num is 0. -/
def FV.mk' (neg : Bool) (num : Nat) (exp : Int) : FV := if num = 0 then .zero neg else .fin neg num exp

def FV.ofInt (i : Int) : FV := if i = 0 then .zero false else .fin (i < 0) i.natAbs 0

def FV.neg : FV → FV
  | .nan => .nan
  | .inf n => .inf (!n)
  | .zero n => .zero (!n)
  | .fin n m e => .fin (!n) m e

def FV.abs : FV → FV
  | .nan => .nan
  | .inf _ => .inf false
  | .zero _ => .zero false
  | .fin _ m e => .fin false m e

def FV.isNeg : FV → Bool
  | .nan => false
  | .inf n => n
  | .zero n => n
  | .fin n _ _ => n

def FV.isNan (x : FV) : Bool := x == .nan

/-- The exact product; a zero product takes the XOR of the signs (R99). -/
def FV.mul : FV → FV → FV
  | .nan, _ => .nan
  | _, .nan => .nan
  | .inf a, y => match y with | .zero _ => .nan | .inf b => .inf (a != b) | .fin b _ _ => .inf (a != b) | .nan => .nan
  | x, .inf b => match x with | .zero _ => .nan | .fin a _ _ => .inf (a != b) | .inf a => .inf (a != b) | .nan => .nan
  | .zero a, y => .zero (a != y.isNeg)
  | x, .zero b => .zero (x.isNeg != b)
  | .fin a m e, .fin b n f => .fin (a != b) (m * n) (e + f)

/-- num × 2^exp as an integer multiple of 2^q, for q ≤ exp. -/
def scaleTo (num : Nat) (exp q : Int) : Nat := num * 2 ^ (exp - q).toNat

/-- The exact sum. An exact zero is +0, or −0 under .rdn; zeros of one sign keep it (R99). -/
def FV.add (rdn : Bool) : FV → FV → FV
  | .nan, _ => .nan
  | _, .nan => .nan
  | .inf a, .inf b => if a == b then .inf a else .nan
  | .inf a, _ => .inf a
  | _, .inf b => .inf b
  | .zero a, .zero b => .zero (if a == b then a else rdn)
  | .zero _, .fin b n f => .fin b n f
  | .fin a m e, .zero _ => .fin a m e
  | .fin a m e, .fin b n f =>
    let q := min e f
    let x : Int := scaleTo m e q
    let y : Int := scaleTo n f q
    let t := (if a then -x else x) + (if b then -y else y)
    if t = 0 then .zero rdn else .fin (t < 0) t.natAbs q

/-- Comparison of the magnitudes of two finite values. -/
def magLt (m : Nat) (e : Int) (n : Nat) (f : Int) : Bool := scaleTo m e (min e f) < scaleTo n f (min e f)

/-- x < y, with −0 equal to +0; false with a NaN. -/
def FV.lt (x y : FV) : Bool :=
  match x, y with
  | .nan, _ => false
  | _, .nan => false
  | .inf a, .inf b => a && !b
  | .inf a, _ => a
  | _, .inf b => !b
  | .zero _, .zero _ => false
  | .zero _, .fin b _ _ => !b
  | .fin a _ _, .zero _ => a
  | .fin a m e, .fin b n f => if a then if b then magLt n f m e else true else if b then false else magLt m e n f

/-- x = y as real numbers or infinities; false with a NaN. -/
def FV.eq (x y : FV) : Bool := !x.isNan && !y.isNan && !(x.lt y) && !(y.lt x)

/-! ## Formats (R97, R98, R100-R103) -/

/-- Width in bits. -/
def tyWidth : Ty → Nat
  | .i64 => 64 | .i32 => 32 | .i16 => 16 | .ui16 => 16 | .i8 => 8 | .ui8 => 8
  | .f32 => 32 | .f16 => 16 | .bf16 => 16 | .e4m3 => 8 | .e5m2 => 8 | .t8 => 8 | .t6 => 6 | .l4 => 4 | .blk => 512

/-- Exponent bits, fraction bits and bias of the IEEE-like formats. -/
def floatShape : Ty → Option (Nat × Nat × Int)
  | .f32 => some (8, 23, 127)
  | .f16 => some (5, 10, 15)
  | .bf16 => some (8, 7, 127)
  | .e4m3 => some (4, 3, 7)
  | .e5m2 => some (5, 2, 15)
  | _ => none

/-- Int(v, w, sg) of R146. -/
def intOf (w : Nat) (sg : Bool) (v : Nat) : Int :=
  let u := v % 2 ^ w
  if sg && 2 ^ (w - 1) ≤ u then (u : Int) - 2 ^ w else u

/-- Ext(v, w, sg) of R146. -/
def extOf (w : Nat) (sg : Bool) (i : Int) : Word := BitVec.ofInt 64 (intOf w sg (i % 2 ^ w).toNat)

/-- Length of the regime run of a tapered payload (R102). -/
def runLen (p n : Nat) (b : Bool) : Nat → Nat
  | 0 => n
  | k + 1 => let m := n - (k + 1); if p.testBit (n - 1 - m) == b then runLen p n b k else m

/-- Magnitude of a tapered payload: num and exponent (R102). -/
def taperMag (n p : Nat) : Nat × Int :=
  let b := p.testBit (n - 1)
  let m := runLen p n b n
  let k : Int := if b then (m : Int) - 1 else -(m : Int)
  let rest := if m = n then 0 else n - 1 - m
  let eb := n == 7 && 1 ≤ rest
  let e : Int := if eb && p.testBit (rest - 1) then 1 else 0
  let w := if eb then rest - 1 else rest
  let x := if n = 7 then 2 * k + e else k
  (2 ^ w + p % 2 ^ w, x - w)

/-- Payload bits of a tapered format. -/
def taperBits (ty : Ty) : Nat := if ty = .t8 then 7 else 5

/-- The value of a code (R97-R103). Void decodes as a NaN; L4 and block lines are not decoded here. -/
def decodeNum (ty : Ty) (code : Nat) : FV :=
  let c := code % 2 ^ tyWidth ty
  match floatShape ty with
  | some (eb, fb, bias) =>
    let s := c.testBit (eb + fb)
    let e := c / 2 ^ fb % 2 ^ eb
    let f := c % 2 ^ fb
    if ty = .e4m3 && e == 15 && f == 7 then .nan
    else if ty ≠ .e4m3 && e + 1 == 2 ^ eb then if f = 0 then .inf s else .nan
    else if e = 0 then .mk' s f (1 - bias - fb)
    else .fin s (2 ^ fb + f) (e - bias - fb)
  | none =>
    if ty = .t8 || ty = .t6 then
      let n := taperBits ty
      let s := c.testBit n
      let p := c % 2 ^ n
      if p = 0 then if s then .nan else .zero false
      else .fin s (taperMag n p).1 (taperMag n p).2
    else if ty.isInt then .ofInt (intOf (tyWidth ty) ty.signed c)
    else .nan

/-- The canonical NaN, or void (R99, R104). -/
def canonNan : Ty → Nat
  | .f32 => 0x7FC00000 | .f16 => 0x7E00 | .bf16 => 0x7FC0 | .e4m3 => 0x7F | .e5m2 => 0x7E | .t8 => 0x80 | .t6 => 0x20
  | _ => 0

/-! ## Rounding (R113-R115) -/

/-- Round up in magnitude: m is the truncated magnitude, rem / 2^sh the part dropped, r the stochastic draw. -/
def roundsUp (rm : Rm) (neg : Bool) (r m rem sh : Nat) : Bool :=
  match rm with
  | .rne => 2 ^ sh < 2 * rem || (2 * rem == 2 ^ sh && m % 2 == 1)
  | .rtz => false
  | .rdn => neg && rem != 0
  | .rup => !neg && rem != 0
  | .rna => 2 ^ sh ≤ 2 * rem
  | .sto => r < rem * 65536 / 2 ^ sh

/-- A magnitude as a multiple of 2^q, rounded. -/
def roundQuantum (rm : Rm) (neg : Bool) (r num : Nat) (exp q : Int) : Nat :=
  if q ≤ exp then scaleTo num exp q
  else
    let sh := (q - exp).toNat
    let m := num / 2 ^ sh
    if roundsUp rm neg r m (num % 2 ^ sh) sh && num % 2 ^ sh != 0 then m + 1 else m

/-- What an overflow gives: an infinity, or the largest finite value (R113). -/
def overflowsToInf (rm : Rm) (neg : Bool) : Bool :=
  match rm with
  | .rne => true | .rna => true | .rtz => false | .sto => false | .rdn => neg | .rup => !neg

/-- RoundTo and Sat for a format with exponent and fraction fields (R98-R101, R113, R116). -/
def roundFloat (ty : Ty) (eb fb : Nat) (bias : Int) (md : Md) (r : Nat) (x : FV) : Nat :=
  let sgn (n : Bool) : Nat := if n then 2 ^ (eb + fb) else 0
  let maxMag : Nat := if ty = .e4m3 then 0x7E else (2 ^ eb - 1) * 2 ^ fb - 1
  let infMag : Nat := (2 ^ eb - 1) * 2 ^ fb
  match x with
  | .nan => canonNan ty
  | .zero n => sgn n
  | .inf n => if ty = .e4m3 then if md.sat then sgn n + maxMag else canonNan ty else sgn n + infMag
  | .fin n num exp =>
    let qmin : Int := 1 - bias - fb
    let q : Int := max (exp + num.log2 - fb) qmin
    let m := roundQuantum md.rm n r num exp q
    -- a carry out of the significand moves the quantum up by one
    let (m, q) := if m = 2 ^ (fb + 1) then (2 ^ fb, q + 1) else (m, q)
    let mag : Nat := if m < 2 ^ fb then m else (q - qmin).toNat * 2 ^ fb + m
    if mag ≤ maxMag then sgn n + mag
    else if md.sat || !overflowsToInf md.rm n then sgn n + maxMag
    else if ty = .e4m3 then canonNan ty
    else sgn n + infMag

/-- num × 2^exp compared with m × 2^e: at most. -/
def magLe (m : Nat) (e : Int) (n : Nat) (f : Int) : Bool := !magLt n f m e

/-- The largest payload whose magnitude is at most num × 2^exp; payload 0 is zero. -/
def taperFloor (n num : Nat) (exp : Int) : Nat → Nat
  | 0 => 0
  | p + 1 => if magLe (taperMag n (p + 1)).1 (taperMag n (p + 1)).2 num exp then p + 1 else taperFloor n num exp p

/-- RoundTo(T8) and RoundTo(T6) (R104, R115). -/
def roundTaper (ty : Ty) (rm : Rm) (r : Nat) (x : FV) : Nat :=
  let n := taperBits ty
  match x with
  | .nan => canonNan ty
  | .inf _ => canonNan ty
  | .zero _ => 0
  | .fin neg num exp =>
    let top := 2 ^ n - 1
    let p := taperFloor n num exp top
    let p' := if p = top then p else
      let q := min exp (-16)
      let lo := if p = 0 then 0 else scaleTo (taperMag n p).1 (taperMag n p).2 q
      let hi := scaleTo (taperMag n (p + 1)).1 (taperMag n (p + 1)).2 q
      let v := scaleTo num exp q
      let up := match rm with
        | .rne => lo + hi < 2 * v || (2 * v == lo + hi && p % 2 == 1)
        | .rtz => false
        | .rdn => neg && lo < v
        | .rup => !neg && lo < v
        | .rna => lo + hi ≤ 2 * v
        | .sto => r < (v - lo) * 65536 / (hi - lo)
      if up then p + 1 else p
    if p' = 0 then 0 else (if neg then 2 ^ n else 0) + p'

/-- A value rounded to an integer (R113); infinities and NaN have no integer. -/
def roundInt (rm : Rm) (r : Nat) : FV → Int
  | .fin n num exp => let m : Int := roundQuantum rm n r num exp 0; if n then -m else m
  | _ => 0

/-- Smallest and largest value of an integer type (R97). -/
def intMin (w : Nat) (sg : Bool) : Int := if sg then -(2 ^ (w - 1)) else 0
def intMax (w : Nat) (sg : Bool) : Int := if sg then 2 ^ (w - 1) - 1 else 2 ^ w - 1

/-- Sat to an integer range (R97). -/
def clampInt (w : Nat) (sg : Bool) (i : Int) : Int := max (intMin w sg) (min (intMax w sg) i)

/-- Conversion of a value to an integer type: rounded, then clamped; NaN gives 0, an infinity its bound (R117). -/
def toIntTy (ty : Ty) (rm : Rm) (r : Nat) (x : FV) : Int :=
  let w := tyWidth ty
  match x with
  | .nan => 0
  | .inf n => if n then intMin w ty.signed else intMax w ty.signed
  | _ => clampInt w ty.signed (roundInt rm r x)

/-- RoundTo and Sat for every element format: the code, in the low bits. -/
def roundNum (ty : Ty) (md : Md) (r : Nat) (x : FV) : Nat :=
  match floatShape ty with
  | some (eb, fb, bias) => roundFloat ty eb fb bias md r x
  | none =>
    if ty = .t8 || ty = .t6 then roundTaper ty md.rm r x
    else (toIntTy ty md.rm r x % 2 ^ tyWidth ty).toNat

/-- Round to nearest even, no saturation. -/
def mdRne : Md := ⟨.rne, false⟩
/-- RoundTo(FP32, x, rne) as a value again (R118-R121). -/
def rneF32 (x : FV) : FV := decodeNum .f32 (roundNum .f32 mdRne 0 x)

/-! ## The stochastic draw (R114) -/

/-- One step of the LFSR: the new state and the bit fed back. -/
def lfsrStep (s : BitVec 32) : BitVec 32 × Bool :=
  let s := if s = 0 then 1 else s
  let fb := s.getLsbD 31 ^^ s.getLsbD 21 ^^ s.getLsbD 1 ^^ s.getLsbD 0
  ((s <<< 1) ||| (if fb then 1 else 0), fb)

/-- A draw of 16 bits, the first in bit 15. -/
def lfsrDraw (s : BitVec 32) : BitVec 32 × Nat :=
  (upto 16).foldl (fun (x : BitVec 32 × Nat) _ =>
    let y := lfsrStep x.1; (y.1, 2 * x.2 + if y.2 then 1 else 0)) (s, 0)

/-- Round, drawing under .sto (R114). -/
def roundDraw (ty : Ty) (md : Md) (s : BitVec 32) (x : FV) : BitVec 32 × Nat :=
  if md.rm = .sto then let d := lfsrDraw s; (d.1, roundNum ty md d.2 x) else (s, roundNum ty md 0 x)

/-! ## Operations with one rounding (R157, R158) -/

/-- x + y, −0 for an exact zero under .rdn. -/
def fvAdd (md : Md) (x y : FV) : FV := x.add (md.rm == .rdn) y

/-- The smaller or larger, with −0 < +0 and one NaN giving the other (R158). -/
def fvMin (x y : FV) : FV :=
  if x.isNan then y else if y.isNan then x
  else if x.lt y then x else if y.lt x then y else if x.isNeg then x else y
def fvMax (x y : FV) : FV :=
  if x.isNan then y else if y.isNan then x
  else if x.lt y then y else if y.lt x then x else if x.isNeg then y else x

/-- A float condition (R158). -/
def fvCond (cc : Cc) (x y : FV) : Bool :=
  match cc with
  | .eq => x.eq y
  | .ne => !x.eq y
  | .lt => x.lt y
  | .le => x.lt y || x.eq y
  | .gt => y.lt x
  | .ge => y.lt x || x.eq y
  | .ltu => false | .leu => false | .gtu => false | .geu => false

/-- An integer condition; the unsigned forms compare the low w bits (R153). -/
def intCond (cc : Cc) (w : Nat) (sg : Bool) (a b : Nat) : Bool :=
  let x := intOf w sg a
  let y := intOf w sg b
  let u := a % 2 ^ w
  let v := b % 2 ^ w
  match cc with
  | .eq => x = y | .ne => x ≠ y | .lt => x < y | .le => x ≤ y | .gt => y < x | .ge => y ≤ x
  | .ltu => u < v | .leu => u ≤ v | .gtu => v < u | .geu => v ≤ u

/-- FCLASS (R158). -/
def classMask (ty : Ty) (code : Nat) : Nat :=
  match decodeNum ty code with
  | .nan => if ty = .t8 || ty = .t6 then 512 else 256
  | .inf n => if n then 1 else 128
  | .zero n => if n then 8 else 16
  | .fin n num exp =>
    let sub := match floatShape ty with
      | some (_, fb, bias) => num < 2 ^ fb && exp == 1 - bias - fb
      | none => false
    if n then if sub then 4 else 2 else if sub then 32 else 64

end Sys2Proof.Machine
end

