-- ==== Sys2Proof/Machine/Parts.lean ====
section
/-!
DEFINITION. The parts of the machine's state as plain data: registers, contexts, units, cores, memories, records,
accesses and landings in flight, timelines, tables, partitions, stages, the fabric, the host side, boot and power.
Each field names the rule that gives it.
-/
namespace Sys2Proof.Machine

/-! ## Registers and contexts -/

/-- A 64-bit value with its poison bit (R124). -/
structure Val where
  v : Word
  p : Bool
deriving DecidableEq, Repr

/-- Zero, clean. -/
def Val.zero : Val := ⟨0, false⟩

/-- A general register: plain, or a queue (R125, R129). -/
structure GReg where
  v : Word          -- 64 bits; value in plain mode (R125); reset DESIGN CHOICE 0 (log 3)
  f : Bool          -- 1 bit; presence in plain mode (R125); reset 0 (R126)
  p : Bool          -- 1 bit; poison in plain mode (R125); reset 0 (R126)
  depth : Nat       -- 5 bits; queue depth, 0 = plain mode (R129); reset 0 (R126)
  q : List Val      -- up to 16 entries of 65 bits; queue, head first (R129); reset none
deriving DecidableEq, Repr

def GReg.empty : GReg := ⟨0, false, false, 0, []⟩

/-- Assay state (R285). -/
structure Assay where
  armed : Bool      -- 1 bit; armed (R286); reset 0
  e : BitVec 24     -- 24 bits; expected value (R286); reset DESIGN CHOICE 0 (log 3)
  c : BitVec 24     -- 24 bits; running CRC (R285); reset DESIGN CHOICE 0 (log 3)
deriving DecidableEq, Repr

def Assay.reset : Assay := ⟨false, 0, 0⟩

/-- Resume state of an interrupted vector or matrix instruction (R207, R235, R409 VRES). -/
structure Vres where
  kind : Nat                -- 0 none, 1 vector, 2 matrix (R409 FLAGS); reset 0
  addr : Word               -- 64 bits; address of the instruction (R207); reset DESIGN CHOICE 0 (log 3)
  cnt : Nat                 -- 64 bits; count left or step (R207, R235); reset DESIGN CHOICE 0 (log 3)
  next : Nat                -- 64 bits; next index (R207); reset DESIGN CHOICE 0 (log 3)
  run : Val                 -- 65 bits; running value with P (R207); reset DESIGN CHOICE 0 (log 3)
  lanes : List Val          -- 16 lanes of 32 bits with P (R207); reset none
  seen : List Nat := []     -- the model's own: block lines whose violations the instruction has counted (R111, R389); reset none
deriving DecidableEq, Repr

def Vres.none : Vres := ⟨0, 0, 0, 0, .zero, [], []⟩

/-- Why a context waits before issue (R39, R55). -/
inductive Wait where
  | no
  | reg                     -- an empty general register
  | link                    -- an empty mesh link, or a destination without room
  | hjoin | tlwait | gbar | uexit | frame | tsync | idle | smfrz | sfu | engines | fqprst
  | shape | unitIdle | hold
  | woken                   -- an IDLE whose end has come (R302)
  | enqw (asid stage inst : Nat)
  | frameDue                -- a POST or SUSP that is to ask for a frame again (R361)
deriving DecidableEq, Repr

/-- An ENQW in its wait: what it read and where it is routed (R269, R386). -/
structure EnqHold where
  pc : Word                 -- its address
  asid : Nat
  stage : Nat
  inst : Nat                -- KRT entry it is routed to
  lane : Nat                -- address of the lane header
  at_ : Nat                 -- clk of its issue: the order of a thread's records in one lane
  vals : List Val           -- the record, the key first
  dead : Bool               -- the governor has completed it with status 2 (R386)
deriving DecidableEq, Repr

/-- What a context that has issued is still held by (R175, R177, R203, R232). -/
inductive Busy where
  | no
  | access (id : Nat)       -- not yet accepted
  | shadow (id : Nat)       -- a shadow destination whose value has not returned
  | vector
  | matrix
deriving DecidableEq, Repr

/-- A notice (R293). -/
structure Notice where
  thread : Nat
  key : Nat
  ctx : Nat
  cause : Cause
  arg : Word
  refusedAt : Option Nat    -- clk of the refusal (R294)
deriving DecidableEq, Repr

/-- The run of loads on one unchanged line (R310, R55). -/
structure Spin where
  line : Nat                -- physical line, host lines offset by 2^60
  n : Nat
  since : Nat               -- clk at which the run reached 16 loads (R55)
deriving DecidableEq, Repr

/-- One context of a unit (R19, R142, R143, R409). -/
structure Ctx where
  born : Nat                -- the model's own: access number at which its life began (R23, R389); reset 0
  live : Bool               -- 1 bit; a live helper, or the control context of a unit (R19); reset 0
  pc : Word                 -- 64 bits; program counter (R19); reset DESIGN CHOICE 0 (log 3)
  priv : Bool               -- 1 bit; supervisor (R143, R289); reset 0
  g : Tab GReg              -- 32 registers; g0-g31 (R125); reset empty (R126)
  x : Tab Val               -- 8 x 65 bits; shadow registers (R134); reset DESIGN CHOICE 0 (log 3)
  upc : Word                -- 64 bits; UPC (R142); reset 0
  ucause : Cause            -- 9 bits; UCAUSE (R143); reset 0
  uarg : Word               -- 64 bits; UARG (R142); reset 0
  uvec : Word               -- 64 bits; UVEC (R142); reset 0
  uen : Bool                -- 1 bit; USTAT.UEN (R143); reset 1
  uact : Bool               -- 1 bit; USTAT.UACT (R143); reset 0
  tpc : Word                -- 64 bits; TPC (R142); reset 0
  tcause : Cause            -- 9 bits; TCAUSE (R143); reset 0
  taddr : Word              -- 64 bits; TADDR (R142); reset 0
  tctx : Nat                -- 4 bits; TSTAT.CTX (R143); reset 0
  tuact : Bool              -- 1 bit; TSTAT.UACT (R143); reset 0
  tpprv : Bool              -- 1 bit; TSTAT.PPRV (R143); reset 0
  tgang : Bool              -- 1 bit; TSTAT.GANG (R143); reset 0
  tscratch : Word           -- 64 bits; TSCRATCH (R142); reset 0
  assay : Assay             -- 49 bits; current assay state (R285); reset unarmed (R286)
  assayT : Assay            -- 49 bits; trap copy (R286); reset DESIGN CHOICE 0 (log 3)
  assayU : Assay            -- 49 bits; upcall copy (R286); reset DESIGN CHOICE 0 (log 3)
  tpcSame : Bool            -- 1 bit; TPC unchanged since trap entry (R409); reset 0
  upcSame : Bool            -- 1 bit; UPC unchanged since upcall entry (R409); reset 0
  subst : BitVec 32         -- 32 bits; SUBST (R388); reset 0
  hdrop : BitVec 32         -- 32 bits; HDROP (R388); reset 0
  orph : BitVec 32          -- 32 bits; ORPH (R388); reset 0
  fmtv : BitVec 32          -- 32 bits; FMTV (R388); reset 0
  vres : Vres               -- 768 bits; resume state (R409); reset none
  hold : Bool               -- 1 bit; HOLD, an unsatisfied .rf, .tk or .we access (R179); reset 0
  invIss : BitVec 32        -- 32 bits; invalidation sequence, last issued (R299, R409); reset 0
  invDone : BitVec 32       -- 32 bits; invalidation sequence, last completed (R301, R409); reset 0
  taken : List (Nat × Val)  -- registers taken by an unaccepted access, with their values (R176); reset none
  busy : Busy               -- what an issued instruction still holds (R175); reset none
  wait : Wait               -- wait before issue (R39); reset none
  waitSince : Nat           -- clk at which the wait began (R55); reset 0
  spin : Spin               -- run of loads on an unchanged line (R310); reset none
  enq : Option EnqHold      -- an ENQW that waits, or whose wait a halt has abandoned (R269, R386); reset none
  awaited : List Nat := []  -- the model's own: empty registers that the wait is for (R385); reset none
deriving DecidableEq, Repr

/-- A context as START leaves it, at PC 0 and not yet live (R20, R142). -/
def Ctx.reset : Ctx :=
  { born := 0, live := false, pc := 0, priv := false, g := [], x := [], upc := 0, ucause := 0, uarg := 0, uvec := 0, uen := true
    uact := false, tpc := 0, tcause := 0, taddr := 0, tctx := 0, tuact := false, tpprv := false, tgang := false
    tscratch := 0, assay := .reset, assayT := .reset, assayU := .reset, tpcSame := false, upcSame := false, subst := 0
    hdrop := 0, orph := 0, fmtv := 0, vres := .none, hold := false, invIss := 0, invDone := 0, taken := []
    busy := .no, wait := .no, waitSince := 0, spin := ⟨0, 0, 0⟩, enq := none }

/-! ## Units and cores -/

/-- A shape register (R135, R136). -/
structure Shape where
  r : BitVec 320    -- 320 bits; the shape record (R135); reset 0
  p : Bool          -- 1 bit; poison (R136); reset 0
deriving DecidableEq, Repr

def Shape.reset : Shape := ⟨0, false⟩

/-- An accumulator element (R138). -/
structure Elem where
  v : BitVec 32     -- 32 bits; element (R138); reset 0
  p : Bool          -- 1 bit; poison (R138); reset 0
deriving DecidableEq, Repr

def Elem.zero : Elem := ⟨0, false⟩

/-- A buffer descriptor (R275, R351). -/
structure Buf where
  v : Bool          -- 1 bit; V (R275); reset 0
  st : BufState     -- 2 bits; STATE (R275); reset empty
  size : Nat        -- 4 bits; log2 of the size minus 8 (R275); reset 0
  base : Nat        -- 18 bits; BASE (R275); reset 0
deriving DecidableEq, Repr

def Buf.reset : Buf := ⟨false, .empty, 0, 0⟩

/-- A block of the buddy allocator: offset, log2 size, allocated (R273). -/
structure Blk where
  off : Nat
  lg : Nat
  used : Bool
deriving DecidableEq, Repr

/-- A vector instruction handed to the vector unit (R137, R203). -/
structure VecJob where
  ctx : Nat
  pc : Word
  ir : Parcel       -- its first parcel, for the assay's Feed at retire (R285)
  i : Instr
  gs : Val          -- the scalar read at issue (R201)
  left : Nat        -- elements still to go (R202, R207)
  started : Bool    -- a chunk has been performed (R203)
  n : Nat           -- index of the next element of a reduction (R207)
  run : Val         -- running value of VRMAX; P of an integer VSUM (R218)
  lanes : List Val  -- lane values of a float VSUM; an integer sum as 16 words of 32 bits (R121, R207)
  seen : List Nat := [] -- block lines whose violations it has counted, by offset (R111, R389)
deriving DecidableEq, Repr

/-- A matrix instruction handed to the matrix unit (R139, R232, R408). -/
structure MatJob where
  ctx : Nat
  pc : Word
  ir : Parcel
  i : Instr
  regs : List Val   -- the register values read at issue (R408)
  step : Nat        -- next step (R235)
  no : Nat          -- number on its timeline, with TLE = 1 (R228)
  bufA : List Val   -- granules of the next step's global lines of A read so far (R228)
  bufB : List Val   -- and of B
  subbed : Bool     -- a granule has been substituted, and counted (R228, R389)
  seen : List Nat := [] -- block lines whose violations it has counted: under MOper.keys (R111, R389)
  tl : Nat := 0     -- its timeline, with TLE = 1 (R232)
  seq : Nat := 0    -- the model's own: access number at its issue (R389)
deriving DecidableEq, Repr

/-- A request in the SFU queue (R161). -/
structure SfuReq where
  thread : Nat
  key : Nat
  ctx : Nat
  reg : Nat
  fn : SfuFn
  ty : Ty
  md : Md
  a : Val
  code : Nat        -- the result, rounded with the draw made at issue (R114, R161)
  seq : Nat         -- the model's own: its place in the order of issue (R35)
  vec : Bool := false -- the next chunk of the VSFU at the head of the unit's vector queue (R219)
deriving DecidableEq, Repr

/-- A unit: everything that goes with its thread number (R19, R124, R142). -/
structure UnitSt where
  key : Nat                 -- 16 bits; landing key (R28); reset 0
  asid : Nat                -- 16 bits; address space (R143); reset 0
  part : Nat                -- 4 bits; partition (R344); reset 0
  launch : Nat              -- 32 bits; launch identifier (R143); reset 0
  uidx : Nat                -- 24 bits; unit index (R143); reset 0
  prio : Nat                -- 7 bits; priority at the last binding (R143); reset 0
  ord : Bool                -- 1 bit; ordered launch (R143); reset 0
  gang : Bool               -- 1 bit; gang launch (R48); reset 0
  phased : Bool             -- 1 bit; phased launch (R45); reset 0
  aff : Word                -- 64 bits; affinity (R30); reset 0
  exchange : Bool           -- 1 bit; in an exchange span (R45, R276); reset 0
  ctxs : Tab Ctx            -- 11 contexts (R19); reset none live
  shapes : Tab Shape        -- 8 x 321 bits; s0-s7 (R135); reset 0
  acc : Tab Elem            -- 4 x 256 x 33 bits; a0-a3, element 256n + 16i + j (R138); reset 0
  satf : Tab Bool           -- 4 bits; SATF of a0-a3 (R242); reset 0
  l4 : Tab Val              -- 16 x 9 bits; L4 table (R105); reset R105's table
  lfsr : BitVec 32          -- 32 bits; LFSR (R114); reset 0x0000_0001
  pmctl : Tab Word          -- 4 x 64 bits; PMCTL0-3 (R394); reset 0
  pmcnt : Tab (BitVec 48)   -- 4 x 48 bits; PMCNT0-3 (R394); reset 0
  bufs : Tab Buf            -- 32 x 25 bits; buffer descriptors (R351); reset invalid
  arena : Nat               -- 2 bits; arena base code (R273, R360); reset 0
  alloc : List Blk          -- buddy allocator state (R273); reset wholly free
  vq : List VecJob          -- vector instructions passed to the vector unit (R137); reset none
  mq : List MatJob          -- matrix instructions passed to the matrix unit (R139); reset none
  arrived : Bool            -- 1 bit; waits at a GBAR (R48); reset 0
  bindClk : Nat             -- clk of the last binding (R38, R368); reset 0
deriving DecidableEq, Repr

def UnitSt.reset : UnitSt :=
  { key := 0, asid := 0, part := 0, launch := 0, uidx := 0, prio := 0, ord := false, gang := false, phased := false
    aff := 0, exchange := false, ctxs := [], shapes := [], acc := [], satf := [], l4 := [], lfsr := 1
    pmctl := [], pmcnt := [], bufs := [], arena := 0, alloc := [], vq := [], mq := [], arrived := false
    bindClk := 0 }

/-- A memory: bytes, poison per granule of 8 bytes, full/empty per word, and the stored hallmarks that are not the CRC
of their line (R180, R178, R316, R327). Bytes are listed in rising order of address and none is listed as zero. -/
structure PMem where
  bytes : List Host.Cell
  poison : List Nat         -- poisoned granules, by address / 8, rising
  full : List Nat           -- full words, by address / 8, rising
  hall : Tab (BitVec 16)    -- lines, by address / 64, whose stored hallmark is not their CRC (R327)
  fresh : List Nat := []    -- the model's own: lines changed since the last step looked, rising (R310, log 83)
deriving DecidableEq, Repr

/-- All bytes as an unlisted address reads, clean, empty (R433 step 4). -/
def PMem.blank : PMem := ⟨[], [], [], [], []⟩

/-- The request of another chip that something here serves: what its answers repeat (R416, R420; log 84). -/
structure Asker where
  src : Nat                 -- source endpoint
  tag : Nat                 -- TAG
  sz : Nat                  -- SZ
  lo : Nat                  -- LO
  asid : Nat                -- ASID
  tenant : Nat              -- TENANT
  addr : Word               -- ADDR
deriving DecidableEq, Repr

/-- Where a landing comes from and goes (R34, R131). -/
structure Landing where
  schip : Nat               -- sender's chip
  sthread : Nat             -- sender's thread
  skey : Nat                -- sender's key
  sctx : Nat                -- sender's context
  sasid : Nat               -- sender's address space
  spart : Nat               -- sender's partition
  mra : Word                -- target
  val : Val
  tl : Option (Nat × Nat)   -- timeline and number of the operation (R184)
  urj : Bool                -- upcall on rejection (R184)
  refusedAt : Option Nat    -- clk of the refusal (R34)
  via : Option Nat          -- the core a gateway copy routed it to (R345)
  bounces : Nat             -- bounces while Moved (R34)
  own : Bool                -- a load or atomic result of the issuing context (R177)
  tag : Option Asker        -- the request of a landing that came over the fabric (R420)
  gang : Nat := 0           -- 1 held for the next superstep of a gang, 2 released by its GBAR (R50)
  seq : Nat := 0            -- the model's own: place in the order in which its sender issued it (R35)
  core : Nat := 0           -- sender's logical core, the core bits of SRC (R12, R416)
  gov : Bool := false       -- a doubleword of a stage record, sent by the governor (R270)
deriving DecidableEq, Repr

/-- What a core is doing (R19, R41, R44). -/
inductive CoreSt where
  | idle
  | running
  | halted                  -- halted for a save, TLT Resident (R41)
  | saving
  | restoring
deriving DecidableEq, Repr

/-- A core (R9, R124, R317). -/
structure Core where
  st : CoreSt               -- what the core does (R19); reset idle
  thread : Nat              -- 24 bits; thread of the unit it holds, saves or restores (R19); reset 0
  ls : PMem                 -- 192 KiB with poison per granule; local store (R316, R319); reset 0 (R319)
  lbuf : List Landing       -- 32 entries; landing buffer (R356, R372); reset none
  rsvd : Nat                -- 6 bits; landing-buffer entries reserved by a restore (R37); reset 0
  sfu : List SfuReq         -- 8 entries; SFU queue (R161); reset none
  links : Tab (List Val)    -- 4 x 2 x 65 bits; mesh-link receive buffers n, e, s, w (R133); reset empty
  aserr : BitVec 32         -- 32 bits; ASERR (R388); reset 0
  lastPart : Option Nat     -- 5 bits; partition last served (R319); reset none
  gated : Bool              -- 1 bit; clock-gated (R373); reset 1 after step 5 (R433), DESIGN CHOICE 0 before it (log 3)
  idleSince : Nat           -- clk since which it has idled (R373); reset 0
  halt : Option HaltWhy     -- a pre-emption requested (R38); reset none
  lastCtx : Nat             -- 4 bits; context that issued last (R144); reset DESIGN CHOICE 0 (log 3)
  sel : Option Nat          -- record selected and not yet bound (R364); reset none
  rsvFor : Option Nat       -- record it is reserved for (R366); reset none
  haltNo : Nat              -- order in which its halt was requested (R54); reset 0
  selIdx : Nat := 0         -- UIDX of the unit of a source that it has selected (R362, R364); reset 0
  selLvl : Nat := 0         -- 7 bits; level of the record at its selection (R364); reset 0
deriving DecidableEq, Repr

def Core.reset : Core :=
  { st := .idle, thread := 0, ls := .blank, lbuf := [], rsvd := 0, sfu := [], links := [], aserr := 0, lastPart := none
    gated := false, idleSince := 0, halt := none, lastCtx := 0, sel := none, rsvFor := none
    haltNo := 0 }

/-! ## Threads, timelines, engine operations -/

/-- TLT states (R344). -/
inductive Tst where
  | closed | resident | beingSaved | saved | suspended | moved
deriving DecidableEq, Repr

/-- A timeline (R140, R250, R255). -/
structure Timeline where
  iss : Nat                 -- 64 bits; issue count (R140); reset 0
  done : List Nat           -- numbers completed ahead of a lower one (R251); reset none
  comp : Nat                -- 64 bits; completion count (R251); reset 0
  status : Nat              -- 8 bits; status of the error record (R250); reset 0
  errNo : Nat               -- 64 bits; operation number of the error record (R250); reset 0
  errAddr : Word            -- 64 bits; address of the error record (R250); reset 0
  errStep : Nat             -- 64 bits; step index of the error record (R250); reset 0
  qpErr : Bool              -- 1 bit; the queue pair is in its error state (R255); reset 0
deriving DecidableEq, Repr

def Timeline.reset : Timeline := ⟨0, [], 0, 0, 0, 0, 0, false⟩

/-- Address spaces of an engine operand (R246). -/
inductive ESpace where
  | glob | ls | cl | mra
deriving DecidableEq, Repr

/-- A group descriptor and its member list, as read at issue (R256). -/
structure CollDesc where
  tag : Word
  count : Nat
  n : Nat
  rank : Nat
  root : Nat
  members : List Word
deriving DecidableEq, Repr

/-- What an engine operation does (R184, R192, R228, R246, R260). -/
inductive OpKind where
  | cpy (dsp ssp : ESpace) (dst src : Word) (len : Nat)
  | gath (dsp ssp : ESpace) (dst table idx : Word) (row rows : Nat)
  | scat (dsp ssp : ESpace) (table src idx : Word) (row rows : Nat)
  | coll (op : CollOp) (ty : Ty) (dsp ssp : ESpace) (dst src : Word) (d : CollDesc) (turn : Nat) (ph : Nat)
  | flagf (ea : Word) (v : Val) (home : Nat)
  | note (mra : Word) (v : Val)
  | land
  | mat
deriving DecidableEq, Repr

/-- An outstanding operation of a timeline (R247, R250). -/
structure EngOp where
  ctx : Nat
  tl : Nat
  no : Nat
  k : OpKind
  uf : Bool                 -- upcall on failure (R246)
  pos : Nat                 -- bytes done (R248)
  buf : List (Byte × Bool)  -- source bytes fetched and not yet written (R248)
  hm : Option (BitVec 16)   -- the hallmark that a whole fetched line keeps (R249)
  idx : Option Nat          -- index of the row being moved (R248)
  core : Nat                -- core whose local store it names (R253)
  heldGang : Bool           -- held until the next GBAR (R49, R254)
  sent : Bool               -- its landing or remote request is on its way
  seq : Nat := 0            -- the model's own: access number at its issue (R252, R312)
deriving DecidableEq, Repr

/-- Counters whose increments a home gateway keeps (R389, R390). -/
inductive Cnt where
  | subst | hdrop | orph | fmtv
deriving DecidableEq, Repr

/-- A thread: its TLT entry (R344) with the timelines, notices and pending images that belong to it. -/
structure Thread where
  st : Tst                  -- 3 bits; STATE (R344); reset Closed
  addr : Nat                -- 64 bits; ADDR, PA of the CSA or record (R344); reset 0
  launch : Nat              -- 32 bits; LAUNCH (R344); reset 0
  asid : Nat                -- 16 bits; ASID (R344); reset 0
  key : Nat                 -- 16 bits; KEY (R344); reset 0
  liveh : List Nat          -- 10 bits; LIVEH (R344); reset none
  oldloc : Nat              -- 12 bits; OLDLOC (R344); reset 0
  loc : Nat                 -- 12 bits; LOC, logical core (R344); reset 0
  part : Nat                -- 4 bits; PART (R344); reset 0
  hold : List Landing       -- 16 entries; hold list while Moved, HOLDN (R344, R356); reset none
  pend : List Landing       -- 32 entries; pending-landing area of the CSA (R408); reset none
  tls : Tab Timeline        -- 8 timelines (R140); reset 0
  ops : List EngOp          -- 256 entries; outstanding engine operations (R356); reset none
  notices : Tab (List Notice) -- 8 per context; notice queues (R356, R409); reset none
  kept : List (Nat × Cnt)   -- increments kept by the home gateway (R390); reset none
  colls : List (Word × Nat) -- COLL operations issued per TAG (R256); reset none
  rbp : Bool                -- 1 bit; RBP of the CSA header (R410); reset 0
  img : Bool                -- 1 bit; IMG of the CSA header (R410); reset 0
  lsImg : PMem              -- local-store image of the CSA (R408); reset none
  linkImg : Tab (List Val)  -- link buffers of the CSA (R408); reset none
  gimg : Tab Ctx            -- gang image of the CSA (R408); reset none
  snap : Tab (List Byte × List Bool) -- snapshot log, by 256-byte granule (R51); reset none
  freed : Bool              -- 1 bit; closed and not yet returned to the pool (R267); reset 0
  flushed : Bool            -- 1 bit; its operations were flushed (R253); reset 0
  counted : Bool            -- 1 bit; its end still lowers its launch's counter (R26, R267); reset 0
  from_ : Nat := 0          -- physical core that it was saved from (R44); reset 0
  fails : Tab Word := []    -- first failing address of the covered stores that failed, by home chip (R192); reset none
deriving DecidableEq, Repr

def Thread.reset : Thread :=
  { st := .closed, addr := 0, launch := 0, asid := 0, key := 0, liveh := [], oldloc := 0, loc := 0, part := 0
    hold := [], pend := [], tls := [], ops := [], notices := [], kept := [], colls := [], rbp := false, img := false
    lsImg := .blank, linkImg := [], gimg := [], snap := [], freed := false, flushed := false
    counted := false }

/-! ## Accesses in flight -/

/-- What an access does (R171). -/
inductive AKind where
  | ld | st | stc | ldl
  | amo (op : AOp) | amol (op : AOp)
  | cas
  | flag
  | send                    -- a landing sent by RSEND that is held or on its way to another chip (R49, R183)
  | rdMat                   -- a granule of a matrix operand that lies on another chip (R228)
  | rdLine | wrLine         -- whole lines of an engine operation between chips (R416, R423)
deriving DecidableEq, Repr

/-- Where an accepted access is performed (R323, R339). -/
inductive Tgt where
  | dev (pa : Nat)
  | host (pa : Nat)
  | mmio (off : Nat)
  | peer (p : Nat)
deriving DecidableEq, Repr

/-- How far an access has come (R175, R178, R190, R49). -/
inductive Phase where
  | issued                  -- not yet accepted
  | frozen                  -- parked on a frozen shard map (R191)
  | sent                    -- a request packet is at the owner
  | accepted
  | heldGang                -- held until the GBAR (R49)
  | released                -- released by the GBAR, and not yet performed in its turn (R49, R307)
  | listed                  -- in a retry list (R178)
  | refused                 -- refused by a full retry list (R178)
  | performed               -- the value is on its way back
deriving DecidableEq, Repr

/-- An access in flight. -/
structure Req where
  id : Nat
  chip : Nat                -- requesting chip
  thread : Nat
  key : Nat
  ctx : Nat
  asid : Nat
  part : Nat
  core : Nat
  pc : Word
  k : AKind
  ea : Word
  sz : Sz
  sm : Sm
  dst : Opd                 -- destination register (R177)
  mra : Word                -- MRA of LDL and AMO.l (R183)
  lo : LandOpt
  no : Nat                  -- number on the timeline, with TLE = 1
  d : Val                   -- data or operand
  n : Val                   -- new value of CAS
  line : List (Byte × Bool) -- data of wrLine
  map : Option Nat          -- shard map that resolved it (R190)
  coords : List Nat         -- its coordinates, two or four (R189)
  phase : Phase
  tgt : Tgt
  et : Bool                 -- error-tolerant leaf (R180)
  at_ : Nat                 -- clk of the refusal (R178)
  res : Val                 -- returned value
  sub : Bool                -- zeros were substituted (R389)
  tag : Option Asker        -- of a request of another chip (R420)
  ir : Parcel               -- first parcel, for the assay
  ptag : Nat                -- TAG of its request packet (R416)
  pol : Policy := .normal   -- cache policy (R181)
  sat : Bool := false       -- its home has told that it is satisfied, its landing still to be resolved (log 82)
  near : Bool := false      -- an LDL of a gang unit to a register of its own: read at its owner, landed from here (R49)
deriving DecidableEq, Repr

/-- What a parked access waits for (R68, R340, R421, R428). -/
structure Monitor where
  pte : Option Nat          -- PA of the entry whose line is watched; none for a host page
  part : Nat
  asid : Nat
  va : Word
  chip : Nat
  thread : Nat
  key : Nat
  ctx : Nat
  hit : Bool := false       -- a write has left the entry with V = 1 (R340)
deriving DecidableEq, Repr

/-- An invalidation or a flush in progress (R299 to R301). -/
structure Inval where
  thread : Nat
  key : Nat
  ctx : Nat
  no : Nat                  -- its number in the sequence of its context
  waits : List Nat          -- accesses already translated through what it names, not yet performed
deriving DecidableEq, Repr

/-! ## Work -/

/-- The fields of a record that launch, posted and suspended records share (R30). -/
structure RecImg where
  pc : Word
  live : BitVec 32
  full : BitVec 16
  pois : BitVec 16
  prio : Nat
  ntb : Nat
  aff : Word
  uidx : Nat
  tbreq : List (BitVec 64)
  vals : List Word
deriving DecidableEq, Repr

def RecImg.zero : RecImg := ⟨0, 0, 0, 0, 0, 0, 0, 0, [], []⟩

/-- What a record is (R361, R362). -/
inductive RKind where
  | source                  -- a launch record, the launch's unit source
  | posted
  | suspended
  | saved                   -- the entry of a pre-empted unit
deriving DecidableEq, Repr

/-- Where a record waits (R32, R356). -/
inductive RPlace where
  | gateway (n : Nat)
  | bucket (b : Nat)
  | held                    -- held with a gang unit's outside accesses (R264)
deriving DecidableEq, Repr

/-- A record in the pool, or the entry of a saved unit (R361). -/
structure Rec where
  id : Nat
  part : Nat
  asid : Nat
  launch : Nat
  k : RKind
  place : RPlace
  level : Nat               -- priority level (R363)
  enq : Nat                 -- enqueue time (R363)
  frame : Nat               -- PA of its frame, 0 for a saved unit
  img : RecImg
  thread : Nat              -- thread of a suspended or saved unit
  key : Nat
  next : Nat                -- next UIDX of a source (R362)
  haltNo : Nat              -- order in which halts were requested (R54)
  spun : Bool               -- descheduled under R55
  notCore : Option Nat := none -- physical core that power packing took it from (R38)
  onCore : Option Nat := none  -- logical core to which a cluster remap ties its resume (R43)
  placed : Option Nat := none  -- core whose unit placement has pre-empted for it (R368)
  cut : Bool := false          -- its launch was cancelled while a core had selected it (R364)
  due : Option Nat := none     -- level that a priority change gives it from the next selection on (R57, R364)
deriving DecidableEq, Repr

/-- A launch (R24, R360, R391). -/
structure Launch where
  known : Bool              -- 1 bit; admitted and not forgotten (R359); reset 0
  count : Nat               -- 40 bits; completion counter (R391); reset 0
  canc : Bool               -- 1 bit; CANC (R391); reset 0
  units : Nat               -- 32 bits; COUNT (R360); reset 0
  img : RecImg              -- entry, arguments, requirements (R360); reset 0
  asid : Nat                -- address space of its units; reset 0
  part : Nat                -- partition; reset 0
  affstr : Word             -- 64 bits; AFFSTR (R360); reset 0
  preds : List Nat          -- 4 x 32 bits; PRED (R360); reset none
  job : Nat                 -- 32 bits; JOB (R360); reset 0
  phase : Nat               -- 32 bits; PHASE (R360); reset 0
  graph : Nat               -- 32 bits; GRAPH (R360); reset 0
  ceil : Nat                -- 7 bits; CEIL (R360); reset 0
  ord : Bool                -- 1 bit; ORD (R360); reset 0
  gang : Bool               -- 1 bit; GANG (R360); reset 0
  phased : Bool             -- 1 bit; PHASED (R360); reset 0
  arena : Nat               -- 2 bits; ARENA (R360); reset 0
  logsz : Nat               -- 2 bits; LOGSZ (R360); reset 0
  members : List Nat        -- threads of a gang or phased launch (R48); reset none
  mkeys : List Nat := []    -- 16 bits each; their landing keys (R28, R48); reset none
  gone : Nat                -- gang units that have ended (R277); reset 0
  rolls : Nat               -- 2 bits; R, rollbacks of the superstep (R400); reset 0
  cut : Bool                -- a CANCEL has acted on it: a POST is refused (R27, R264); reset 0
  rolling : Bool            -- 1 bit; the gang is rolling back, its units issue nothing (R401); reset 0
deriving DecidableEq, Repr

def Launch.reset : Launch :=
  { known := false, count := 0, canc := false, units := 0, img := .zero, asid := 0, part := 0, affstr := 0, preds := []
    job := 0, phase := 0, graph := 0, ceil := 0, ord := false, gang := false, phased := false, arena := 0, logsz := 0
    members := [], gone := 0, rolls := 0, cut := false, rolling := false }

/-- A thread, with its key, is a member of the launch. -/
def Launch.has (l : Launch) (t key : Nat) : Bool := (l.members.zip l.mkeys).contains (t, key)

/-- A graph, a phase or a job (R24, R391). -/
structure Level where
  known : Bool              -- 1 bit; started (R24); reset 0
  count : Nat               -- 40 bits; COUNT (R391); reset 0
  canc : Bool               -- 1 bit; CANC (R391); reset 0
  up : Nat                  -- the level above it (R24); reset 0
  seq : Nat                 -- order in which a job named its phases (R24); reset 0
deriving DecidableEq, Repr

def Level.reset : Level := ⟨false, 0, false, 0, 0⟩

/-! ## Partitions -/

/-- A notify ring (R358). -/
structure Ring where
  prod : Nat                -- 32 bits; PROD (R358); reset 0
  cons : Nat                -- 32 bits; CONS (R358); reset 0
  err : Bool                -- 1 bit; ERR (R358); reset 0
  ecode : Nat               -- 8 bits; ECODE (R358); reset 0
  rbase : Word              -- 64 bits; RBASE (R358); reset 0
  en : Bool                 -- 1 bit; EN (R358); reset 0
  rlog : Nat                -- 4 bits; RLOG (R358); reset 0
  rasid : Nat               -- 16 bits; RASID (R358); reset 0
deriving DecidableEq, Repr

def Ring.reset : Ring := ⟨0, 0, false, 0, 0, false, 0, 0⟩

/-- A supervisor log entry on its way (R407). -/
structure LogEnt where
  time : Nat
  addr : Word
  thread : Nat
  launch : Nat
  detail : Nat
  evt : Nat
  cause : Cause
deriving DecidableEq, Repr

/-- A victim request (R330). -/
structure VReq where
  asid : Nat
  lo : Word
  hi : Word
deriving DecidableEq, Repr

/-- A partition (R357, R406, R430, R431). -/
structure Part where
  phi : Nat                 -- 7 bits; PHI (R357); reset 127
  plo : Nat                 -- 7 bits; PLO (R357); reset 0
  age : Nat                 -- 5 bits; AGE (R357); reset 20
  spin : Nat                -- 5 bits; SPIN (R357); reset 12
  slice : Nat               -- 5 bits; SLICE (R357); reset 20
  pool : Nat                -- 24 bits; POOL (R357); reset 0
  poolBase : Nat            -- PA of its record frames in the carve-out (R356); reset DESIGN CHOICE 0 (log 7)
  csaBase : Nat             -- PA of its CSA pool (R408); reset DESIGN CHOICE 0 (log 7)
  tvec : Word               -- 64 bits; TVEC (R142); reset DESIGN CHOICE 0 (log 3)
  tenant : Nat              -- 16 bits; tenant tag (R143); reset DESIGN CHOICE 0 (log 3)
  reach : List Nat          -- 1,024 bits; reach mask, peers reached (R413); reset DESIGN CHOICE none (log 3)
  owned : List (Nat × Nat)  -- device memory assigned to it, base and bytes (R330, R432); reset DESIGN CHOICE none (log 3)
  rings : Tab Ring          -- 254 rings (R358, R429); reset 0
  lbase : Word              -- 64 bits; LBASE (R406); reset 0
  len : Bool                -- 1 bit; LEN (R406); reset 0
  llog : Nat                -- 4 bits; LLOG (R406); reset 0
  lprod : Nat               -- 32 bits; LPROD (R406); reset 0
  lcons : Nat               -- 32 bits; LCONS (R406); reset 0
  llost : Nat               -- 48 bits; LLOST (R406); reset 0
  logq : List LogEnt        -- entries not yet written (R406); reset none
  cbase : Word              -- 64 bits; CBASE (R430); reset 0
  cen : Bool                -- 1 bit; CEN (R430); reset 0
  clog : Nat                -- 4 bits; CLOG (R430); reset 0
  casid : Nat               -- 16 bits; CASID (R430); reset 0
  cprod : Nat               -- 32 bits; CPROD (R430); reset 0
  ccons : Nat               -- 32 bits; CCONS (R430); reset 0
  jobsDone : List (Nat × Bool) -- completed jobs whose entry is not yet written (R430); reset none
  pcount : Nat              -- 32 bits; COUNT of the poison reports (R430); reset 0
  pfirst : Nat              -- 32 bits; FIRST (R430); reset 0
  share : Word              -- 64 bits; share register (R431); reset FW, GW, MW 1, the rest 0
  stBusy : Bool             -- 1 bit; BUSY (R375); reset 0
  stStatus : Nat            -- 8 bits; STATUS (R375); reset 0
  stCmd : Option Word       -- 64 bits; stage command being carried out (R375); reset none
  vreqs : List VReq         -- victim requests not yet carried out (R330); reset none
  vlo : Word                -- 64 bits; first doubleword of a victim request (R330); reset DESIGN CHOICE 0 (log 3)
  irq : List Nat            -- 3 bits; interrupt vectors raised (R430); reset none
  psubst : Nat              -- 48 bits; PSUBST (R388); reset 0
  phdrop : Nat              -- 48 bits; PHDROP (R388); reset 0
  porph : Nat               -- 48 bits; PORPH (R388); reset 0
  pfmtv : Nat               -- 48 bits; PFMTV (R388); reset 0
  hmerr : Nat               -- 48 bits; HMERR (R388); reset 0
  inReset : Bool            -- 1 bit; in function-level reset (R432); reset 0
  priFail : Bool            -- 1 bit; Response Failure received (R428); reset 0
  priAlloc : Nat            -- 32 bits; page-request allocation (R428); reset DESIGN CHOICE 2^32 - 1 (log 66)
  msix : Tab Word           -- 6 x 64 bits; MSI-X table of 3 vectors (R429); reset PRESUMED every vector masked, 0 beside (log 98)
deriving DecidableEq, Repr

def Part.reset : Part :=
  { phi := 127, plo := 0, age := 20, spin := 12, slice := 20, pool := 0, poolBase := 0, csaBase := 0, tvec := 0
    tenant := 0, reach := [], owned := [], rings := [], lbase := 0, len := false, llog := 0, lprod := 0, lcons := 0, llost := 0
    logq := [], cbase := 0, cen := false, clog := 0, casid := 0, cprod := 0, ccons := 0, jobsDone := [], pcount := 0
    pfirst := 0, share := 0x10101, stBusy := false, stStatus := 0, stCmd := none, vreqs := [], vlo := 0, irq := []
    psubst := 0, phdrop := 0, porph := 0, pfmtv := 0, hmerr := 0, inReset := false, priFail := false, priAlloc := 0xFFFFFFFF, msix := [] }

/-! ## Stages -/

/-- Where an instance's control context is (R270, R379, R383). -/
inductive Routine where
  | none | split | merge
deriving DecidableEq, Repr

/-- What the governor keeps for one instance (R270, R378, R385). -/
structure Inst where
  core : Nat                -- core that runs it (R378); reset 0
  thread : Nat              -- thread of its unit (R347); reset 0
  up : Nat                  -- 8 bits; up count (R378); reset 0
  down : Nat                -- 8 bits; down count (R378); reset 0
  quiet : Nat               -- 8 bits; samples with empty lanes and a waiting DEQ (R385); reset 0
  deq : Bool                -- 1 bit; a DEQ is outstanding (R270); reset 0
  deqPc : Word              -- 64 bits; address of the outstanding DEQ (R456); reset 0
  delivered : Bool          -- 1 bit; a record is delivered and not finished (R270); reset 0
  routine : Routine         -- 2 bits; split or merge routine running (R379); reset none
  ret : Word                -- 64 bits; return point of the routine (R379); reset 0
  forTwin : Nat             -- 4 bits; entry reserved for the clone (R379); reset 0
  parked : Bool             -- 1 bit; parked (R385); reset 0
  slotKept : Option Slot    -- previous contents of the slot (R378); reset none
  core2 : Nat               -- core bound for the twin (R379); reset 0
  slot2 : Option Slot       -- previous contents of that core's slot (R379); reset none
  off : Nat                 -- 18 bits; state buffer offset (R376); reset 0
  pos : Nat := 0            -- bytes that the governor's copy has moved (R462); reset 0
  after : List Nat := []    -- accesses of the split routine that the copy stands after (R379); reset none
  afterOps : List (Nat × Nat) := [] -- its engine operations, likewise: timeline and number (R379); reset none
  left : Option Nat := none -- physical core that power packing took its unit from (R38, R461); reset none
  gen : Nat := 0            -- 8 bits; GEN that the write which gives its core back expects (R349); reset 0
  gen2 : Nat := 0           -- 8 bits; the same for the twin's core (R349); reset 0
  tied : Bool := false      -- 1 bit; it has its core with no contents kept, after a cluster remap (R461); reset 0
  tied2 : Bool := false     -- 1 bit; the same for the twin's core (R461); reset 0
deriving DecidableEq, Repr

def Inst.reset : Inst :=
  { core := 0, thread := 0, up := 0, down := 0, quiet := 0, deq := false, deqPc := 0, delivered := false
    routine := .none, ret := 0, forTwin := 0, parked := false, slotKept := none, core2 := 0, slot2 := none, off := 0 }

/-- The governor has taken a core for the instance, and one for its twin (R378, R461). -/
def Inst.taken (x : Inst) : Bool := x.slotKept.isSome || x.tied
def Inst.taken2 (x : Inst) : Bool := x.slot2.isSome || x.tied2

/-- What the governor keeps for one stage (R375, R378, R387). -/
structure StageRt where
  inst : Bool               -- 1 bit; installed (R374 INST); reset 0
  stopped : Bool            -- 1 bit; stopped (R387); reset 0
  bad : Bool                -- 1 bit; KRT or lane header invalid (R347); reset 0
  part : Nat                -- partition of its ASID; reset 0
  insts : Tab Inst          -- 16 instances; reset none
  markers : List (Nat × Nat × Nat) -- split markers: instance, lane, records ahead of it (R379, R380); reset none
deriving DecidableEq, Repr

def StageRt.reset : StageRt := ⟨false, false, false, 0, [], []⟩

/-! ## Tables of the package -/

/-- A format window (R353, R393). -/
structure Window where
  en : Bool                 -- 1 bit; EN (R353); reset 0
  err : Bool                -- 1 bit; ERR (R353); reset 0
  part : Nat                -- 4 bits; PART (R353); reset 0
  k : Nat                   -- 4 bits; K (R353); reset 0
  fmt : Nat                 -- 2 bits; FMT (R353); reset 0
  vlines : Nat              -- 32 bits; VLINES (R353); reset 0
  vbase : Nat               -- 32 bits; VBASE (R353); reset 0
  ebase : Nat               -- 48 bits; EBASE (R353); reset 0
  sbase : Nat               -- 48 bits; SBASE (R353); reset 0
  obase : Nat               -- 48 bits; OBASE (R353); reset 0
  rsv : Nat                 -- 5 bits; bit k: register k was last written with a reserved bit set (R354); reset 0
  fold : Nat                -- 48 bits; FOLD (R393); reset DESIGN CHOICE 0 (log 3)
deriving DecidableEq, Repr

def Window.reset : Window := ⟨false, false, 0, 0, 0, 0, 0, 0, 0, 0, 0, 0⟩

/-- An assembled view line (R332, R333). -/
structure ViewLine where
  dirty : Bool
deriving DecidableEq, Repr

/-- A line held in the L2 (R316, R321). -/
structure L2Line where
  slice : Nat
  asid : Nat
  vline : Nat               -- va / 64
  pa : Nat                  -- physical line address, host lines offset by 2^60
  dirty : Bool
  keep : Bool               -- replaced last (R181, R193)
deriving DecidableEq, Repr

/-- A line held in the cache part of the stacked SRAM (R316, R324). -/
structure StkLine where
  line : Nat                -- physical line address, host lines offset by 2^60
  dirty : Bool
  keep : Bool               -- replaced last (R193)
deriving DecidableEq, Repr

/-- A translation held in a slice's translation cache (R321, R341). -/
structure Trans where
  slice : Nat
  part : Nat
  asid : Nat
  glob : Bool
  base : Nat                -- va of the page
  size : Nat
  aper : Nat
  frame : Nat               -- physical base, host physical base, or peer
  mt : Nat
  et : Bool
  rap : Bool
  atm : Bool
  x : Bool
  w : Bool
  rd : Bool
deriving DecidableEq, Repr

/-- States of a peer (R413). -/
inductive PeerSt where
  | unpopulated | disabled | present | self
deriving DecidableEq, Repr

/-- A route (R414). -/
structure Route where
  v : Bool                  -- 1 bit; V (R414); reset 0
  port : Nat                -- 5 bits; PORT (R414); reset 0
deriving DecidableEq, Repr

/-- A link port (R419). -/
structure Port where
  down : Bool               -- 1 bit; taken down (R419); reset 0
  replays : Nat             -- 4 bits; replays of the oldest packet (R419); reset 0
  buf : List Packet         -- replay buffer, oldest first (R419); reset none
deriving DecidableEq, Repr

def Port.reset : Port := ⟨false, 0, []⟩

/-- A victim frame (R329, R331). -/
structure VFrame where
  used : Bool
  token : Nat               -- 16 bits; token (R330)
  part : Nat
  page : PMem               -- the page, by offset (R329)
deriving DecidableEq, Repr

/-- A power island (R438, R439, R440). -/
structure Island where
  point : OpPoint           -- 2 bits; operating point (R438); reset 3.0 GHz (R15)
  cap : Nat                 -- 16 bits; island cap in W, 0 none (R439); reset DESIGN CHOICE 0 (log 3)
  draw : Nat                -- 16 bits; draw in W, averaged over 1 ms (R439); reset 0
  capping : Bool            -- 1 bit; its average has exceeded its cap and does not lie below it yet (R439); reset 0
  gated : Bool              -- 1 bit; an uncore island is clock-gated (R433, log 96); reset DESIGN CHOICE 0 (log 3)
deriving DecidableEq, Repr

def Island.reset : Island := ⟨.ghz30, 0, 0, false, false⟩

/-- Boot, identity and Treleveber (R405, R433-R437). -/
structure Boot where
  stage : Nat               -- 4 bits; BOOTST.STAGE (R435); reset 0
  slot : Nat                -- 4 bits; BOOTST.SLOT (R435); reset 0
  erra : Nat                -- 8 bits; BOOTST.ERRA (R435); reset 0
  errb : Nat                -- 8 bits; BOOTST.ERRB (R435); reset 0
  fuseSvn : Nat             -- 8 bits; fuse counter (R434, R435); reset from the fuses
  svn : Nat                 -- 32 bits; SVN of the running image (R434); reset 0
  digest : Nat              -- 384 bits; digest of the measured image (R436); reset 0
  uds : Nat                 -- 384 bits; UDS register, cleared by step 3 (R436); reset from the fuses
  cdi : Nat                 -- 384 bits; CDI kept by the boot ROM (R436); reset 0
  aliasKey : Nat            -- 384 bits; Alias private key (R436); reset 0
  policy : Nat              -- 384 bits; digest of the loaded policy firmware (R437); reset 0
  stopped : Bool            -- 1 bit; Treleveber stopped (R405); reset 0
  down : Option Nat         -- the clk by which the restart that runs ends, within 5 ms (R405); reset none
  restarts : List Nat       -- clk of the restarts of the last 60 s (R405); reset none
  log : List (Nat × Nat)    -- measurement log: index and value (R437); reset none
  answer : List Nat         -- the last SPDM answer (R437); reset none
  inp : Option BootIn       -- what the fuses and image slots gave at step 1 (R433, R434); reset none
  deviceCert : Nat          -- DeviceID certificate, from the fuses (R436); reset DESIGN CHOICE 0 (log 3)
  aliasCert : Nat           -- Alias certificate, signed with the DeviceID key (R436); reset DESIGN CHOICE 0 (log 3)
deriving DecidableEq, Repr

/-- Treleveber takes no request: it restarts, or stays stopped (R405). -/
def Boot.away (b : Boot) : Bool := b.stopped || b.down.isSome

end Sys2Proof.Machine
end

