-- ==== Sys2Proof/Machine/State.lean ====
section
/-!
DEFINITION. The machine's state: one package, its memories, its queues, what is in flight, and the host and the fabric as
far as the package holds them. Fault and Refusal are the ways a step can stop.
-/
namespace Sys2Proof.Machine

/-- The state of one Calic package (R9). -/
structure State where
  clk : Nat                 -- 64 bits; chip's clk count (R363, R407); reset 0
  agenda : List Instr       -- the model's own: machine steps to run next, in order (log 2); reset none
  timed : List Instr        -- the model's own: steps that the clk has brought, in order (R38, R361, R377, log 2); reset none
  pace : List Nat           -- the model's own: extra clk of the coming steps (log 2); reset none
  core : Nat                -- the model's own: logical core whose context issues (log 2); reset 0
  ctx : Nat                 -- the model's own: context that issues (log 2); reset 0
  turn : Bool               -- the model's own: the coming free step looks at the machine's own work first (log 2); reset 0
  issued : Option Nat       -- the model's own: core whose context has issued since the last tick (R394); reset none
  ir : Parcel               -- the model's own: first parcel of the instruction being run (R285); reset 0
  len : Nat                 -- the model's own: its length in bytes (R3); reset 4
  -- memories
  mem : PMem                -- GDDR7 and carve-out by physical address, as every agent sees it (R316, R323); reset 0
  hostMem : PMem            -- host memory by host physical address (R313, R425); reset 0
  l2 : List L2Line          -- 256 slices; lines held in the L2 (R321, R322); reset none
  stk : List StkLine        -- 16 GiB less the carve-out, in 64-byte lines; stacked SRAM cache part (R316, R324); reset none
  l2Priv : Bool             -- 1 bit; private mode (R322); reset DESIGN CHOICE shared (log 3)
  tcs : List Trans          -- 256 x 4,096 entries; translation caches (R321, R341); reset none
  views : Tab ViewLine      -- assembled view lines, by view address / 64 (R332); reset none
  edge : List Nat           -- 8 MiB of lines; host lines that the edge cache tracks (R425); reset none
  snooped : Nat             -- host snoops answered (R425); reset 0
  -- cores and units
  cores : Tab Core          -- 4,096 cores by logical number (R9, R12); reset idle
  spare : Tab Core          -- cores of the clusters outside the map, by physical number (R9, R335, R355); reset idle
  units : Tab UnitSt        -- units by thread number (R19); reset none
  threads : Tab Thread      -- 2^n entries; thread location table (R344); reset Closed
  tltLog : Nat              -- 5 bits; n, TLT size (R344); reset DESIGN CHOICE 16 (log 3)
  keyCtr : Nat              -- 16 bits; landing-key counter (R28); reset 0
  -- in flight
  reqs : List Req           -- accesses in flight, retry lists among them (R175, R178); reset none
  nextReq : Nat             -- the model's own: next access identifier; reset 0
  flight : List Landing     -- landings in flight (R34); reset none
  notes : List Notice       -- notices in flight (R294); reset none
  monitors : List Monitor   -- armed monitors (R340, R421, R428); reset none
  invs : List Inval         -- invalidations and flushes in progress, oldest first (R299); reset none
  -- work
  launches : Tab Launch     -- launches by 2^32 x partition + identifier (R24); reset none
  graphs : Tab Level        -- graphs, likewise (R24); reset none
  phases : Tab Level        -- phases, likewise (R24); reset none
  jobs : Tab Level          -- jobs, likewise (R24); reset none
  recs : List Rec           -- records and saved-unit entries, oldest first (R356, R361); reset none
  nextRec : Nat             -- the model's own: next record identifier; reset 0
  haltCtr : Nat             -- order of requested halts (R54); reset 0
  grants : Tab Nat          -- core granted last, by bucket (R364); reset DESIGN CHOICE 0 (log 3)
  -- tables
  asBase : Nat              -- PA of the address-space table (R336, R337); reset DESIGN CHOICE carve-out base (log 7)
  tltBase : Nat             -- PA of the thread location table (R336, R344); reset DESIGN CHOICE (log 7)
  slotBase : Nat            -- PA of the slot table (R336, R349); reset DESIGN CHOICE (log 7)
  frozen : List (Nat × Nat) -- frozen set: ASID, map (R343); reset none
  slots : Tab Slot          -- 4,096 x 128 bits; slot table by physical core (R349); reset 0
  gens : Tab Nat            -- 4,096 x 8 bits; GEN (R349); reset 0
  cmap : Tab Nat            -- 64 x 6 bits; cluster map, PHYS of logical n, set at step 5 (R355, R433); reset none
  nclus : Nat               -- 8 bits; DEVCFG.NCLUS (R13); reset 64
  dies : Nat                -- 4 bits; DEVCFG.DIES (R13); reset 0b1111
  gdev : Nat                -- 6 bits; DEVCFG.GDEV (R13); reset 48
  partNo : Nat              -- 16 bits; DEVCFG.PART (R13); reset 0xCA1C
  carve : Nat               -- 6 bits; DEVCFG.CARVE (R13); reset 0
  peer : Nat                -- 10 bits; DEVCFG.PEER (R13); reset 0
  windows : Tab Window      -- 64 format windows (R353); reset 0
  parts : Tab Part          -- 16 partitions (R357, R429); reset as each register states
  stages : Tab StageRt      -- installed stages by 256 x ASID + stage (R374, R375); reset none
  -- fabric and host port
  peers : Tab PeerSt        -- 1,024 entries; peer table (R413); reset unpopulated
  routes : Tab Route        -- 32 x 1,024 x 8 bits; route tables by 1,024 x gateway + peer (R414); reset 0
  ports : Tab Port          -- 32 link ports (R419); reset empty
  inbound : List Packet     -- requests at the gauntlet (R420); reset none
  resps : List Packet       -- responses that have arrived (R422); reset none
  linkHeld : List (Option Nat × Packet) -- packets held while a route changes, with the gateway they came in by (R414); reset none
  captures : Tab Packet     -- 32 x 256 bits; error capture of each gateway (R417); reset none
  nextTag : Nat             -- 16 bits; next transaction tag (R416); reset 0
  awin : Nat                -- 64 bits; AWIN (R427); reset 0
  hostData : List Byte      -- data last returned to the host; reset none
  hostPoison : Bool         -- CXL poison of it (R426); reset 0
  priOut : List (Nat × Nat × Word) -- page requests outstanding at the host: partition, ASID, address (R428); reset none
  priWait : List (Nat × Nat × Word) -- page requests that wait inside the device, oldest first (R428); reset none
  hdmBase : Nat             -- 64 bits; host physical base of the HDM decoders (R426); reset DESIGN CHOICE 0 (log 66)
  priRefused : List (Nat × Nat × Word) -- pages whose replay gives 602 (R428); reset none
  -- victim tier, power, boot
  frames : Tab VFrame       -- victim frames by 48 x quadrant + frame (R329); reset none
  nextToken : Nat           -- 16 bits; next token (R330); reset 1
  gated : List Nat          -- power-gated quadrants, local stores retained (R329, R440); reset none
  clusOff : List Nat        -- clusters that are off (R440); reset none
  islands : Tab Island      -- 288 islands (R15, R438); reset 3.0 GHz
  mcap : Nat                -- 11 bits; MCAP (R439); reset 1,800
  mdraw : Nat               -- 16 bits; DRAW (R439); reset 0
  capping : Bool            -- 1 bit; the average has exceeded MCAP and does not lie below it yet (R439); reset 0
  boot : Boot               -- boot sequence, identity, Treleveber (R433-R437); reset step 0
  pkgLog : List (Nat × Nat) -- package log of unattributed errors: address, block (R326, R392); reset none
deriving DecidableEq, Repr

/-- Why the machine stops with a fault. -/
inductive Fault where
  /-- Raised by exec and step when an encoded instruction would run on a core that holds no running unit, or on a context
  that is not live: the hardware has no such step. Safe. -/
  | noContext
deriving DecidableEq, Repr

/-- Why an instruction has no meaning here. -/
inductive Refusal where
  /-- Raised by an arm of exec whose instruction has no meaning yet. Safe. -/
  | notModelled (mnemonic : String)
deriving DecidableEq, Repr

/-- Boot, identity and Treleveber after power-on reset (R433, R435). -/
def Boot.reset : Boot :=
  { stage := 0, slot := 0, erra := 0, errb := 0, fuseSvn := 0, svn := 0, digest := 0, uds := 0, cdi := 0, aliasKey := 0
    policy := 0, stopped := false, down := none, restarts := [], log := [], answer := []
    inp := none, deviceCert := 0, aliasCert := 0 }

/-- The machine right after power-on reset: nothing booted, nothing bound, nothing in flight (R433). -/
def State.reset : State :=
  { clk := 0, agenda := [], timed := [], pace := [], core := 0, ctx := 0, turn := false, issued := none, ir := 0, len := 4
    mem := .blank, hostMem := .blank, l2 := [], stk := [], l2Priv := false, tcs := [], views := [], edge := [], snooped := 0
    cores := [], spare := [], units := [], threads := [], tltLog := 16, keyCtr := 0
    reqs := [], nextReq := 0, flight := [], notes := [], monitors := [], invs := []
    launches := [], graphs := [], phases := [], jobs := [], recs := [], nextRec := 0, haltCtr := 0, grants := []
    asBase := 0x4000000000, tltBase := 0x3EE0000000, slotBase := 0x4000800000
    frozen := [], slots := [], gens := [], cmap := [], nclus := 64, dies := 15, gdev := 48
    partNo := 0xCA1C, carve := 0, peer := 0, windows := [], parts := [], stages := []
    peers := [], routes := [], ports := [], inbound := [], resps := [], linkHeld := [], captures := [], nextTag := 0
    awin := 0, hostData := [], hostPoison := false, priOut := [], priWait := [], hdmBase := 0, priRefused := []
    frames := [], nextToken := 1, gated := [], clusOff := [], islands := [], mcap := 1800, mdraw := 0, capping := false
    boot := .reset, pkgLog := [] }

end Sys2Proof.Machine
end

