-- ==== Sys2Proof/Machine/Memory.lean ====
section
/-!
DEFINITION. The named operations over one memory: bytes, poison per 8-byte granule, full/empty bits per 8-byte word, and
stored hallmarks per 64-byte line (R2, R178, R180, R316, R327). A byte that nothing has written reads as zero.
-/
namespace Sys2Proof.Machine

/-! ## Sets of numbers, as rising lists -/

def setIns (n : Nat) : List Nat → List Nat
  | [] => [n]
  | a :: l => if n < a then n :: a :: l else if n = a then a :: l else a :: setIns n l

def setDel (n : Nat) (l : List Nat) : List Nat := l.filter (· != n)

/-- n is in the set exactly when b. -/
def setPut (b : Bool) (n : Nat) (l : List Nat) : List Nat := if b then setIns n l else setDel n l

/-! ## Bytes -/

/-- What an unlisted address reads as: bring-up clears every memory (R319, R433 step 4). -/
def Memory.blankByte : Byte := 0

/-- The byte at an address. -/
def Memory.byte (m : List Host.Cell) (a : Nat) : Byte := Tab.get Memory.blankByte m a

/-- Store one byte, keeping the list canonical. -/
def Memory.setByte (m : List Host.Cell) (a : Nat) (b : Byte) : List Host.Cell := Tab.put Memory.blankByte m a b

/-- Canonical form: addresses rise strictly, and no listed byte is what an unlisted address reads as. -/
def Memory.wf : List Host.Cell → Bool
  | [] => true
  | [(_, b)] => b != Memory.blankByte
  | (a, b) :: (a', b') :: t => b != Memory.blankByte && a < a' && Memory.wf ((a', b') :: t)

/-- n bytes from a, little-endian (R2). -/
def Memory.readLE (m : List Host.Cell) (a : Nat) : Nat → Nat
  | 0 => 0
  | n + 1 => (Memory.byte m a).toNat + 256 * Memory.readLE m (a + 1) n

/-- The n low bytes of v to a, little-endian (R2). -/
def Memory.writeLE (m : List Host.Cell) (a : Nat) : Nat → Nat → List Host.Cell
  | 0, _ => m
  | n + 1, v => Memory.writeLE (Memory.setByte m a (BitVec.ofNat 8 v)) (a + 1) n (v / 256)

/-! ## Granules, words and lines -/

/-- The granules that n bytes from a touch. -/
def granules (a n : Nat) : List Nat := if n = 0 then [] else (upto ((a + n - 1) / 8 - a / 8 + 1)).map (a / 8 + ·)

/-- The lines that n bytes from a touch. -/
def linesOf (a n : Nat) : List Nat := if n = 0 then [] else (upto ((a + n - 1) / 64 - a / 64 + 1)).map (a / 64 + ·)

/-- Granule g lies whole within n bytes from a. -/
def covers (a n g : Nat) : Bool := a ≤ 8 * g && 8 * g + 8 ≤ a + n

def PMem.poisoned (m : PMem) (g : Nat) : Bool := m.poison.contains g
def PMem.isFull (m : PMem) (w : Nat) : Bool := m.full.contains w

/-- The lines changed since the last step looked, with those of n bytes from a (R310). -/
def PMem.freshen (m : PMem) (a n : Nat) : List Nat := (linesOf a n).foldl (fun l k => setIns k l) m.fresh

/-- Poisoned of R8: a granule that the n bytes touch is poisoned. -/
def PMem.anyPoison (m : PMem) (a n : Nat) : Bool := (granules a n).any m.poisoned

def PMem.read (m : PMem) (a n : Nat) : Nat := Memory.readLE m.bytes a n
def PMem.setPoison (m : PMem) (g : Nat) (p : Bool) : PMem := { m with poison := setPut p g m.poison }
def PMem.setFull (m : PMem) (w : Nat) (f : Bool) : PMem :=
  { m with full := setPut f w m.full, fresh := if m.isFull w = f then m.fresh else setIns (w / 8) m.fresh }

/-- The poison a write of n bytes at a with mark p leaves on granule g (R180). -/
def PMem.markAfter (m : PMem) (a n : Nat) (p : Bool) (g : Nat) : Bool :=
  if covers a n g then p else m.poisoned g || p

/-- Write n bytes with mark p (R180); the writer computes the hallmark of each line afresh (R327). -/
def PMem.write (m : PMem) (a n v : Nat) (p : Bool) : PMem :=
  { m with
    bytes := Memory.writeLE m.bytes a n v
    poison := (granules a n).foldl (fun l g => setPut (m.markAfter a n p g) g l) m.poison
    hall := (linesOf a n).foldl (fun l k => Tab.del l k) m.hall
    fresh := m.freshen a n }

/-- As write, and every granule touched ends clean (R284). -/
def PMem.writeClean (m : PMem) (a n v : Nat) : PMem :=
  { m with
    bytes := Memory.writeLE m.bytes a n v
    poison := (granules a n).foldl (fun l g => setDel g l) m.poison
    hall := (linesOf a n).foldl (fun l k => Tab.del l k) m.hall
    fresh := m.freshen a n }

/-- One byte of data with mark p. -/
def PMem.writeByte (m : PMem) (a : Nat) (b : Byte) (p : Bool) : PMem := m.write a 1 b.toNat p

/-- Bytes a .. a + n − 1 as a list. -/
def PMem.bytesAt (m : PMem) (a n : Nat) : List Byte := (upto n).map (fun i => Memory.byte m.bytes (a + i))

/-- The mark that a run of marked bytes from a gives granule g: the OR of the marks of its bytes there (R180, R249). -/
def runMark (a : Nat) (l : List (Byte × Bool)) (g : Nat) : Bool :=
  (upto 8).any (fun i => a ≤ 8 * g + i && (match l[8 * g + i - a]? with | some e => e.2 | none => false))

/-- Store a run of bytes with the mark each carries: a granule covered whole takes the new mark, another keeps its own
too (R180). -/
def PMem.writeRun (m : PMem) (a : Nat) (l : List (Byte × Bool)) : PMem :=
  { m with
    bytes := (l.foldl (fun (x : List Host.Cell × Nat) e => (Memory.setByte x.1 x.2 e.1, x.2 + 1)) (m.bytes, a)).1
    poison := (granules a l.length).foldl
      (fun ps g => setPut (runMark a l g || (!covers a l.length g && m.poisoned g)) g ps) m.poison
    hall := (linesOf a l.length).foldl (fun h k => Tab.del h k) m.hall
    fresh := m.freshen a l.length }

/-- Bytes a .. a + n − 1, each with the poison of its granule. -/
def PMem.runAt (m : PMem) (a n : Nat) : List (Byte × Bool) :=
  (upto n).map (fun i => (Memory.byte m.bytes (a + i), m.poisoned ((a + i) / 8)))

/-- Clear n bytes with clean poison (R319). -/
def PMem.clear (m : PMem) (a n : Nat) : PMem :=
  { m with
    bytes := m.bytes.filter (fun c => c.1 < a || a + n ≤ c.1)
    poison := m.poison.filter (fun g => 8 * g < a || a + n ≤ 8 * g) }

/-! ## Hallmarks (R327) -/

/-- One byte into the CRC-16 of polynomial 0x1021, most significant bit first. -/
def crc16Byte (c b : Nat) : Nat :=
  (upto 8).foldl (fun c _ => let d := 2 * c; (if d / 65536 = 1 then d ^^^ 0x11021 else d) % 65536) (c ^^^ (b * 256))

/-- The hallmark of a line of 64 bytes (R327). -/
def hallmark (line : List Byte) : BitVec 16 := BitVec.ofNat 16 (line.foldl (fun c b => crc16Byte c b.toNat) 0xFFFF)

/-- The hallmark stored with line k. -/
def PMem.lineMark (m : PMem) (k : Nat) : BitVec 16 := m.hall.get (hallmark (m.bytesAt (64 * k) 64)) k

/-- The stored hallmark of line k is not that of its data. -/
def PMem.markBad (m : PMem) (k : Nat) : Bool := m.lineMark k != hallmark (m.bytesAt (64 * k) 64)

/-- All 8 poison bits of line k set. -/
def PMem.poisonLine (m : PMem) (k : Nat) : PMem :=
  (upto 8).foldl (fun m i => m.setPoison (8 * k + i) true) m

/-- Data of line k replaced without its writer: the stored hallmark stays as it was. -/
def PMem.corrupt (m : PMem) (k : Nat) (noise : List (Nat × Byte)) : PMem :=
  let old := m.lineMark k
  let b := noise.foldl (fun b e => Memory.setByte b (64 * k + e.1 % 64) e.2) m.bytes
  { m with bytes := b, hall := m.hall.set k old }

end Sys2Proof.Machine
end

