-- ==== Sys2Proof/Machine/Base.lean ====
section
/-!
DEFINITION. Named access to the parts of the state, and the shared operations under every instruction: counters, notices,
the supervisor log, completion of timeline operations, landings into registers, and the end of a unit.
-/
namespace Sys2Proof.Machine

/-! ## Access to the tables of the state -/

def State.coreAt (s : State) (k : Nat) : Core := s.cores.get .reset k
def State.setCore (s : State) (k : Nat) (c : Core) : State := { s with cores := s.cores.set k c }
def State.modCore (s : State) (k : Nat) (f : Core → Core) : State := s.setCore k (f (s.coreAt k))
def State.unitAt (s : State) (t : Nat) : UnitSt := s.units.get .reset t
def State.setUnit (s : State) (t : Nat) (u : UnitSt) : State := { s with units := s.units.set t u }
def State.modUnit (s : State) (t : Nat) (f : UnitSt → UnitSt) : State := s.setUnit t (f (s.unitAt t))
def State.thr (s : State) (t : Nat) : Thread := s.threads.get .reset t
def State.setThr (s : State) (t : Nat) (e : Thread) : State := { s with threads := s.threads.set t e }
def State.modThr (s : State) (t : Nat) (f : Thread → Thread) : State := s.setThr t (f (s.thr t))
def State.part (s : State) (p : Nat) : Part := s.parts.get .reset p
def State.setPart (s : State) (p : Nat) (e : Part) : State := { s with parts := s.parts.set p e }
def State.modPart (s : State) (p : Nat) (f : Part → Part) : State := s.setPart p (f (s.part p))
def State.launchAt (s : State) (l : Nat) : Launch := s.launches.get .reset l
def State.setLaunch (s : State) (l : Nat) (e : Launch) : State := { s with launches := s.launches.set l e }
def State.modLaunch (s : State) (l : Nat) (f : Launch → Launch) : State := s.setLaunch l (f (s.launchAt l))
def State.stageAt (s : State) (k : Nat) : StageRt := s.stages.get .reset k
def State.modStage (s : State) (k : Nat) (f : StageRt → StageRt) : State :=
  { s with stages := s.stages.set k (f (s.stageAt k)) }
def StageRt.instAt (r : StageRt) (i : Nat) : Inst := r.insts.get .reset i
def State.inst (s : State) (k i : Nat) : Inst := (s.stageAt k).instAt i
def State.modInst (s : State) (k i : Nat) (f : Inst → Inst) : State :=
  s.modStage k (fun r => { r with insts := r.insts.set i (f (r.instAt i)) })
def State.window (s : State) (w : Nat) : Window := s.windows.get .reset w
def State.peerSt (s : State) (p : Nat) : PeerSt := s.peers.get .unpopulated p

def UnitSt.ctxAt (u : UnitSt) (c : Nat) : Ctx := u.ctxs.get .reset c
def UnitSt.setCtx (u : UnitSt) (c : Nat) (x : Ctx) : UnitSt := { u with ctxs := u.ctxs.set c x }
def UnitSt.modCtx (u : UnitSt) (c : Nat) (f : Ctx → Ctx) : UnitSt := u.setCtx c (f (u.ctxAt c))
def State.modCtx (s : State) (t c : Nat) (f : Ctx → Ctx) : State := s.modUnit t (fun u => u.modCtx c f)

/-- A partition's launch, graph, phase or job by identifier. -/
def inPart (part id : Nat) : Nat := part * 2 ^ 32 + id
/-- A stage of an address space. -/
def stageKey (asid stage : Nat) : Nat := asid * 256 + stage

/-! ## The context that acts -/

/-- Thread of the unit on the acting core. -/
def State.th (s : State) : Nat := (s.coreAt s.core).thread
/-- The acting unit. -/
def State.un (s : State) : UnitSt := s.unitAt s.th
def State.setUn (s : State) (u : UnitSt) : State := s.setUnit s.th u
/-- The acting context. -/
def State.cx (s : State) : Ctx := s.un.ctxAt s.ctx
def State.setCx (s : State) (c : Ctx) : State := s.setUn (s.un.setCtx s.ctx c)
/-- The acting unit's timeline, launch and partition. -/
def State.tlAt (s : State) (t tl : Nat) : Timeline := (s.thr t).tls.get .reset tl
def State.setTl (s : State) (t tl : Nat) (e : Timeline) : State := s.modThr t (fun x => { x with tls := x.tls.set tl e })

/-- An encoded instruction can run: the acting core runs a unit, and the context is live (R19). -/
def State.runs (s : State) : Bool := (s.coreAt s.core).st == .running && s.cx.live

/-! ## Canonical addresses and MRAs -/

/-- SignExt(a<56:0>) = a (R173). -/
def canonical (a : Word) : Bool := (a.extractLsb' 0 57).signExtend 64 == a
/-- A valid branch target: canonical, bits 1:0 zero (R165). -/
def targetOk (a : Word) : Bool := canonical a && a.extractLsb' 0 2 == 0

/-- Fields of an MRA (R131). -/
def mraChip (m : Word) : Nat := m.toNat / 2 ^ 54
def mraThread (m : Word) : Nat := m.toNat / 2 ^ 30 % 2 ^ 24
def mraKey (m : Word) : Nat := m.toNat / 2 ^ 14 % 2 ^ 16
def mraCtx (m : Word) : Nat := m.toNat / 2 ^ 10 % 16
def mraReg (m : Word) : Nat := m.toNat / 2 ^ 5 % 32

/-- A handle: an MRA with bits 13:0 zero (R61, R131). -/
def handle (chip thread key : Nat) : Word := BitVec.ofNat 64 (chip * 2 ^ 54 + thread * 2 ^ 30 + key * 2 ^ 14)

/-- A cause from its three hex digits: class, then reason (R6, R395). -/
def cz (n : Nat) : Cause := BitVec.ofNat 9 (n / 256 * 32 + n % 256)

/-! ## Counters (R388-R394) -/

def satInc (w n : Nat) : Nat := if n + 1 < 2 ^ w then n + 1 else 2 ^ w - 1
def satInc32 (c : BitVec 32) : BitVec 32 := if c == BitVec.allOnes 32 then c else c + 1

def Ctx.bump (c : Ctx) : Cnt → Ctx
  | .subst => { c with subst := satInc32 c.subst }
  | .hdrop => { c with hdrop := satInc32 c.hdrop }
  | .orph => { c with orph := satInc32 c.orph }
  | .fmtv => { c with fmtv := satInc32 c.fmtv }

def Part.bump (p : Part) : Cnt → Part
  | .subst => { p with psubst := satInc 48 p.psubst }
  | .hdrop => { p with phdrop := satInc 48 p.phdrop }
  | .orph => { p with porph := satInc 48 p.porph }
  | .fmtv => { p with pfmtv := satInc 48 p.pfmtv }

/-- One increment of a context counter and its partition total: at once while the unit is resident, kept by the home
gateway while it is away, and to the partition alone once the context has ended; no is the number of the access or landing
that causes it, which tells an earlier life of a helper slot from a later one (R389, R390). -/
def State.bump (s : State) (part t key c : Nat) (n : Cnt) (no : Nat := s.nextReq) : State :=
  let s := s.modPart part (·.bump n)
  let e := s.thr t
  if e.key != key || e.st == .closed || no < ((s.unitAt t).ctxAt c).born then s
  else if e.st == .resident then if ((s.unitAt t).ctxAt c).live then s.modCtx t c (·.bump n) else s
  else s.modThr t (fun e => { e with kept := e.kept ++ [(c, n)] })

/-- Performance event ev of a context in mode sup (R394). -/
def UnitSt.pm (u : UnitSt) (ev : Nat) (sup : Bool) : UnitSt :=
  (upto 4).foldl (fun u n =>
    let c := u.pmctl.get 0 n
    if c.getLsbD 63 && c.toNat % 256 == ev && (if sup then c.getLsbD 60 else c.getLsbD 61) then
      let v := u.pmcnt.get 0 n
      let u := { u with pmcnt := u.pmcnt.set n (v + 1) }
      if v == BitVec.allOnes 48 then { u with pmctl := u.pmctl.set n (c ||| (1#64 <<< 62)) } else u
    else u) u

/-- A clk event of a unit, over d clk (R394). -/
def UnitSt.pmClk (u : UnitSt) (ev d : Nat) : UnitSt :=
  (upto 4).foldl (fun u n =>
    let c := u.pmctl.get 0 n
    if c.getLsbD 63 && c.toNat % 256 == ev && (c.getLsbD 60 || c.getLsbD 61) then
      let v := u.pmcnt.get 0 n
      let u := { u with pmcnt := u.pmcnt.set n (v + BitVec.ofNat 48 d) }
      if 2 ^ 48 ≤ v.toNat + d then { u with pmctl := u.pmctl.set n (c ||| (1#64 <<< 62)) } else u
    else u) u

def State.pm (s : State) (t ev : Nat) (sup : Bool) : State :=
  if (s.unitAt t).pmctl = [] then s else s.modUnit t (·.pm ev sup)

/-! ## Notices, interrupts and the supervisor log -/

/-- A notice leaves its source (R294). -/
def State.notify (s : State) (t key c : Nat) (cause : Cause) (arg : Word) : State :=
  { s with notes := s.notes ++ [⟨t, key, c, cause, arg, none⟩] }

/-- An interrupt vector of a partition is raised (R430). -/
def State.irq (s : State) (p v : Nat) : State := s.modPart p (fun e => { e with irq := setIns v e.irq })

/-- An entry for a partition's supervisor log (R407). -/
def State.log (s : State) (p evt : Nat) (cause : Cause) (addr : Word) (t launch detail : Nat) : State :=
  s.modPart p (fun e => { e with logq := e.logq ++ [⟨s.clk, addr, t, launch, detail, evt, cause⟩] })

/-- A lost entry of a table: EVT 0x09 names the table (R404, R407). -/
def State.logTable (s : State) (p table : Nat) : State := s.log p 9 0 0 0 0 table

/-- Why a peer cannot be reached: the DETAIL of R407, none when it can (R413). -/
def State.peerFault (s : State) (p peer : Nat) : Option Nat :=
  match s.peerSt peer with
  | .unpopulated => if peer == s.peer then none else some 0
  | .disabled => some 1
  | .self => none
  | .present => if (s.part p).reach.contains peer then none else some 2

/-! ## Timelines (R250, R251, R255) -/

/-- The completion count advances over the numbers completed ahead of it (R251). -/
def Timeline.advance (t : Timeline) : Nat → Timeline
  | 0 => t
  | n + 1 =>
    if t.done.contains (t.comp + 1) then
      Timeline.advance { t with comp := t.comp + 1, done := setDel (t.comp + 1) t.done } n
    else t

/-- Operation no ends with a status (R250, R251, R255). -/
def Timeline.finish (t : Timeline) (no status : Nat) (addr : Word) (step : Nat) : Timeline :=
  let t := if status != 0 && t.status == 0 then { t with status := status, errNo := no, errAddr := addr, errStep := step }
    else t
  let t := { t with done := setIns no t.done, qpErr := t.qpErr || (status != 0 && status != 6) }
  t.advance t.done.length

def EngOp.is (o : EngOp) (tl no : Nat) : Bool := o.tl == tl && o.no == no

/-- One operation of thread t ends; with a status that is not ok it leaves the matrix unit if it is there, and with UF a notice C05
is sent (R232, R246, R250). -/
def State.opEnd (s : State) (t tl no status : Nat) (addr : Word) (step : Nat) : State :=
  let e := s.thr t
  match e.ops.find? (·.is tl no) with
  | none => s
  | some o =>
    let s := s.setThr t { e with
      ops := dropFirst (·.is tl no) e.ops
      tls := e.tls.set tl ((e.tls.get .reset tl).finish no status addr step) }
    let s := if status != 0 && o.k == .mat && !(s.unitAt t).mq.isEmpty then
        s.modUnit t (fun u => { u with mq := u.mq.filter (fun j => !(j.tl == tl && j.no == no)) })
      else s
    if o.uf && status != 0 then s.notify t e.key o.ctx (cz 0xC05) (BitVec.ofNat 64 no) else s

/-- Operation no of timeline tl ends, if it is outstanding; a status other than ok or 0x06 flushes the rest of the timeline with 0x05
(R255). -/
def State.opDone (s : State) (t tl no status : Nat) (addr : Word) (step : Nat) : State :=
  if !(s.thr t).ops.any (·.is tl no) then s else
  let s := s.opEnd t tl no status addr step
  if status == 0 || status == 6 then s
  else ((s.thr t).ops.filter (·.tl == tl)).foldl (fun s o => s.opEnd t tl o.no 5 0 0) s

/-- Every operation of a thread ends with one status (R253). -/
def State.flushOps (s : State) (t status : Nat) : State :=
  (s.thr t).ops.foldl (fun s o => s.opEnd t o.tl o.no status 0 0) s

/-! ## Registers as landing sites (R125, R129, R34) -/

/-- g0 reads as zero, full and clean (R125). -/
def GReg.zeroReg : GReg := ⟨0, true, false, 0, []⟩

/-- Register n of a context. -/
def Ctx.reg (c : Ctx) (n : Nat) : GReg := if n = 0 then .zeroReg else c.g.get .empty n
/-- Register n becomes r; g0 keeps its value. -/
def Ctx.setReg (c : Ctx) (n : Nat) (r : GReg) : Ctx := if n = 0 then c else { c with g := c.g.set n r }
def Ctx.xreg (c : Ctx) (k : Nat) : Val := c.x.get .zero k
def Ctx.setX (c : Ctx) (k : Nat) (v : Val) : Ctx := { c with x := c.x.set k v }

def GReg.occupied (r : GReg) : Bool := if r.depth = 0 then r.f else !r.q.isEmpty
/-- The value a read returns (R58, R129). -/
def GReg.head (r : GReg) : Option Val :=
  if r.depth = 0 then if r.f then some ⟨r.v, r.p⟩ else none else r.q.head?
/-- What an arriving value finds: room, or not (R34, R129). -/
def GReg.land (r : GReg) (v : Val) : Option GReg :=
  if r.depth = 0 then if r.f then none else some { r with v := v.v, p := v.p, f := true }
  else if r.q.length < r.depth then some { r with q := r.q ++ [v] } else none
/-- Take: F := 0 and P := 0, or a pop (R8, R129). -/
def GReg.take (r : GReg) : GReg :=
  if r.depth = 0 then { r with f := false, p := false } else { r with q := r.q.drop 1 }
/-- Write: the old value is replaced, or a push (R8, R59). -/
def GReg.write (r : GReg) (v : Val) : GReg :=
  if r.depth = 0 then { r with v := v.v, p := v.p, f := true } else { r with q := r.q ++ [v] }

/-- Values that unaccepted accesses have taken from register n (R60, R176). -/
def Ctx.takenOf (c : Ctx) (n : Nat) : Nat := (c.taken.filter (·.1 == n)).length

/-- Register n takes a landing when it has room; an unaccepted take closes it, a queue too (R60, R129, R176). -/
def Ctx.land (c : Ctx) (n : Nat) (v : Val) : Option Ctx :=
  if c.takenOf n != 0 then none
  else match (c.reg n).land v with
    | some r => some (c.setReg n r)
    | none => none

/-- A landing wakes an IDLE (R302). -/
def Ctx.wake (c : Ctx) : Ctx := if c.wait = .idle then { c with wait := .woken } else c

/-! ## Landings that have been decided (R34, R184) -/

/-- A landing for the same register of the same thread. -/
def Landing.sameReg (l m : Landing) : Bool :=
  mraThread l.mra == mraThread m.mra && mraCtx l.mra == mraCtx m.mra && mraReg l.mra == mraReg m.mra

/-- The port of the route to a peer in a gateway's own table; a packet of this chip's own, and one whose gateway has no route, takes
the first gateway's that has one (R414; log 26). -/
def State.portOf (s : State) (gw : Option Nat) (peer : Nat) : Option Nat :=
  let any_ := s.routes.findSome? (fun e => if e.1 % 1024 == peer && e.2.v then some e.2.port else none)
  match gw with
  | none => any_
  | some g =>
    let r := s.routes.get ⟨false, 0⟩ (1024 * g + peer)
    if r.v then some r.port else any_
def State.portFor (s : State) (peer : Nat) : Option Nat := s.portOf none peer

/-- Packets to a peer wait for their acknowledgement on another port than k. -/
def State.peerBusy (s : State) (k peer : Nat) : Bool :=
  s.ports.any (fun e => e.1 != k && e.2.buf.any (fun p => p.dst / 4096 == peer))

/-- A packet leaves through the port that its route names; it is held while packets to the same peer wait on another port for their
acknowledgement, or are themselves held (R414). -/
def State.routePacket (s : State) (gw : Option Nat) (peer : Nat) (p : Packet) : State :=
  match s.portOf gw peer with
  | none => s
  | some k =>
    if s.peerBusy k peer || s.linkHeld.any (fun h => h.2.dst / 4096 == peer) then { s with linkHeld := s.linkHeld ++ [(gw, p)] }
    else
      let q := s.ports.get .reset k
      { s with ports := s.ports.set k { q with buf := q.buf ++ [p] } }
def State.sendPacket (s : State) (peer : Nat) (p : Packet) : State := s.routePacket none peer p

/-- A response to a request of another chip, to the endpoint that sent it (R417, R422). It repeats the request's TAG, SZ, LO, ASID,
TENANT and ADDR, AOP 1 tells of a substitution, which the requester counts (R180), and a home answers as endpoint 0 of its chip
(DESIGN CHOICE, log 84). -/
def State.respond (s : State) (g : Asker) (typ status : Nat) (payload : List Word) (pmask : Nat) (sub : Bool := false) : State :=
  s.sendPacket (g.src / 4096)
    { pmask := pmask, status := status, tag := g.tag, nl := (payload.length + 7) / 8, sz := g.sz, sm := 0
      aop := if sub then 1 else 0, lo := g.lo, sh := false, typ := typ, asid := g.asid, tenant := g.tenant, src := s.peer * 4096
      dst := g.src, addr := g.addr, payload := payload }

/-- The timeline operation of a landing ends with a status, while the life that sent it lasts (R184). -/
def State.landEnds (s : State) (l : Landing) (status : Nat) (addr : Word) : State :=
  match l.tl with
  | some (tl, no) => if (s.thr l.sthread).key == l.skey then s.opDone l.sthread tl no status addr 0 else s
  | none => s

/-- A landing is written: its timeline operation completes (R184). -/
def State.landed (s : State) (l : Landing) : State :=
  match l.tag with
  | some g => s.respond g 0x10 0 [] 0
  | none => if l.schip == s.peer then s.landEnds l 0 0 else s

/-- A landing is rejected with no increment of a counter: recorded, and with URJ a notice 902 (R34, R184, R401). -/
def State.rejectQuiet (s : State) (l : Landing) : State :=
  match l.tag with
  | some g => s.respond g 0x10 6 [] 0
  | none =>
    (if l.urj then s.notify l.sthread l.skey l.sctx (cz 0x902) l.mra else s).landEnds l 6 l.mra

/-- A landing is rejected, and counted against its sender (R34, R389). -/
def State.reject (s : State) (l : Landing) : State :=
  (if l.tag.isNone then s.bump l.spart l.sthread l.skey l.sctx .orph l.seq else s).rejectQuiet l

/-- Offer a landing to the register of the unit on core k that it names: written when the register is open and nothing
older waits for it, else held in the landing buffer (R34). -/
def State.offer (s : State) (k : Nat) (l : Landing) : State :=
  let co := s.coreAt k
  let u := s.unitAt co.thread
  let c := u.ctxAt (mraCtx l.mra)
  match (if co.lbuf.any (·.sameReg l) then none else c.land (mraReg l.mra) l.val) with
  | some c' => ((s.setUnit co.thread (u.setCtx (mraCtx l.mra) c'.wake)).pm co.thread 4 c.priv).landed l
  | none => s.setCore k { co with lbuf := co.lbuf ++ [l] }

/-- Held landings resolve after takes, in arrival order (R127 step 3). -/
def State.drain (s : State) (k : Nat) : State :=
  let co := s.coreAt k
  if co.lbuf = [] || co.st != .running then s
  else co.lbuf.foldl (fun s l => s.offer k l) (s.setCore k { co with lbuf := [] })

/-! ## Levels of work (R24, R26, R391) -/

def Level.dec (l : Level) : Level := { l with count := l.count - 1 }

/-- A job's counter falls; at zero its completion entry is due (R24, R430). -/
def State.jobDec (s : State) (p j : Nat) : State :=
  let l := (s.jobs.get .reset (inPart p j)).dec
  let s := { s with jobs := s.jobs.set (inPart p j) l }
  if l.count == 0 then s.modPart p (fun e => { e with jobsDone := e.jobsDone ++ [(j, l.canc)] }) else s

def State.phaseDec (s : State) (p f : Nat) : State :=
  let l := (s.phases.get .reset (inPart p f)).dec
  let s := { s with phases := s.phases.set (inPart p f) l }
  if l.count == 0 then s.jobDec p l.up else s

def State.graphDec (s : State) (p g : Nat) : State :=
  let l := (s.graphs.get .reset (inPart p g)).dec
  let s := { s with graphs := s.graphs.set (inPart p g) l }
  if l.count == 0 then s.phaseDec p l.up else s

/-- A launch's counter falls by n; at zero the launch completes, and then the levels above it (R24). -/
def State.launchDec (s : State) (p l n : Nat) : State :=
  let e := s.launchAt (inPart p l)
  let s := s.setLaunch (inPart p l) { e with count := e.count - n }
  if e.count != 0 && e.count - n == 0 then s.graphDec p e.graph else s

/-! ## Stages (R387) -/

/-- The installed instance a thread runs, as stage key and KRT index (R347). -/
def State.instOf (s : State) (t : Nat) : Option (Nat × Nat) :=
  s.stages.findSome? (fun e => if e.2.inst then
    (e.2.insts.find? (fun i => i.2.thread == t && t != 0)).map (fun i => (e.1, i.1)) else none)

/-- A stage stops (R387). -/
def State.stopStage (s : State) (k : Nat) (addr : Word) : State :=
  let r := s.stageAt k
  if r.stopped then s
  else ((s.modStage k (fun r => { r with stopped := true })).log r.part 4 0 addr 0 0 (k % 256)).irq r.part 1

/-- An instance's unit has ended other than by the governor: its stage stops, and the instance holds no thread any more (R375,
R387). -/
def State.loseInst (s : State) (o : Option (Nat × Nat)) : State :=
  match o with
  | some (k, i) => (s.stopStage k 0).modInst k i (fun x => { x with thread := 0 })
  | none => s

/-! ## The end of a unit (R42, R267, R345) -/

/-- Invalidations of contexts of thread t whose life ends go on, and are nobody's: no key is 65,536 (R299, R301). -/
def State.orphanInvs (s : State) (t : Nat) (ctx : Nat → Bool) : State :=
  { s with invs := s.invs.map (fun v => if v.thread == t && ctx v.ctx then { v with key := 65536 } else v) }

/-- The TLT entry closes: held landings are rejected, the image is discarded. What the unit issued before is not recalled
(R26). -/
def State.closeThread (s : State) (t : Nat) : State :=
  let e := s.thr t
  let k := e.loc
  let mine (l : Landing) : Bool := mraThread l.mra == t
  let held := if e.st == .saved || e.st == .suspended then [] else (s.coreAt k).lbuf.filter mine
  let s := s.setThr t { e with st := .closed, addr := 0, hold := [], pend := [], kept := [], notices := [], lsImg := .blank
                               gimg := [], snap := [], freed := true }
  let s := if (s.coreAt k).thread == t then
    s.modCore k (fun c => { c with st := .idle, thread := 0, lbuf := c.lbuf.filter (!mine ·), rsvd := 0, links := []
                                   halt := none, gated := false, idleSince := s.clk }) else s
  let s := { s with
    recs := s.recs.filter (fun r => !(r.thread == t && (r.k == .saved || r.k == .suspended)))
    units := s.units.del t }
  (held ++ e.hold).foldl (fun s l => s.reject l) s

/-- A gang unit that has ended counts as arrived at every later GBAR (R277). -/
def State.gangGone (s : State) (p l : Nat) : State :=
  let e := s.launchAt (inPart p l)
  if e.gang then s.setLaunch (inPart p l) { e with gone := e.gone + 1 } else s

/-- A unit is discarded without a save (R42); its operations end with a status (R253); its stage stops (R387). -/
def State.discard (s : State) (t status : Nat) : State :=
  let e := s.thr t
  if e.st == .closed then s else
  let st := s.instOf t
  (((s.closeThread t).flushOps t status).gangGone e.part e.launch).loseInst st

/-- A unit is discarded alone, as CANCEL would (R346, R411): its launch's cancelled flag is set. -/
def State.discardAlone (s : State) (t : Nat) : State :=
  let e := s.thr t
  (s.discard t 8).modLaunch (inPart e.part e.launch) (fun l => { l with canc := true })

end Sys2Proof.Machine
end

