-- ==== Sys2Proof/Machine/Operands.lean ====
section
/-!
DEFINITION. Operand forms: reading, taking and writing general registers, queues, shadow registers and mesh links
(R46, R58, R59, R125, R129, R133, R134, R146).
-/
namespace Sys2Proof.Machine

/-! ## Mesh links (R11, R46, R133) -/

/-- The core in direction d ($n $e $s $w) of core k, inside its cluster (R11). -/
def neighbour (k d : Nat) : Option Nat :=
  let r := k % 64 / 8
  let c := k % 8
  if d = 0 then if r = 0 then none else some (k - 8)
  else if d = 1 then if c = 7 then none else some (k + 1)
  else if d = 2 then if r = 7 then none else some (k + 8)
  else if c = 0 then none else some (k - 1)

/-- The link's other end holds a unit of the acting unit's launch; otherwise D09 (R47). -/
def State.linkOk (s : State) (d : Nat) : Bool :=
  match neighbour s.core d with
  | none => false
  | some k => (s.coreAt k).st != .idle && (s.unitAt (s.coreAt k).thread).launch == s.un.launch &&
      (s.unitAt (s.coreAt k).thread).part == s.un.part

/-- Values received on link d of core k, oldest first. -/
def State.linkBuf (s : State) (k d : Nat) : List Val := (s.coreAt k).links.get [] d
def State.setLink (s : State) (k d : Nat) (l : List Val) : State := s.modCore k (fun c => { c with links := c.links.set d l })

/-! ## Sources (R58, R146) -/

/-- A source operand: its code and its take bit. -/
abbrev SrcOp := Opd × Bool

/-- How many of the earlier sources take register n. -/
def takesOf (n : BitVec 5) (l : List SrcOp) : Nat := (l.filter (fun e => e.2 && e.1 == .g n)).length
/-- How many of the earlier sources pop link d. -/
def popsOf (d : BitVec 2) (l : List SrcOp) : Nat := (l.filter (fun e => e.1 == .link d)).length

/-- The value a source operand has at issue, or none when it must wait (R58, R146). Code 63 gives the immediate. -/
def State.srcVal (s : State) (imm : Word) (prev : List SrcOp) (o : SrcOp) : Option Val :=
  match o.1 with
  | .g n =>
    let r := s.cx.reg n.toNat
    if o.2 && r.depth != 0 then r.q[takesOf n prev]? else r.head
  | .x k => some (s.cx.xreg k.toNat)
  | .link d => (s.linkBuf s.core d.toNat)[popsOf d prev]?
  | .imm => some ⟨imm, false⟩
  | .rsv _ => some .zero

/-- The values of a list of source operands, in order; none when some operand must wait. -/
def State.srcVals (s : State) (imm : Word) : List SrcOp → List SrcOp → Option (List Val)
  | _, [] => some []
  | prev, o :: l =>
    match s.srcVal imm prev o with
    | none => none
    | some v => (State.srcVals s imm (prev ++ [o]) l).map (v :: ·)

/-- Take one source operand: a general register with its take bit, or a link (R46, R58). -/
def State.takeSrc (s : State) (o : SrcOp) : State :=
  match o.1 with
  | .g n => if o.2 then s.setCx (s.cx.setReg n.toNat (s.cx.reg n.toNat).take) else s
  | .link d => s.setLink s.core d.toNat ((s.linkBuf s.core d.toNat).drop 1)
  | .x _ => s
  | .imm => s
  | .rsv _ => s

/-- All takes of one instruction. A plain register taken twice is cleared once; a queue taken twice pops twice (R58). -/
def State.takeAll (s : State) (l : List SrcOp) : State := l.foldl State.takeSrc s

/-! ## Destinations (R58, R59) -/

/-- A free slot for the result, counted after the instruction's own takes (R46, R58). -/
def State.room (s : State) (srcs : List SrcOp) : Opd → Bool
  | .g n =>
    let r := s.cx.reg n.toNat
    r.depth == 0 || r.q.length - takesOf n srcs < r.depth
  | .link d => match neighbour s.core d.toNat with
    | some k => (s.linkBuf k ((d.toNat + 2) % 4)).length < 2
    | none => true
  | .x _ => true
  | .imm => true
  | .rsv _ => true

/-- Write a result: a register, a shadow register, or a send on a link (R59, R134, R46). -/
def State.writeDst (s : State) (v : Val) : Opd → State
  | .g n => s.setCx (s.cx.setReg n.toNat ((s.cx.reg n.toNat).write v))
  | .x k => s.setCx (s.cx.setX k.toNat v)
  | .link d => match neighbour s.core d.toNat with
    | some k => s.setLink k ((d.toNat + 2) % 4) (s.linkBuf k ((d.toNat + 2) % 4) ++ [v])
    | none => s
  | .imm => s
  | .rsv _ => s

/-- Every link named is usable (R47, D09). -/
def State.linksOk (s : State) (l : List Opd) : Bool :=
  l.all (fun o => match o with | .link d => s.linkOk d.toNat | .g _ => true | .x _ => true | .imm => true | .rsv _ => true)

/-- SignExt(IMM16), what code 63 reads (R146). -/
def sx16 (i : BitVec 16) : Word := i.signExtend 64
/-- Byte offset of a branch: 4 × IMM32 (R71). -/
def off32 (i : BitVec 32) : Word := i.signExtend 64 * 4

end Sys2Proof.Machine
end

