-- ==== Sys2Proof/Machine/Ops.lean ====
section
/-!
DEFINITION. Retiring an instruction, the assay (R285-R287), taking an exception and returning from one (R290-R296), gang
rollback (R401), consumption of poison (R400), and the mould of a scalar instruction (R144-R147).
-/
namespace Sys2Proof.Machine

/-- What exec answers. -/
abbrev Out := Host.Outcome State Fault Refusal

/-! ## The assay (R285) -/

/-- One byte into the 24-bit CRC of polynomial 0x86_4CFB, most significant bit first. -/
def crc24Byte (c b : Nat) : Nat :=
  (upto 8).foldl (fun c _ => let d := 2 * c; (if d / 16777216 = 1 then d ^^^ 0x1864CFB else d) % 16777216)
    (c ^^^ (b * 65536))

/-- Feed of a retired instruction's first parcel: bits 1:0 cleared, byte 0 first. -/
def crc24Feed (c : BitVec 24) (w : Parcel) : BitVec 24 :=
  let n := w.toNat / 4 * 4
  BitVec.ofNat 24 ((upto 4).foldl (fun c i => crc24Byte c (n / 256 ^ i % 256)) c.toNat)

def Assay.feed (a : Assay) (w : Parcel) : Assay := if a.armed then { a with c := crc24Feed a.c w } else a
def Assay.disarm (a : Assay) : Assay := { a with armed := false }

/-! ## Waiting and retiring -/

/-- The acting context waits before issue; the pc stays (R39). -/
def State.waits (s : State) (w : Wait) : State :=
  let c := s.cx
  s.setCx { c with wait := w, waitSince := if c.wait = .no then s.clk else c.waitSince, awaited := [] }

/-- The address after the instruction. -/
def State.nextPc (s : State) : Word := s.cx.pc + BitVec.ofNat 64 s.len

/-- Retire: the pc moves to p, the assay is fed, the instruction is counted (R286, R394). -/
def State.retireTo (s : State) (p : Word) : State :=
  let c := s.cx
  (s.setCx { c with pc := p, wait := .no, assay := c.assay.feed s.ir }).pm s.th 1 c.priv

/-- Retire in sequence. -/
def State.retire (s : State) : State := s.retireTo s.nextPc

/-! ## Exceptions (R290, R293-R295) -/

/-- Trap entry of context c of thread t (R290). A TVEC that cannot be a target discards the unit. -/
def State.trapAt (s : State) (t c : Nat) (cause : Cause) (tpc taddr : Word) : State :=
  let u := s.unitAt t
  let x := u.ctxAt c
  let tvec := (s.part u.part).tvec
  if targetOk tvec then
    (s.setUnit t (u.setCtx c { x with
      tpc := tpc, tcause := cause, taddr := taddr, tctx := c, tuact := x.uact, tpprv := x.priv, tgang := u.gang
      assayT := x.assay, assay := x.assay.disarm, tpcSame := true, priv := true, pc := tvec, wait := .no
      enq := none, busy := .no })).pm t 14 x.priv
  else (((s.log u.part 5 cause tpc t u.launch 0).irq u.part 1).discard t 8)

/-- A trap of the acting context. -/
def State.trap (s : State) (cause : Cause) (tpc taddr : Word) : State := s.trapAt s.th s.ctx cause tpc taddr

/-- Upcall entry (R295). -/
def State.upcallAt (s : State) (t c : Nat) (cause : Cause) (upc uarg : Word) : State :=
  let u := s.unitAt t
  let x := u.ctxAt c
  (s.setUnit t (u.setCtx c { x with
    upc := upc, ucause := cause, uarg := uarg, x := [], uact := true, assayU := x.assay, assay := x.assay.disarm
    upcSame := true, pc := x.uvec, wait := .no, enq := none, busy := .no })).pm t 13 x.priv

/-- An upcall can be entered: UEN, no handler running, user mode (R294). -/
def Ctx.upcallable (x : Ctx) : Bool := x.uen && !x.uact && !x.priv

/-- A synchronous upcall when R294 allows it, otherwise the same cause as a trap. -/
def State.syncUpcall (s : State) (t c : Nat) (cause : Cause) (upc uarg : Word) : State :=
  let x := (s.unitAt t).ctxAt c
  if x.upcallable && targetOk x.uvec then s.upcallAt t c cause upc uarg else s.trapAt t c cause upc uarg

/-! ## Gang rollback (R52, R400, R401) -/

/-- A consumption point, B01 or D0A in context c of thread t (R400): the rollback of a gang is the machine's next step. -/
def State.consumeAt (s : State) (t c : Nat) (cause : Cause) (tpc taddr : Word) : State :=
  let u := s.unitAt t
  if u.gang && !(u.ctxAt c).priv && (s.launchAt (inPart u.part u.launch)).rolls < 2 then
    { s with agenda := s.agenda ++ [.gangRollback (inPart u.part u.launch)] }
  else s.trapAt t c cause tpc taddr

def State.consume (s : State) (cause : Cause) (taddr : Word) : State := s.consumeAt s.th s.ctx cause s.cx.pc taddr

/-- A signature fault of the acting context: disarmed, counted, then a rollback or B01 (R287). -/
def State.sigFault (s : State) (tpc taddr : Word) : State :=
  let c := s.cx
  let s := s.setCx { c with assay := c.assay.disarm }
  let s := s.modCore s.core (fun k => { k with aserr := satInc32 k.aserr })
  s.consumeAt s.th s.ctx (cz 0xB01) tpc taddr

/-- Retire of an instruction that ends a segment: Feed, compare, unarmed (R286). -/
def State.retireEnd (s : State) (p : Word) : State :=
  let c := s.cx
  if c.assay.armed then
    let a := c.assay.feed s.ir
    let s' := (s.setCx { c with pc := p, wait := .no, assay := a.disarm }).pm s.th 1 c.priv
    if a.c = a.e then s' else s'.sigFault p c.pc
  else s.retireTo p

/-! ## What an instruction raises at issue -/

/-- A trap with its TADDR, or a consumption of poison. -/
inductive Exc where
  | trap (cause : Cause) (taddr : Word)
  | consume (cause : Cause) (taddr : Word)
deriving DecidableEq, Repr

/-- The supervisor log's entry for an absent peer that an instruction names (R196, R407, R413). -/
def State.noteAbsent (s : State) (c : Cause) (a : Word) : State :=
  if c = cz 0x801 then s.log s.un.part 1 c a s.th s.un.launch ((s.peerFault s.un.part a.toNat).getD 2) else s

/-- Raise an exception of the acting context at its instruction. -/
def State.raise (s : State) : Exc → State
  | .trap c a => (s.noteAbsent c a).trap c s.cx.pc a
  | .consume c a => s.consume c a

/-- The first exception of a list of checks. -/
def firstExc : List (Bool × Exc) → Option Exc
  | [] => none
  | (b, e) :: l => if b then some e else firstExc l

/-! ## The mould of a scalar instruction (R144-R147) -/

/-- An instruction that reads sources and writes at most one result. -/
structure Scal where
  srcs : List SrcOp
  dst : Option Opd
  imm : Word
  chk : List Val → Option Exc
  res : List Val → Val

/-- Every operand named. -/
def Scal.opds (p : Scal) : List Opd := p.srcs.map (·.1) ++ p.dst.toList

/-- Why an instruction waits whose sources are not all there: on an empty register, which R55 counts, or on a link (R39, R55). -/
def State.lack (s : State) (imm : Word) (srcs : List SrcOp) : Wait :=
  if (s.srcVals imm [] (srcs.filter (fun o => match o.1 with
    | .g _ => true | .link _ => false | .x _ => false | .imm => false | .rsv _ => false))).isNone then .reg else .link

/-- General registers among the sources that hold no value. -/
def State.emptyRegs (s : State) (srcs : List SrcOp) : List Nat :=
  srcs.filterMap (fun o => match o.1 with
    | .g n => if (s.cx.reg n.toNat).head.isNone then some n.toNat else none
    | .link _ => none | .x _ => none | .imm => none | .rsv _ => none)

/-- The acting context waits for its sources. -/
def State.awaits (s : State) (imm : Word) (srcs : List SrcOp) : State :=
  let t := s.waits (s.lack imm srcs)
  t.setCx { t.cx with awaited := s.emptyRegs srcs }

/-- Sources with each link that cannot be used left out: it reads as zero, for the checks that come before D09 (R47, R147). -/
def State.usable (s : State) (srcs : List SrcOp) : List SrcOp :=
  srcs.map (fun o => if s.linksOk [o.1] then o else (.rsv 0, false))

/-- An instruction that names a link it cannot use: it waits for its other operands and for room, and D09, which no group's table lists, comes
before every cause of its own (R147, R397; DEDUCED, log 85). -/
def State.badLink (s : State) (imm : Word) (srcs : List SrcOp) (d : Option Opd) : State :=
  match s.srcVals imm [] (s.usable srcs) with
  | none => s.awaits imm (s.usable srcs)
  | some _ =>
    if !(d.all (fun o => !s.linksOk [o] || s.room srcs o)) then s.waits .link else s.trap (cz 0xD09) s.cx.pc s.cx.pc

/-- Issue: wait for operands and for a slot, raise, or take, write and retire (R58, R59, R127, R147). eff is what the
instruction does beside its result. -/
def scalarE (s : State) (p : Scal) (eff : List Val → State → State) : Out :=
  if !s.runs then .fault .noContext
  else if !s.linksOk p.opds then .next (s.badLink p.imm p.srcs p.dst)
  else match s.srcVals p.imm [] p.srcs with
    | none => .next (s.awaits p.imm p.srcs)
    | some vs =>
      if !(p.dst.all (s.room p.srcs)) then .next (s.waits .link)
      else match p.chk vs with
        | some e => .next (s.raise e)
        | none =>
          let t := s.takeAll p.srcs
          let t := match p.dst with
            | some d => t.writeDst (p.res vs) d
            | none => t
          .next ((eff vs t).retire.drain s.core)

/-- A scalar instruction with no effect but its result. -/
def scalar (s : State) (p : Scal) : Out := scalarE s p (fun _ t => t)

/-- An instruction that reads sources and then acts on the state; act includes retiring. -/
structure Ctl where
  srcs : List SrcOp
  imm : Word
  chk : List Val → Option Exc
  act : State → List Val → State

/-- Issue as in scalar, with an effect of its own. -/
def control (s : State) (p : Ctl) : Out :=
  if !s.runs then .fault .noContext
  else if !s.linksOk (p.srcs.map (·.1)) then .next (s.badLink p.imm p.srcs none)
  else match s.srcVals p.imm [] p.srcs with
    | none => .next (s.awaits p.imm p.srcs)
    | some vs => match p.chk vs with
      | some e => .next (s.raise e)
      | none => .next ((p.act (s.takeAll p.srcs) vs).drain s.core)

/-! ## Stochastic draws in issue order (R114) -/

/-- A vector or matrix instruction that draws from the LFSR. -/
def drawsSto : Instr → Bool
  | .vadd _ md _ => md.rm == .sto
  | .vsub _ md _ => md.rm == .sto
  | .vmul _ md _ => md.rm == .sto
  | .vfma _ md _ => md.rm == .sto
  | .vcvt _ md _ => md.rm == .sto
  | .vmin _ md _ => md.rm == .sto
  | .vmax _ md _ => md.rm == .sto
  | .vabs _ md _ => md.rm == .sto
  | .vneg _ md _ => md.rm == .sto
  | .vsfu _ _ md _ => md.rm == .sto
  | .vqnt _ md _ => md.rm == .sto
  | .vdq _ md _ => md.rm == .sto
  | .mdrn t => t.fn.toNat % 8 == 5
  | _ => false

/-- A vector or matrix instruction of the acting unit is still drawing. -/
def State.drawBusy (s : State) : Bool := s.un.vq.any (fun j => drawsSto j.i) || s.un.mq.any (fun j => drawsSto j.i)

/-- An instruction that draws waits until those issued before it have drawn (R114). -/
def drawing (s : State) (draws : Bool) (o : Out) : Out :=
  if s.runs && draws && s.drawBusy then .next (s.waits .unitIdle) else o

/-- Some value of the list is poisoned. -/
def anyP (vs : List Val) : Bool := vs.any (·.p)
/-- Value i of the operands read. -/
def vat (vs : List Val) (i : Nat) : Val := vs.getD i .zero
/-- First parcel's address of the acting instruction. -/
def State.ip (s : State) : Word := s.cx.pc

end Sys2Proof.Machine
end

