-- ==== Sys2Proof/Machine/Flags.lean ====
section
/-!
DEFINITION. Presence and poison as a program sees them: the words of PROBE and QOCC (R168), the queue pool (R130), and the
L4 table's value at unit start (R105). The machine keeps no condition flags.
-/
namespace Sys2Proof.Machine

/-- Landings held for register n of the acting context. -/
def State.heldFor (s : State) (n : Nat) : Nat :=
  ((s.coreAt s.core).lbuf.filter (fun l => mraCtx l.mra == s.ctx && mraReg l.mra == n)).length

/-- PROBE's word: F, P, queue mode, a held landing (R168). -/
def probeWord (r : GReg) (held : Nat) : Nat :=
  (if r.occupied then 1 else 0) +
  (if (match r.head with | some v => v.p | none => false) then 2 else 0) +
  (if r.depth != 0 then 4 else 0) + (if held != 0 then 8 else 0)

/-- QOCC's word: occupancy, depth, queue mode, held landings (R168). -/
def qoccWord (r : GReg) (held : Nat) : Nat :=
  (if r.depth = 0 then if r.f then 1 else 0 else r.q.length) + r.depth * 256 + (if r.depth != 0 then 8192 else 0) +
  held * 65536

/-- Queue entries drawn from the pool by every context of a unit (R130). -/
def UnitSt.drawn (u : UnitSt) : Nat :=
  u.ctxs.foldl (fun n e => if e.2.live then e.2.g.foldl (fun n r => n + r.2.depth) n else n) 0

/-- Entry i of the L4 table at unit start (R105): i, or i − 16, as a signed byte. -/
def l4Start (i : Nat) : Val := ⟨BitVec.ofNat 64 (if i < 8 then i else 240 + i), false⟩
/-- Entry i of the L4 table. -/
def UnitSt.l4At (u : UnitSt) (i : Nat) : Val := u.l4.get (l4Start i) i

end Sys2Proof.Machine
end

