-- ==== Sys2Proof/Machine/Block.lean ====
section
/-!
DEFINITION. Block lines (R105, R109 to R112) and the planisher: assembling a view line from compact storage and taking it
apart (R332 to R334).
-/
namespace Sys2Proof.Machine

/-! ## The layout of a block line (R109, R110) -/

/-- Byte of the scale: the element bytes come before it. -/
def scaleByte : Ty → Nat
  | .t6 => 36 | .l4 => 24 | _ => 48

/-- Byte at which outlier slot j starts. -/
def slotByte (fmt : Ty) (j : Nat) : Nat := scaleByte fmt + 1 + 3 * j

/-- First bit and width of element i. -/
def elemBits (fmt : Ty) (i : Nat) : Nat × Nat := (tyWidth fmt * i, tyWidth fmt)

/-- A line as one number, byte 0 in bits 7:0 (R2). -/
def lineNat (l : List Byte) : Nat := l.foldr (fun b n => b.toNat + 256 * n) 0
def natLine (n : Nat) (v : Nat) : List Byte := (upto n).map (fun i => BitVec.ofNat 8 (v / 256 ^ i))

def fieldOf (v lo w : Nat) : Nat := v / 2 ^ lo % 2 ^ w
def setField (v lo w x : Nat) : Nat := v - fieldOf v lo w * 2 ^ lo + x % 2 ^ w * 2 ^ lo

/-- Element code i of a line. -/
def codeAt (fmt : Ty) (v i : Nat) : Nat := fieldOf v (elemBits fmt i).1 (elemBits fmt i).2
/-- The scale byte E. -/
def scaleOf (fmt : Ty) (v : Nat) : Nat := fieldOf v (8 * scaleByte fmt) 8

/-- An outlier slot (R110). -/
structure OSlot where
  j : Nat
  idx : Nat
  v : Bool
  val : Nat
deriving DecidableEq, Repr

def slotAt (fmt : Ty) (v j : Nat) : OSlot :=
  let x := fieldOf v (8 * slotByte fmt j) 24
  ⟨j, x % 64, x.testBit 6, x / 256⟩

def slotsOf (fmt : Ty) (v : Nat) : List OSlot := (upto fmt.slots).map (slotAt fmt v)

/-- The highest valid slot that names element i (R111). -/
def outlierFor (fmt : Ty) (v i : Nat) : Option OSlot := ((slotsOf fmt v).reverse.find? (fun o => o.v && o.idx == i))

/-- A valid slot that is ignored: an index past the elements, or a higher valid slot of the same index (R111). -/
def slotIgnored (fmt : Ty) (v : Nat) (o : OSlot) : Bool :=
  o.v && (48 ≤ o.idx || (slotsOf fmt v).any (fun q => q.v && q.idx == o.idx && o.j < q.j))

/-- Format violations of a line: its ignored slots (R111). -/
def violations (fmt : Ty) (v : Nat) : Nat := ((slotsOf fmt v).filter (slotIgnored fmt v)).length

/-- x × 2^k. -/
def FV.scale (x : FV) (k : Int) : FV :=
  match x with
  | .nan => .nan
  | .inf n => .inf n
  | .zero n => .zero n
  | .fin n m e => .fin n m (e + k)

/-- The value of element i, with the L4 table's integers given by tab (R111). -/
def elemValue (fmt : Ty) (tab : Nat → Int) (v i : Nat) : FV :=
  let e := scaleOf fmt v
  if e = 255 then .nan
  else match outlierFor fmt v i with
    | some o => decodeNum .bf16 o.val
    | none =>
      let c := codeAt fmt v i
      (if fmt = .l4 then FV.ofInt (tab c) else decodeNum fmt c).scale ((e : Int) - 127)

/-- The reset table of L4 codes (R105). -/
def l4Reset (c : Nat) : Int := if c < 8 then c else (c : Int) - 16

/-- Granules of a line, of the eight, that hold its scale byte or a byte of an outlier slot (R112). -/
def blockGranule (fmt : Ty) (g : Nat) : Bool := scaleByte fmt < 8 * g + 8

/-- Granules that hold a bit of element i (R112). -/
def elemGranules (fmt : Ty) (i : Nat) : List Nat :=
  let b := elemBits fmt i
  let lo := b.1 / 64
  let hi := (b.1 + b.2 - 1) / 64
  if lo = hi then [lo] else [lo, hi]

/-- Poison of a product formed with element i, from the eight granule marks (R112). -/
def elemPoison (fmt : Ty) (marks : Nat → Bool) (i : Nat) : Bool :=
  (upto 8).any (fun g => blockGranule fmt g && marks g) || (elemGranules fmt i).any marks

/-! ## The planisher (R332, R333) -/

/-- The element format of a window. -/
def Window.ty (w : Window) : Ty := if w.fmt = 0 then .t8 else if w.fmt = 1 then .e4m3 else if w.fmt = 2 then .t6 else .l4

/-- Address of the first view line. -/
def Window.base (w : Window) : Nat := w.vbase * 65536

/-- The window and line number of a view address that an enabled window covers (R354). -/
def State.viewOf (s : State) (pa : Nat) : Option (Nat × Nat) :=
  s.windows.findSome? (fun e =>
    if e.2.en && e.2.base ≤ pa && pa < e.2.base + 64 * e.2.vlines then some (e.1, (pa - e.2.base) / 64) else none)

/-- The number of a line of host memory, beside those of device memory. -/
def hostLine (hpa : Nat) : Nat := hpa / 64 + 2 ^ 60
/-- The line is one of host memory. -/
def isHostLine (ln : Nat) : Bool := 2 ^ 60 ≤ ln
/-- The memory that a line belongs to, and its number there; a host line's marks are those that it has in the package. -/
def State.memOf (s : State) (ln : Nat) : PMem := if isHostLine ln then s.hostMem else s.mem
def State.setMemOf (s : State) (ln : Nat) (m : PMem) : State := if isHostLine ln then { s with hostMem := m } else { s with mem := m }
def ownLine (ln : Nat) : Nat := if isHostLine ln then ln - 2 ^ 60 else ln

/-- A hallmark mismatch on each listed line: all its poison bits, a count, a log entry (R327, R392). -/
def State.verify (s : State) (who : Option Nat) (block : Nat) (lines : List Nat) : State :=
  lines.foldl (fun s ln =>
    let k := ownLine ln
    if ((s.memOf ln).hall.any (·.1 == k)) && (s.memOf ln).markBad k then
      let s := s.setMemOf ln ((s.memOf ln).poisonLine k)
      let s : State := { s with pkgLog := s.pkgLog ++ [(64 * k, block)] }
      match who with
      | some p => (s.modPart p (fun e => { e with hmerr := satInc 48 e.hmerr })).log p 8 0 (BitVec.ofNat 64 (64 * k)) 0 0 block
      | none => s
    else s) s

/-- As verify, for those of n bytes from a of device memory that keep a hallmark of their own. -/
def State.verifyRun (s : State) (who : Option Nat) (block a n : Nat) : State :=
  s.verify who block ((s.mem.hall.filter (fun e => a ≤ 64 * e.1 && 64 * e.1 < a + n)).map (·.1))

/-- The compact bytes of view line n: elements, scale, and the slots the window keeps (R332). -/
def Window.compact (w : Window) (n : Nat) : List (Nat × Nat × Nat) :=
  let b := scaleByte w.ty
  (0, w.ebase + n * b, b) :: (b, w.sbase + n, 1) ::
    (if w.k = 0 then [] else [(b + 1, w.obase + 3 * w.k * n, 3 * w.k)])

/-- Assemble view line n of window w; the SPARE bit of a slot is written 0 (R110, R332). -/
def State.assemble (s : State) (wi n : Nat) : State :=
  let w := s.window wi
  let at_ := w.base + 64 * n
  let s := s.verify (some w.part) 4 ((w.compact n).flatMap (fun c => linesOf c.2.1 c.2.2))
  let src : List (Byte × Bool) := (w.compact n).flatMap (fun c =>
    let l := s.mem.runAt c.2.1 c.2.2
    if c.1 = scaleByte w.ty + 1 then (l.zip (upto l.length)).map (fun e => (if e.2 % 3 = 0 then e.1.1 &&& 0x7F else e.1.1, e.1.2)) else l)
  let line := src ++ (upto (64 - src.length)).map (fun _ => (0#8, false))
  { s with mem := s.mem.writeRun at_ line, views := s.views.set (at_ / 64) ⟨false⟩ }

/-- A magnitude for the fold order, NaN largest. -/
def foldLess (x y : OSlot) : Bool :=
  let a := (decodeNum .bf16 x.val).abs
  let b := (decodeNum .bf16 y.val).abs
  if a.isNan then b.isNan && y.j < x.j
  else if b.isNan then true
  else a.lt b || (!(b.lt a) && y.j < x.j)

/-- The slot folded first: least magnitude, ties to the higher slot (R333). -/
def foldPick : List OSlot → Option OSlot
  | [] => none
  | o :: l => match foldPick l with
    | none => some o
    | some q => if foldLess o q then some o else some q

/-- The code of a table of 16 integers that is nearest to a finite value, ties to the lower code (R220). -/
def nearestCode (tab : Nat → Int) (x : FV) : Nat :=
  let dist (c : Nat) : FV := (x.add false (FV.ofInt (-(tab c)))).abs
  (upto 16).foldl (fun best c => if (dist c).lt (dist best) then c else best) 0

/-- The L4 code nearest to a value in the reset table (R333). -/
def nearestL4 (x : FV) : Nat :=
  match x with
  | .nan => Config.l4OfNan.toNat
  | .inf n => if n then 8 else 7
  | .zero n => nearestCode l4Reset (.zero n)
  | .fin n m e => nearestCode l4Reset (.fin n m e)

/-- The code an outlier folds to (R333 step 3). -/
def foldCode (fmt : Ty) (e val : Nat) : Nat :=
  let x := (decodeNum .bf16 val).scale (127 - (e : Int))
  if fmt = .l4 then nearestL4 x else roundNum fmt ⟨.rne, true⟩ 0 x

/-- Fold n slots into the elements; answers the line, the marks of its bytes, and the slots left. -/
def foldSlots (fmt : Ty) (v : Nat) (marks : List Bool) : Nat → List OSlot → Nat × List Bool × List OSlot
  | 0, l => (v, marks, l)
  | n + 1, l =>
    match foldPick l with
    | none => (v, marks, l)
    | some o =>
      let b := elemBits fmt o.idx
      let v' := setField v b.1 b.2 (foldCode fmt (scaleOf fmt v) o.val)
      let p := (upto 3).any (fun i => marks.getD (slotByte fmt o.j + i) false)
      let hit (i : Nat) : Bool := b.1 / 8 ≤ i && i ≤ (b.1 + b.2 - 1) / 8
      let marks' := (upto 64).map (fun i => marks.getD i false || (p && hit i))
      foldSlots fmt v' marks' n (l.filter (·.j != o.j))

/-- Take a dirty view line apart and write it to compact storage (R333). -/
def State.disassemble (s : State) (wi n : Nat) : State :=
  let w := s.window wi
  let fmt := w.ty
  let at_ := w.base + 64 * n
  let s := s.verify (some w.part) 4 [at_ / 64]
  let run := s.mem.runAt at_ 64
  let v := lineNat (run.map (·.1))
  let live := if scaleOf fmt v = 255 then [] else (slotsOf fmt v).filter (fun o => o.v && !slotIgnored fmt v o)
  let folds := live.length - w.k
  let r := foldSlots fmt v (run.map (·.2)) folds live
  let bytes := natLine 64 r.1
  let mark (i : Nat) : Bool := r.2.1.getD i false
  let piece (a n : Nat) : List (Byte × Bool) := (upto n).map (fun i => (bytes.getD (a + i) 0, mark (a + i)))
  let slots : List (Byte × Bool) := (r.2.2.take w.k).flatMap (fun o =>
    match piece (slotByte fmt o.j) 3 with
    | (x, p) :: rest => (x &&& 0x7F, p) :: rest
    | [] => [])
  let slots := slots ++ (upto (3 * w.k - slots.length)).map (fun _ => (0#8, false))
  let b := scaleByte fmt
  let m := ((s.mem.writeRun (w.ebase + n * b) (piece 0 b)).writeRun (w.sbase + n) (piece b 1)).writeRun
    (w.obase + 3 * w.k * n) slots
  { s with
    mem := m
    windows := s.windows.set wi { w with fold := min (2 ^ 48 - 1) (w.fold + folds) } }

/-- Drop view line n of window w, taking it apart first when it is dirty (R333). Its copies in the L2 go with it, a dirty one verified on its
way: R334 says so where a window is disabled, and for an eviction alone it is the model's choice (DESIGN CHOICE, log 16). -/
def State.dropView (s : State) (wi n : Nat) : State :=
  let k := ((s.window wi).base + 64 * n) / 64
  match s.views.find? (·.1 == k) with
  | none => s
  | some e =>
    let s := if s.l2.any (fun l => l.pa == k && l.dirty) then s.verify (some (s.window wi).part) 0 [k] else s
    let s := if e.2.dirty then s.disassemble wi n else s
    { s with views := s.views.del k, mem := s.mem.clear (64 * k) 64, l2 := s.l2.filter (fun l => l.pa != k)
             stk := s.stk.filter (fun l => l.line != k) }

/-- Make sure that the view lines among n bytes from pa are assembled (R332). -/
def State.touchView (s : State) (pa n : Nat) : State :=
  (linesOf pa n).foldl (fun s k =>
    match s.viewOf (64 * k) with
    | some (w, j) => if s.views.any (·.1 == k) then s else s.assemble w j
    | none => s) s

/-- Note a write to view lines (R333). -/
def State.dirtyView (s : State) (pa n : Nat) : State :=
  (linesOf pa n).foldl (fun s k =>
    if s.views.any (·.1 == k) then { s with views := s.views.set k ⟨true⟩ } else s) s

end Sys2Proof.Machine
end

