-- ==== Sys2Proof/Machine/Tables.lean ====
section
/-!
DEFINITION. The tables that lie in memory and the address translation they give (R321, R323, R336 to R343, R349 to R355).
-/
namespace Sys2Proof.Machine

/-! ## Physical memory (R323, R324) -/

def gddrStep : Nat := 0x150000000
def carveBase : Nat := 0x4000000000
def carveStep : Nat := 0x10000000
def viewBase : Nat := 0x8000000000
def mmioBase : Nat := 0x10000000000
def mmioEnd : Nat := 0x10100000000

/-- n bytes from pa lie in backed GDDR7 or in a backed carve-out step (R323). -/
def State.stored (s : State) (pa n : Nat) : Bool :=
  pa + n ≤ s.gdev * gddrStep || (carveBase ≤ pa && pa + n ≤ carveBase + s.carve * carveStep)

/-- How far the enabled windows cover the view space from a on, up to e; at most n of them follow one another (R354). -/
def State.viewReach (s : State) (a e : Nat) : Nat → Nat
  | 0 => a
  | n + 1 =>
    if e ≤ a then a
    else match s.windows.find? (fun w => w.2.en && w.2.base ≤ a && a < w.2.base + 64 * w.2.vlines) with
      | some w => s.viewReach (w.2.base + 64 * w.2.vlines) e n
      | none => a

/-- Every view line among n bytes from pa belongs to an enabled window (R323, R354). -/
def State.viewBacked (s : State) (pa n : Nat) : Bool := pa + n ≤ s.viewReach pa (pa + n) 64

/-- A local frame of n bytes is backed (R323). -/
def State.backed (s : State) (pa n : Nat) : Bool := s.stored pa n || s.viewBacked pa n

def inCarve (pa : Nat) : Bool := carveBase ≤ pa && pa < carveBase + 48 * carveStep

/-! ## Cores and slots (R11, R12, R43, R349, R355) -/

/-- Physical cluster of logical cluster n; a map entry that bring-up has not written is the identity (R355). -/
def State.physCluster (s : State) (n : Nat) : Nat := s.cmap.get n n
/-- Physical number of logical core k (R349). -/
def State.physCore (s : State) (k : Nat) : Nat := 64 * s.physCluster (k / 64) + k % 64
def slotBlank : Slot := ⟨0, 0, 0, 0, 0, 0, 0, 0, false, false, false⟩
/-- The slot of logical core k. -/
def State.slotOf (s : State) (k : Nat) : Slot := s.slots.get slotBlank (s.physCore k)
/-- The quadrant of physical core k holds victim frames (R329). -/
def State.holdsFrames (s : State) (k : Nat) : Bool := s.frames.any (fun e => e.1 / 48 == k / 16 && e.2.used)
/-- Core k is bound to partition p, and its quadrant holds no victim frames (R320, R349). -/
def State.boundTo (s : State) (k p : Nat) : Bool :=
  let c := s.slotOf k
  c.v && c.part == p && k / 64 < s.nclus && !s.holdsFrames (s.physCore k)

/-! ## L2 slices (R321, R322) -/

def xorByte (v i : Nat) : Nat := v / 256 ^ i % 256

/-- The hash of R321. -/
def sliceHash (asid va : Nat) : Nat :=
  let v := va / 4096 % 2 ^ 45
  xorByte v 0 ^^^ xorByte v 1 ^^^ xorByte v 2 ^^^ xorByte v 3 ^^^ xorByte v 4 ^^^ xorByte v 5 ^^^ xorByte asid 0 ^^^
    xorByte asid 1

/-- Physical clusters present, ascending (R355). -/
def State.physList (s : State) : List Nat := (upto s.nclus).foldl (fun l n => setIns (s.physCluster n) l) []

/-- Clusters with a core bound to a partition, by physical number (R321). -/
def State.clustersOf (s : State) (p : Nat) : List Nat :=
  s.slots.foldl (fun l e => if e.2.v && e.2.part == p then setIns (e.1 / 64) l else l) []

/-- The slice list: all slices, or those beside the partition's clusters in private mode; four beside each cluster (R321). -/
def State.sliceList (s : State) (p : Nat) : List Nat :=
  (if s.l2Priv then s.clustersOf p else s.physList).flatMap (fun c => [4 * c, 4 * c + 1, 4 * c + 2, 4 * c + 3])

/-- The slice that serves va (R321). -/
def State.sliceOf (s : State) (p asid va : Nat) : Nat :=
  let l := s.sliceList p
  l.getD (sliceHash asid va % l.length) 0

/-! ## The address-space table (R337) -/

/-- Entry of an address space, as one number of 512 bits. -/
def State.asEntry (s : State) (asid : Nat) : Nat := s.mem.read (s.asBase + 64 * asid) 64
/-- A reserved bit of an entry is set (R4, R337). -/
def asRsv (e : Nat) : Bool := e / 2 ^ 256 != 0 || fieldOf e 141 51 != 0 || fieldOf e 52 12 != 0 || fieldOf e 5 7 != 0
/-- The entry is poisoned, or holds a reserved bit (R4, R404). -/
def State.asBad (s : State) (asid : Nat) : Bool := s.mem.anyPoison (s.asBase + 64 * asid) 64 || asRsv (s.asEntry asid)
def State.asValid (s : State) (asid : Nat) : Bool := (s.asEntry asid).testBit 0 && !s.asBad asid
def State.asPart (s : State) (asid : Nat) : Nat := fieldOf (s.asEntry asid) 1 4
def State.asRoot (s : State) (asid : Nat) : Nat := fieldOf (s.asEntry asid) 12 40 * 4096
def State.asStab (s : State) (asid : Nat) : Nat := fieldOf (s.asEntry asid) 64 64
def State.asScnt (s : State) (asid : Nat) : Nat := fieldOf (s.asEntry asid) 128 13
def State.asStgt (s : State) (asid : Nat) : Nat := fieldOf (s.asEntry asid) 192 64

/-! ## Page tables (R338 to R341) -/

/-- A page size code's size in bytes (R339). -/
def pageSize (psz : Nat) : Nat :=
  match psz with
  | 0 => 0x1000 | 1 => 0x4000 | 2 => 0x10000 | 3 => 0x40000 | 4 => 0x200000 | 5 => 0x1000000 | 6 => 0x8000000
  | _ => 0x40000000

/-- Page sizes allowed for a leaf at a level (R338). -/
def leafAllowed (level psz : Nat) : Bool :=
  match level with
  | 0 => psz ≤ 3
  | 1 => 4 ≤ psz && psz ≤ 6
  | 2 => psz == 7
  | _ => false

/-- What a walk finds. -/
inductive Walk where
  | page (t : Trans)
  | hostPage (t : Trans)      -- a host-delegated leaf whose address the host has yet to translate (R428)
  | notValid (pte : Nat)      -- 501, with the address of the entry
  | invalid                   -- 506
deriving DecidableEq, Repr

def pteBit (e i : Nat) : Bool := e.testBit i

/-- A leaf's translation, or 506 where R340 calls it invalid. -/
def State.leaf (s : State) (part asid va level e : Nat) : Walk :=
  let psz := fieldOf e 52 3
  let size := pageSize psz
  let aper := fieldOf e 9 3
  let mt := fieldOf e 55 2
  let frame := fieldOf e 12 40 * 4096
  let bad := !leafAllowed level psz || 4 ≤ aper || mt == 3 || fieldOf e 57 7 != 0 ||
    (aper == 3 && (mt != 2 || frame < mmioBase || mmioEnd < frame + size)) ||
    (aper == 0 && (frame % size != 0 || !s.backed frame size)) ||
    (aper == 1 && frame != 0) || (aper == 2 && fieldOf e 22 30 != 0)
  let t : Trans :=
    { slice := 0, part := part, asid := asid, glob := pteBit e 8, base := va / size * size, size := size, aper := aper
      frame := if aper == 2 then fieldOf e 12 10 else frame, mt := mt, et := pteBit e 7, rap := pteBit e 6
      atm := pteBit e 5, x := pteBit e 4, w := pteBit e 3, rd := pteBit e 2 }
  if bad then .invalid else if aper == 1 then .hostPage t else .page t

/-- Walk from a table at one level; level + 1 levels are left (R338, R340). -/
def State.walkFrom (s : State) (part asid va table : Nat) : Nat → Walk
  | 0 => .invalid
  | level + 1 =>
    let pte := table + 8 * (va / 2 ^ (12 + 9 * level) % 512)
    let e := s.mem.read pte 8
    if s.mem.anyPoison pte 8 then .invalid
    else if !e.testBit 0 then .notValid pte
    else if e.testBit 1 then s.leaf part asid va level e
    else if level = 0 || fieldOf e 2 10 != 0 || fieldOf e 52 12 != 0 then .invalid
    else s.walkFrom part asid va (fieldOf e 12 40 * 4096) level

/-- PART of an address-space entry is read-only to software: of n bytes written from pa, bits 4:1 of byte 0 of an entry keep what they held in
the state before (R337). -/
def State.keepPart (old : State) (pa n : Nat) (s : State) : State :=
  if pa + n ≤ old.asBase || old.asBase + 64 * 65536 ≤ pa then s
  else (linesOf pa n).foldl (fun s k =>
    let a := 64 * k
    let b := Memory.byte s.mem.bytes a
    let was := Memory.byte old.mem.bytes a
    if a < pa || a < old.asBase || (b ^^^ was) &&& 0x1E#8 = 0 then s
    else { s with mem := { s.mem with bytes := Memory.setByte s.mem.bytes a ((b &&& 0xE1#8) ||| (was &&& 0x1E#8)) } }) s

/-- A fresh walk of the page tables of an address space (R337, R338, R404). -/
def State.walk (s : State) (asid va : Nat) : Walk :=
  if s.asBad asid then .invalid
  else if !(s.asEntry asid).testBit 0 then .invalid
  else s.walkFrom (s.asPart asid) asid (va % 2 ^ 57) (s.asRoot asid) 5

/-- A held translation serves an address (R339 G, R341). -/
def Trans.serves (t : Trans) (part asid va : Nat) : Bool :=
  (t.asid == asid || (t.glob && t.part == part)) && t.base ≤ va && va < t.base + t.size

/-- Translate: the slice's translation cache, else a walk (R321, R338). -/
def State.translate (s : State) (asid va : Nat) : Walk :=
  let va := va % 2 ^ 57
  let p := s.asPart asid
  let k := s.sliceOf p asid va
  match s.tcs.find? (fun t => t.slice == k && t.serves p asid va) with
  | some t => .page t
  | none => s.walk asid va

/-- A fresh walk meets a poisoned entry (R404). -/
def State.walkPoison (s : State) (va table : Nat) : Nat → Bool
  | 0 => false
  | level + 1 =>
    let pte := table + 8 * (va / 2 ^ (12 + 9 * level) % 512)
    let e := s.mem.read pte 8
    s.mem.anyPoison pte 8 || (e.testBit 0 && !e.testBit 1 && s.walkPoison va (fieldOf e 12 40 * 4096) level)

/-- A walk that gives 506 for poison logs the table: 0 the address spaces, 1 the page tables (R404). -/
def State.logWalk (s : State) (part asid va : Nat) : State :=
  if s.translate asid va != .invalid then s
  else if s.mem.anyPoison (s.asBase + 64 * asid) 64 then s.logTable part 0
  else if s.asValid asid && s.walkPoison (va % 2 ^ 57) (s.asRoot asid) 5 then s.logTable part 1
  else s

/-- An address-space entry that turns a unit away for poison is logged (R337, R404). -/
def State.logSpace (s : State) (part asid : Nat) : State :=
  if s.mem.anyPoison (s.asBase + 64 * asid) 64 then s.logTable part 0 else s

/-- Keep a translation in the slice's cache of 4,096 entries (R321, R341). -/
def State.keepTrans (s : State) (asid va : Nat) (t : Trans) : State :=
  let va := va % 2 ^ 57
  let k := s.sliceOf t.part asid va
  if s.tcs.any (fun u => u.slice == k && u.serves t.part asid va) then s
  else
    let here := s.tcs.filter (·.slice == k)
    let tcs := if here.length < 4096 then s.tcs else dropFirst (·.slice == k) s.tcs
    { s with tcs := tcs ++ [{ t with slice := k }] }

/-- A host-delegated leaf with what the host has answered for va, under both sides' permissions: one entry of the largest page size that
the answer covers, and that the leaf covers (R428, log 45). -/
def Trans.fromHost (t : Trans) (va hpa lg : Nat) (rd w : Bool) : Trans :=
  let size := ((upto 8).map pageSize).foldl (fun m n => if n ≤ min t.size (2 ^ lg) then n else m) 0x1000
  { t with base := va % 2 ^ 57 / size * size, size := size, frame := hpa / size * size, rd := t.rd && rd, w := t.w && w }

/-- What the host answers for a page that it has yet to translate is kept. -/
def State.keepHost (s : State) (asid va : Nat) (ans : HostAns) : State :=
  match s.translate asid va, ans with
  | .hostPage t, .translated hpa lg rd w => s.keepTrans asid va (t.fromHost va hpa lg rd w)
  | _, _ => s

/-- Physical address of va under a translation. -/
def Trans.pa (t : Trans) (va : Nat) : Nat := t.frame + (va % 2 ^ 57 - t.base)

/-- A line that the package's own hardware reads comes from GDDR7 to its home controller, and is verified on the way; the carve-out is
storage in its own right, and a line that the stacked SRAM holds makes no move. A mismatch is counted by the partition whose access needs
the line, and by none where no access does (R325, R327, R340, R392). -/
def State.homeRead (s : State) (who : Option Nat) (pa : Nat) : State :=
  if s.mem.hall.isEmpty || inCarve pa || s.stk.any (·.line == pa / 64) then s else s.verify who 1 [pa / 64]

/-- The entries that a walk reads from a table at one level on, brought to their homes one after another (R340). -/
def State.walkReads (s : State) (who : Option Nat) (va table : Nat) : Nat → State
  | 0 => s
  | level + 1 =>
    let pte := table + 8 * (va / 2 ^ (12 + 9 * level) % 512)
    let s := s.homeRead who pte
    let e := s.mem.read pte 8
    if s.mem.anyPoison pte 8 || !e.testBit 0 || e.testBit 1 then s else s.walkReads who va (fieldOf e 12 40 * 4096) level

/-- The walk that a read or write at va needs, when no cache holds its translation, moves the entries that it reads (R327, R338). -/
def State.walkCome (s : State) (who : Option Nat) (asid va : Nat) : State :=
  if s.mem.hall.isEmpty then s
  else
    let va := va % 2 ^ 57
    let p := s.asPart asid
    let k := s.sliceOf p asid va
    if s.tcs.any (fun t => t.slice == k && t.serves p asid va) then s
    else
      let s := s.homeRead who (s.asBase + 64 * asid)
      if s.asBad asid || !(s.asEntry asid).testBit 0 then s else s.walkReads who va (s.asRoot asid) 5

/-- As walkCome, for an access of the address space (R392). -/
def State.sigWalk (s : State) (asid va : Nat) : State := s.walkCome (some (s.asPart asid)) asid va

/-- Drop every cached translation that a predicate picks. -/
def State.purge (s : State) (f : Trans → Bool) : State := { s with tcs := s.tcs.filter (fun t => !f t) }

/-- The page has yet to be translated by the host. -/
def State.untold (s : State) (asid va : Nat) : Bool :=
  match s.translate asid va with | .hostPage _ => true | .page _ => false | .notValid _ => false | .invalid => false

/-- The host has refused a page: an unheld translation gives 602 (R428). -/
def State.hostRefused (s : State) (part asid va : Nat) : Bool :=
  (s.part part).priFail || s.priRefused.any (fun e => e.1 == part && e.2.1 == asid && e.2.2.toNat / 4096 == va % 2 ^ 57 / 4096)

/-! ## Reads and writes through an address space by the hardware itself (R342, R343, R374, R376) -/

/-- A hardware agent's access to n bytes at va, which do not cross a page: local and host memory only. -/
inductive VAcc where
  | dev (pa : Nat)
  | host (pa : Nat)
  | no (cause : Nat) (arg : Nat)    -- cause in hex digits; the entry of a 501, the peer of an 801
deriving DecidableEq, Repr

/-- The translation that a hardware reader meets: for a page that the host has yet to translate, what the host answers when it is asked
now, a free value (R428; log 18). -/
def State.asked (s : State) (asid va : Nat) : Walk :=
  match s.translate asid va with
  | .hostPage t => match Config.hostAnswer s.clk asid va with
    | .translated hpa lg rd w => .page (t.fromHost va hpa lg rd w)
    | .notPresent => .hostPage t
    | .denied => .invalid
  | .page t => .page t
  | .notValid pte => .notValid pte
  | .invalid => .invalid

/-- Where a hardware agent's access lands, or the cause it would raise. A peer-aperture leaf gives 801 for an absent peer, and is refused
with 506 otherwise: a table lies in the chip's own or the host's memory (DEDUCED, log 18). -/
def State.vaAt (s : State) (asid va : Nat) (write : Bool) : VAcc :=
  match s.asked asid va with
  | .notValid pte => .no 0x501 pte
  | .invalid => .no (match s.translate asid va with | .hostPage _ => 0x602 | .page _ => 0x506 | .notValid _ => 0x506 | .invalid => 0x506) 0
  | .hostPage _ => .no 0x601 0
  | .page t =>
    if write && !t.w then .no 0x503 0
    else if !write && !t.rd then .no 0x502 0
    else match t.aper with
      | 0 => .dev (t.pa va)
      | 1 => .host (t.pa va)
      | 2 => if (s.peerFault (s.asPart asid) t.frame).isSome then .no 0x801 t.frame else .no 0x506 0
      | _ => .no 0x406 0

/-- n bytes that a hardware agent is to read come to their homes, with the entries that the walk to them reads (R327, R340, R392). -/
def State.vcome (s : State) (who : Option Nat) (asid va n : Nat) : State :=
  if s.mem.hall.isEmpty then s
  else
    let s := s.walkCome who asid va
    match s.vaAt asid va false with
    | .dev pa => (linesOf pa n).foldl (fun s ln => s.homeRead who (64 * ln)) s
    | .host _ => s | .no _ _ => s

/-- Read n bytes through an address space: the value and its poison. -/
def State.vread (s : State) (asid va n : Nat) : Option (Nat × Bool) :=
  match s.vaAt asid va false with
  | .dev pa => some (s.mem.read pa n, s.mem.anyPoison pa n)
  | .host pa => some (s.hostMem.read pa n, s.hostMem.anyPoison pa n)
  | .no _ _ => none

/-- Write n bytes through an address space. -/
def State.vwrite (s : State) (asid va n v : Nat) (p : Bool) : State :=
  match s.vaAt asid va true with
  | .dev pa => s.keepPart pa n { s with mem := s.mem.write pa n v p }
  | .host pa => { s with hostMem := s.hostMem.write pa n v p }
  | .no _ _ => s

/-! ## Shard maps (R190, R342, R343) -/

/-- The fields of a shard map. -/
structure SMap where
  st : Nat
  rank : Nat
  esz : Nat
  cyclic : Bool
  ext : List Nat
  blk : List Nat
  grid : List Nat
  plist : Nat
  clean : Bool        -- reserved bits zero, extents, blocks and grids at least 1 (R342)
deriving DecidableEq, Repr

def SMap.ofNat (e : Nat) : SMap :=
  let rank := fieldOf e 2 2 + 1
  let ext := (upto rank).map (fun d => fieldOf e (128 + 32 * d) 32)
  let blk := (upto rank).map (fun d => fieldOf e (256 + 32 * d) 32)
  let grid := (upto rank).map (fun d => fieldOf e (384 + 16 * d) 16)
  { st := e % 4, rank := rank, esz := 2 ^ fieldOf e 4 2, cyclic := e.testBit 6, ext := ext, blk := blk, grid := grid
    plist := fieldOf e 448 64
    clean := fieldOf e 7 121 == 0 && ext.all (0 < ·) && blk.all (0 < ·) && grid.all (0 < ·) }

/-- Shard map i of an address space, when it can be read and is not poisoned (R342, R404). -/
def State.smap (s : State) (asid i : Nat) : Option SMap :=
  match s.vread asid (s.asStab asid + 64 * i) 64 with
  | some (e, false) => some (.ofNat e)
  | some (_, true) => none
  | none => none

/-- State of a map on this chip (R343). -/
inductive SMapSt where
  | frozen | valid (m : SMap) | invalid
deriving DecidableEq, Repr

def State.smapSt (s : State) (asid i : Nat) : SMapSt :=
  if s.frozen.contains (asid, i) then .frozen
  else if s.asScnt asid ≤ i then .invalid
  else match s.smap asid i with
    | some m => if m.st == 1 && m.clean then .valid m else .invalid
    | none => .invalid

/-- Per dimension: grid index g, index y within the shard, the shard's extent (R190 step 5). -/
def shardDim (cyclic : Bool) (ext blk grid c : Nat) : Nat × Nat × Nat :=
  let nb := (ext + blk - 1) / blk
  let bi := c / blk
  let o := c % blk
  let l := (nb + grid - 1) / grid
  if cyclic then (bi % grid, bi / grid * blk + o, l * blk) else (bi / l, bi % l * blk + o, l * blk)

/-- Row-major index, the last dimension innermost. -/
def rowMajor (idx ext : List Nat) : Nat := (idx.zip ext).foldl (fun n e => n * e.2 + e.1) 0

/-- The shard of a coordinate tuple and the element's index in it (R190 step 5). -/
def SMap.locate (m : SMap) (c : List Nat) : Nat × Nat :=
  let l := (upto m.rank).map (fun d => shardDim m.cyclic (m.ext.getD d 1) (m.blk.getD d 1) (m.grid.getD d 1) (c.getD d 0))
  (rowMajor (l.map (·.1)) m.grid, rowMajor (l.map (·.2.1)) (l.map (·.2.2)))

/-- What resolving a sharded access gives. -/
inductive Resolved where
  | trap (cause : Nat) (taddr : Word)
  | frozen
  | to (peer : Nat) (va : Word)
deriving DecidableEq, Repr

/-- The first dimension whose coordinate is at or beyond its extent. -/
def SMap.outside (m : SMap) (c : List Nat) : Option Nat := (upto m.rank).find? (fun d => m.ext.getD d 1 ≤ c.getD d 0)

/-- Steps 1 to 5 of R190 for a map in a given state. -/
def State.resolveIn (s : State) (st : SMapSt) (asid i : Nat) (c : List Nat) (nc : Bool) (size : Nat) : Resolved :=
  match st with
  | .invalid => .trap 0x702 (BitVec.ofNat 64 i)
  | .frozen => .frozen
  | .valid m =>
    if 3 ≤ m.rank && !nc then .trap 0x703 (BitVec.ofNat 64 i)
    else if size != m.esz then .trap 0x704 (BitVec.ofNat 64 i)
    else match m.outside c with
      | some d => .trap 0x701 (BitVec.ofNat 64 d)
      | none =>
        let l := m.locate c
        match s.vread asid (m.plist + 16 * l.1) 16 with
        | some (e, false) =>
          if fieldOf e 10 54 != 0 then .trap 0x702 (BitVec.ofNat 64 i)
          else .to (fieldOf e 0 10) (BitVec.ofNat 64 (fieldOf e 64 64 + m.esz * l.2))
        | some (_, true) => .trap 0x702 (BitVec.ofNat 64 i)
        | none => .trap 0x702 (BitVec.ofNat 64 i)

/-- Resolve a sharded access on this chip (R190). -/
def State.resolve (s : State) (asid i : Nat) (c : List Nat) (nc : Bool) (size : Nat) : Resolved :=
  if 4096 ≤ i then .trap 0x702 (BitVec.ofNat 64 i) else s.resolveIn (s.smapSt asid i) asid i c nc size

/-- The entry of a map, and the placement entry that a coordinate tuple picks, come to their homes (R190, R327, R342, R392). -/
def State.mapCome (s : State) (asid i : Nat) (c : List Nat) : State :=
  if s.mem.hall.isEmpty || s.frozen.contains (asid, i) || s.asScnt asid ≤ i then s
  else
    let who := some (s.asPart asid)
    let s := s.vcome who asid (s.asStab asid + 64 * i) 64
    match s.smapSt asid i with
    | .valid m => if c.isEmpty || (m.outside c).isSome then s else s.vcome who asid (m.plist + 16 * (m.locate c).1) 16
    | .frozen => s | .invalid => s

/-- Bytes that an address space reads are poisoned. -/
def State.vpoison (s : State) (asid va n : Nat) : Bool := match s.vread asid va n with | some e => e.2 | none => false

/-- The 702 of a map comes from poison, in its entry or in the placement entry that a coordinate tuple picks (R404). -/
def State.mapPoison (s : State) (asid i : Nat) (c : List Nat) : Bool :=
  i < s.asScnt asid && (s.vpoison asid (s.asStab asid + 64 * i) 64 ||
    match s.smapSt asid i with
    | .valid m => s.vpoison asid (m.plist + 16 * (m.locate c).1) 16
    | .frozen => false
    | .invalid => false)

/-- A 702 for poison logs table 2 (R404). -/
def State.logMap (s : State) (part asid i : Nat) (c : List Nat) : State :=
  if s.mapPoison asid i c then s.logTable part 2 else s

/-! ## Tile-buffer states (R351, R352) -/

/-- Bytes a .. a + n − 1 meet a descriptor's block. -/
def Buf.meets (b : Buf) (a n : Nat) : Bool := b.v && b.base < a + n && a < b.base + 2 ^ (b.size + 8)

/-- What a state permits (R352). -/
def bufPermits (st : BufState) (owner write : Bool) : Bool :=
  match st with
  | .empty => false
  | .filling => owner || write
  | .full => !write
  | .draining => !write

/-- An access of n bytes at a is permitted by every descriptor of the unit that meets it (R351, R352). -/
def UnitSt.permits (u : UnitSt) (a n : Nat) (owner write : Bool) : Bool :=
  u.bufs.all (fun e => !e.2.meets a n || bufPermits e.2.st owner write)

/-- The unit whose descriptors govern core k's local store: the unit it runs (R352). -/
def State.lsPermits (s : State) (k t a n : Nat) (write : Bool) : Bool :=
  let o := (s.coreAt k).thread
  (s.coreAt k).st == .idle || (s.unitAt o).permits a n (o == t) write

/-- A local store as a memory, with its snapshot taken first inside a gang superstep (R51). -/
def State.lsOf (s : State) (k : Nat) : PMem := (s.coreAt k).ls
def State.setLs (s : State) (k : Nat) (m : PMem) : State := s.modCore k (fun c => { c with ls := { m with fresh := [] } })

end Sys2Proof.Machine
end

