-- ==== Sys2Proof/Machine/Csr.lean ====
section
/-!
DEFINITION. The control and status registers and the counters behind them (R141 to R143, R388, R391, R394), as reads and
writes by number.
-/
namespace Sys2Proof.Machine

/-- What a mode may do with a register (R142). -/
inductive CsrAcc where
  | no | ro | rw
deriving DecidableEq, Repr

/-- The registers that R142 and R388 list: user access, supervisor access. -/
def csrAcc (n : Nat) : Option (CsrAcc × CsrAcc) :=
  match n with
  | 0x001 => some (.ro, .ro)
  | 0x002 => some (.ro, .ro)
  | 0x003 => some (.ro, .ro)
  | 0x010 => some (.rw, .rw)
  | 0x020 => some (.rw, .rw)
  | 0x021 => some (.ro, .rw)
  | 0x022 => some (.ro, .rw)
  | 0x023 => some (.rw, .rw)
  | 0x024 => some (.rw, .rw)
  | 0x030 => some (.no, .rw)
  | 0x031 => some (.no, .rw)
  | 0x032 => some (.no, .rw)
  | 0x033 => some (.no, .rw)
  | 0x034 => some (.no, .rw)
  | 0x035 => some (.no, .rw)
  | 0x036 => some (.no, .ro)
  | 0x180 => some (.no, .rw)
  | 0x181 => some (.no, .ro)
  | _ =>
    if 0x100 ≤ n && n < 0x104 then some (.ro, .rw)
    else if 0x110 ≤ n && n < 0x114 then some (.no, .rw)
    else if 0x120 ≤ n && n < 0x164 then some (.ro, .ro)
    else if (0x1C0 ≤ n && n < 0x1C4) || (0x1C8 ≤ n && n < 0x1CC) then some (.rw, .rw)
    else none

/-- DEVCFG (R13). -/
def State.devcfg (s : State) : Word :=
  BitVec.ofNat 64 (s.peer % 1024 * 2 ^ 48 + s.carve % 64 * 2 ^ 42 + s.gdev % 64 * 2 ^ 36 + s.dies % 16 * 2 ^ 32 +
    s.nclus % 256 * 2 ^ 24 + Config.silicon.toNat * 2 ^ 16 + s.partNo % 2 ^ 16)

/-- CTXINFO of the acting context (R143). -/
def State.ctxinfo (s : State) : Word :=
  BitVec.ofNat 64 (s.th * 2 ^ 40 + s.un.key * 2 ^ 24 + s.core * 2 ^ 12 + (if s.cx.priv then 16 else 0) + s.ctx)

/-- UNITID (R143). -/
def UnitSt.unitid (u : UnitSt) : Word :=
  BitVec.ofNat 64 ((if u.ord then 2 ^ 63 else 0) + u.prio * 2 ^ 56 + u.uidx * 2 ^ 32 + u.launch)

/-- USTAT (R143): NPEND counts the context's queued notices. -/
def State.ustat (s : State) : Word :=
  let n := ((s.thr s.th).notices.get [] s.ctx).length
  BitVec.ofNat 64 (n * 16 + (if s.cx.uact then 2 else 0) + (if s.cx.uen then 1 else 0))

/-- TSTAT (R143). -/
def Ctx.tstat (c : Ctx) : Word :=
  BitVec.ofNat 64 (c.tctx * 2 ^ 12 + (if c.tuact then 2 ^ 11 else 0) + (if c.tpprv then 2 ^ 10 else 0) +
    (if c.tgang then 2 ^ 9 else 0))

/-- What TLREAD writes for a selector (R259); 0 for selectors 6 and 7 (R391). -/
def Timeline.field (t : Timeline) (sel : Nat) : Word :=
  match sel with
  | 0 => BitVec.ofNat 64 t.iss
  | 1 => BitVec.ofNat 64 t.comp
  | 2 => BitVec.ofNat 64 (t.status + (if t.qpErr then 256 else 0))
  | 3 => BitVec.ofNat 64 t.errNo
  | 4 => t.errAddr
  | 5 => BitVec.ofNat 64 t.errStep
  | _ => 0

/-- The word of a level's counter (R391). -/
def levelWord (count : Nat) (canc : Bool) : Word := BitVec.ofNat 64 (count % 2 ^ 40 + if canc then 2 ^ 63 else 0)

/-- Identifier of level l of the acting unit: launch, graph, phase, job (R24, R278). -/
def State.levelId (s : State) (l : Nat) : Nat :=
  let e := s.launchAt (inPart s.un.part s.un.launch)
  match l with
  | 0 => s.un.launch | 1 => e.graph | 2 => e.phase | _ => e.job

/-- The completion counter of level l of the acting unit (R391). -/
def State.levelCount (s : State) (l : Nat) : Word :=
  let k := inPart s.un.part (s.levelId l)
  match l with
  | 0 => levelWord (s.launchAt k).count (s.launchAt k).canc
  | 1 => levelWord (s.graphs.get .reset k).count (s.graphs.get .reset k).canc
  | 2 => levelWord (s.phases.get .reset k).count (s.phases.get .reset k).canc
  | _ => levelWord (s.jobs.get .reset k).count (s.jobs.get .reset k).canc

/-- The value of register n (R142, R388); 0 for a number outside the map. -/
def State.csrRead (s : State) (n : Nat) : Word :=
  let c := s.cx
  let u := s.un
  let p := s.part u.part
  match n with
  | 0x001 => s.devcfg
  | 0x002 => s.ctxinfo
  | 0x003 => u.unitid
  | 0x010 => u.lfsr.zeroExtend 64
  | 0x020 => c.upc
  | 0x021 => c.ucause.zeroExtend 64
  | 0x022 => c.uarg
  | 0x023 => c.uvec
  | 0x024 => s.ustat
  | 0x030 => c.tpc
  | 0x031 => c.tcause.zeroExtend 64
  | 0x032 => c.taddr
  | 0x033 => c.tstat
  | 0x034 => p.tvec
  | 0x035 => c.tscratch
  | 0x036 => BitVec.ofNat 64 (p.tenant * 2 ^ 16 + u.asid)
  | 0x100 => c.subst.zeroExtend 64
  | 0x101 => c.hdrop.zeroExtend 64
  | 0x102 => c.orph.zeroExtend 64
  | 0x103 => c.fmtv.zeroExtend 64
  | 0x110 => BitVec.ofNat 64 p.psubst
  | 0x111 => BitVec.ofNat 64 p.phdrop
  | 0x112 => BitVec.ofNat 64 p.porph
  | 0x113 => BitVec.ofNat 64 p.pfmtv
  | 0x180 => BitVec.ofNat 64 p.hmerr
  | 0x181 => (s.coreAt s.core).aserr.zeroExtend 64
  | _ =>
    if 0x120 ≤ n && n < 0x160 then (s.tlAt s.th ((n - 0x120) / 8)).field ((n - 0x120) % 8)
    else if 0x160 ≤ n && n < 0x164 then s.levelCount (n - 0x160)
    else if 0x1C0 ≤ n && n < 0x1C4 then u.pmctl.get 0 (n - 0x1C0)
    else if 0x1C8 ≤ n && n < 0x1CC then (u.pmcnt.get 0 (n - 0x1C8)).zeroExtend 64
    else 0

/-- PMCTL after a write: reserved bits stay 0, OVF is cleared by a 1 (R394). -/
def pmctlWrite (old v : Word) : Word :=
  (v &&& 0xB0000000000000FF#64) ||| (old &&& ~~~v &&& 0x4000000000000000#64)

/-- Register n takes v, field by field by the access column of its map (R141 to R143, R388). -/
def State.csrWrite (s : State) (n : Nat) (v : Word) : State :=
  let c := s.cx
  let u := s.un
  let w48 := v.toNat % 2 ^ 48
  match n with
  | 0x010 => s.setUn { u with lfsr := v.truncate 32 }
  | 0x020 => s.setCx { c with upc := v, upcSame := c.upcSame && v == c.upc }
  | 0x021 => s.setCx { c with ucause := v.truncate 9 }
  | 0x022 => s.setCx { c with uarg := v }
  | 0x023 => s.setCx { c with uvec := v }
  | 0x024 => s.setCx { c with uen := v.getLsbD 0 }
  | 0x030 => s.setCx { c with tpc := v, tpcSame := c.tpcSame && v == c.tpc }
  | 0x031 => s.setCx { c with tcause := v.truncate 9 }
  | 0x032 => s.setCx { c with taddr := v }
  | 0x033 => s.setCx { c with tpprv := v.getLsbD 10 }
  | 0x034 => s.modPart u.part (fun p => { p with tvec := v })
  | 0x035 => s.setCx { c with tscratch := v }
  | 0x100 => s.setCx { c with subst := v.truncate 32 }
  | 0x101 => s.setCx { c with hdrop := v.truncate 32 }
  | 0x102 => s.setCx { c with orph := v.truncate 32 }
  | 0x103 => s.setCx { c with fmtv := v.truncate 32 }
  | 0x110 => s.modPart u.part (fun p => { p with psubst := w48 })
  | 0x111 => s.modPart u.part (fun p => { p with phdrop := w48 })
  | 0x112 => s.modPart u.part (fun p => { p with porph := w48 })
  | 0x113 => s.modPart u.part (fun p => { p with pfmtv := w48 })
  | 0x180 => s.modPart u.part (fun p => { p with hmerr := w48 })
  | _ =>
    if 0x1C0 ≤ n && n < 0x1C4 then
      s.setUn { u with pmctl := u.pmctl.set (n - 0x1C0) (pmctlWrite (u.pmctl.get 0 (n - 0x1C0)) v) }
    else if 0x1C8 ≤ n && n < 0x1CC then s.setUn { u with pmcnt := u.pmcnt.set (n - 0x1C8) (v.truncate 48) }
    else s

/-- The acting mode reads register n: E02, then E01 (R298). -/
def State.csrReadChk (s : State) (n : Nat) : List (Bool × Exc) :=
  [(csrAcc n == none, .trap (cz 0xE02) (BitVec.ofNat 64 n)),
   (!s.cx.priv && ((csrAcc n).map (·.1)) == some .no, .trap (cz 0xE01) s.ip)]

/-- The acting mode writes register n, when it may (R141). -/
def State.csrPut (s : State) (n : Nat) (v : Word) : State :=
  match csrAcc n with
  | some (.rw, _) => s.csrWrite n v
  | some (_, .rw) => if s.cx.priv then s.csrWrite n v else s
  | some (_, .ro) => s
  | some (_, .no) => s
  | none => s

end Sys2Proof.Machine
end

