-- ==== Sys2Proof/WellFormed.lean ====
section
/-!
DEFINITION. A well-formed instruction: no decode cause of R94 that can be judged from the instruction alone applies to it.
-/
namespace Sys2Proof

/-- No static decode cause applies: 005, 101, 103, 006 (R94, R95). A machine step has no fields to check. -/
def Instr.WellFormed (i : Instr) : Bool := i.coded && i.noRsv && i.accepted && i.combo

end Sys2Proof
end

