-- ==== Sys2Proof/Decode.lean ====
section
/-!
DEFINITION. Decoding of 32-bit parcels (R78 to R96), and the encoder. Each of the six formats has a record of its fields
(R82 to R87) with one packing and one unpacking; `Form.instr` reads the fields as an instruction and `Instr.form` writes
an instruction's fields. A word is accepted only when packing what was read gives the word back, so that every reserved
or unnamed field that is not zero is found (cause 005).
-/
namespace Sys2Proof

/-! ## Coded fields -/

/-- Operand codes (R91). -/
def Opd.code : Opd → BitVec 6
  | .g n => n.setWidth 6
  | .link d => 32#6 + d.setWidth 6
  | .x k => 40#6 + k.setWidth 6
  | .imm => 63#6
  | .rsv c => c

def Opd.ofCode (c : BitVec 6) : Opd :=
  if c.toNat < 32 then .g (c.setWidth 5)
  else if c.toNat < 36 then .link (c.setWidth 2)
  else if 40 ≤ c.toNat ∧ c.toNat < 48 then .x (c.setWidth 3)
  else if c.toNat = 63 then .imm
  else .rsv c

/-- Type codes (R88). -/
def Ty.code : Ty → BitVec 4
  | .i64 => 0 | .i32 => 1 | .i16 => 2 | .ui16 => 3 | .i8 => 4 | .ui8 => 5 | .f32 => 6 | .f16 => 7 | .bf16 => 8
  | .e4m3 => 9 | .e5m2 => 10 | .t8 => 11 | .t6 => 12 | .l4 => 13 | .blk => 14

def Ty.ofCode (c : BitVec 4) : Option Ty :=
  match c.toNat with
  | 0 => some .i64 | 1 => some .i32 | 2 => some .i16 | 3 => some .ui16 | 4 => some .i8 | 5 => some .ui8
  | 6 => some .f32 | 7 => some .f16 | 8 => some .bf16 | 9 => some .e4m3 | 10 => some .e5m2 | 11 => some .t8
  | 12 => some .t6 | 13 => some .l4 | 14 => some .blk | _ => none

/-- MD as a rounding mode and .sat (R89). -/
def Md.code (m : Md) : BitVec 4 :=
  (match m.rm with | .rne => 0#4 | .rtz => 1#4 | .rdn => 2#4 | .rup => 3#4 | .rna => 4#4 | .sto => 5#4) +
  (if m.sat then 8#4 else 0#4)

def Md.ofCode (c : BitVec 4) : Option Md :=
  let s := c.getLsbD 3
  match c.toNat % 8 with
  | 0 => some ⟨.rne, s⟩ | 1 => some ⟨.rtz, s⟩ | 2 => some ⟨.rdn, s⟩ | 3 => some ⟨.rup, s⟩ | 4 => some ⟨.rna, s⟩
  | 5 => some ⟨.sto, s⟩ | _ => none

/-- MD<3> alone (R149, R218). -/
def satCode (s : Bool) : BitVec 4 := if s then 8#4 else 0#4

/-- Conditions as FN 0x00-0x09 (R96). -/
def Cc.code : Cc → BitVec 8
  | .eq => 0 | .ne => 1 | .lt => 2 | .le => 3 | .gt => 4 | .ge => 5 | .ltu => 6 | .leu => 7 | .gtu => 8 | .geu => 9

def Cc.ofCode (c : BitVec 8) : Option Cc :=
  match c.toNat with
  | 0 => some .eq | 1 => some .ne | 2 => some .lt | 3 => some .le | 4 => some .gt | 5 => some .ge | 6 => some .ltu
  | 7 => some .leu | 8 => some .gtu | 9 => some .geu | _ => none

/-- Access sizes (R90). -/
def Sz.code : Sz → BitVec 4
  | .b => 0 | .h => 1 | .w => 2 | .d => 3

def Sz.ofCode (c : BitVec 4) : Option Sz :=
  match c.toNat with
  | 0 => some .b | 1 => some .h | 2 => some .w | 3 => some .d | _ => none

/-- Sync modes (R90). -/
def Sm.code : Sm → BitVec 4
  | .plain => 0 | .rf => 1 | .tk => 2 | .we => 3 | .wf => 4 | .wz => 5

def Sm.ofCode (c : BitVec 4) : Option Sm :=
  match c.toNat with
  | 0 => some .plain | 1 => some .rf | 2 => some .tk | 3 => some .we | 4 => some .wf | 5 => some .wz | _ => none

/-- Spaces (R90). -/
def Space.code : Space → BitVec 2
  | .glob => 0 | .ls => 1 | .cl => 2

def Space.ofCode (c : BitVec 2) : Option Space :=
  match c.toNat with
  | 0 => some .glob | 1 => some .ls | 2 => some .cl | _ => none

/-- Atomic operations (R96). -/
def AOp.code : AOp → BitVec 4
  | .add => 0 | .fadd => 1 | .min => 2 | .max => 3 | .umin => 4 | .umax => 5 | .and => 6 | .or => 7 | .xor => 8
  | .swap => 9

def AOp.ofCode (c : BitVec 4) : Option AOp :=
  match c.toNat with
  | 0 => some .add | 1 => some .fadd | 2 => some .min | 3 => some .max | 4 => some .umin | 5 => some .umax
  | 6 => some .and | 7 => some .or | 8 => some .xor | 9 => some .swap | _ => none

/-- SFU functions (R92). -/
def SfuFn.code : SfuFn → BitVec 8
  | .exp2 => 0 | .log2 => 1 | .rcp => 2 | .rsq => 3 | .sqrt => 4 | .sin => 5 | .cos => 6 | .tanh => 7

def SfuFn.ofCode (c : BitVec 8) : Option SfuFn :=
  match c.toNat with
  | 0 => some .exp2 | 1 => some .log2 | 2 => some .rcp | 3 => some .rsq | 4 => some .sqrt | 5 => some .sin
  | 6 => some .cos | 7 => some .tanh | _ => none

/-- Pack forms (R162). -/
def PackForm.code : PackForm → BitVec 8
  | .h2 => 0 | .b4 => 1 | .q4 => 2 | .t6 => 3

def PackForm.ofCode (c : BitVec 8) : Option PackForm :=
  match c.toNat with
  | 0 => some .h2 | 1 => some .b4 | 2 => some .q4 | 3 => some .t6 | _ => none

/-- Buffer states in MD<1:0> (R96). -/
def BufState.code : BufState → BitVec 4
  | .empty => 0 | .filling => 1 | .full => 2 | .draining => 3

def BufState.ofCode (c : BitVec 4) : Option BufState :=
  match c.toNat with
  | 0 => some .empty | 1 => some .filling | 2 => some .full | 3 => some .draining | _ => none

/-- Shape fields in FN (R211). -/
def ShField.code : ShField → BitVec 8
  | .base => 0 | .esz => 1 | .rank => 2
  | .ext d => 0x10#8 + d.setWidth 8 | .stride d => 0x20#8 + d.setWidth 8 | .cur d => 0x30#8 + d.setWidth 8
  | .remain => 0x3D | .index => 0x3E | .rewind => 0x3F

def ShField.ofCode (c : BitVec 8) : Option ShField :=
  match c.toNat with
  | 0 => some .base | 1 => some .esz | 2 => some .rank
  | 0x10 => some (.ext 0) | 0x11 => some (.ext 1) | 0x12 => some (.ext 2) | 0x13 => some (.ext 3)
  | 0x20 => some (.stride 0) | 0x21 => some (.stride 1) | 0x22 => some (.stride 2) | 0x23 => some (.stride 3)
  | 0x30 => some (.cur 0) | 0x31 => some (.cur 1) | 0x32 => some (.cur 2) | 0x33 => some (.cur 3)
  | 0x3D => some .remain | 0x3E => some .index | 0x3F => some .rewind
  | _ => none

/-- HINT<1:0> as a cache policy (R181). -/
def Policy.code : Policy → BitVec 14
  | .normal => 0 | .streaming => 1 | .keep => 2

def Policy.ofCode (c : BitVec 14) : Option Policy :=
  match c.toNat % 4 with
  | 0 => some .normal | 1 => some .streaming | 2 => some .keep | _ => none

/-- HINT<1:0> as a level (R193). -/
def Level.code : Level → BitVec 14
  | .l2 => 0 | .stacked => 1 | .both => 2

def Level.ofCode (c : BitVec 14) : Option Level :=
  match c.toNat % 4 with
  | 0 => some .l2 | 1 => some .stacked | 2 => some .both | _ => none

/-- LO (R172): URJ, TLE, TL. -/
def LandOpt.code (l : LandOpt) : BitVec 5 := BitVec.ofBool l.urj ++ (BitVec.ofBool l.tle ++ l.tl)
def LandOpt.ofCode (c : BitVec 5) : LandOpt := ⟨c.getLsbD 4, c.getLsbD 3, c.extractLsb' 0 3⟩

/-- Collective operations (R256). -/
def CollOp.code : CollOp → BitVec 8
  | .bcast => 0 | .allred => 1 | .allmax => 2 | .allgath => 3 | .redscat => 4 | .alltoall => 5

def CollOp.ofCode (c : BitVec 8) : Option CollOp :=
  match c.toNat with
  | 0 => some .bcast | 1 => some .allred | 2 => some .allmax | 3 => some .allgath | 4 => some .redscat
  | 5 => some .alltoall | _ => none

/-! ## The formats -/

/-- Fields of A64 (R82), which are those of I96 (R83) but for IMM32. -/
structure A64 where
  d : Opd := .g 0
  a : Opd := .g 0
  b : Opd := .g 0
  ta : Bool := false
  tb : Bool := false
  imm : BitVec 16 := 0
  fn : BitVec 8 := 0
  md : BitVec 4 := 0
  ty : BitVec 4 := 0
deriving DecidableEq, Repr

/-- Fields of M96 (R85). -/
structure M96 where
  sc : BitVec 2 := 0
  tv : Bool := false
  index : Opd := .g 0
  base : Opd := .g 0
  v : Opd := .g 0
  hint : BitVec 14 := 0
  sp : BitVec 2 := 0
  fn : BitVec 8 := 0
  sm : BitVec 4 := 0
  sz : BitVec 4 := 0
  disp : BitVec 32 := 0
deriving DecidableEq, Repr

/-- Fields of V96 (R86). -/
structure V96 where
  gs : Opd := .g 0
  sbf : Bool := false
  sc : BitVec 3 := 0
  sb : BitVec 3 := 0
  sa : BitVec 3 := 0
  sd : BitVec 3 := 0
  count : BitVec 16 := 0
  fn : BitVec 8 := 0
  md : BitVec 4 := 0
  ty : BitVec 4 := 0
  imm : BitVec 32 := 0
deriving DecidableEq, Repr

/-- Fields of T128 (R87) with the type codes not yet read. -/
structure T128 where
  ga : Opd
  gb : Opd
  gc : Opd
  gd : Opd
  osrc : BitVec 4
  fn : BitVec 8
  accmode : BitVec 4
  sb : Bool
  sa : Bool
  tyb : BitVec 4
  tya : BitVec 4
  acc : BitVec 2
  notify : BitVec 4
  tle : Bool
  tl : BitVec 3
  step : BitVec 8
  kcnt : BitVec 16
deriving DecidableEq, Repr

/-- An instruction's fields under its format, with its major opcode. -/
inductive Form where
  | a64 (op : BitVec 8) (f : A64)
  | i96 (op : BitVec 8) (f : A64) (imm : BitVec 32)
  | i128 (op : BitVec 8) (d : Opd) (fn : BitVec 8) (imm : BitVec 64)
  | m96 (op : BitVec 8) (f : M96)
  | v96 (op : BitVec 8) (f : V96)
  | t128 (op : BitVec 8) (f : T128)
deriving DecidableEq, Repr

/-- The names of the formats (R78). -/
inductive Fmt where
  | a64 | i96 | i128 | m96 | v96 | t128
deriving DecidableEq, Repr

/-- L of a format (R78). -/
def Fmt.len : Fmt → BitVec 2
  | .a64 => 0 | .i96 | .m96 | .v96 => 1 | .i128 | .t128 => 2

/-- The format of each major opcode; none where R92 assigns none (R93). -/
def fmtOf (op : BitVec 8) : Option Fmt :=
  let n := op.toNat
  if n = 0 then none
  else if n = 0x1B then some .i96
  else if n = 0x1C then some .i128
  else if n < 0x20 then some .a64
  else if n < 0x28 then (if n = 0x23 ∨ n = 0x24 ∨ n = 0x27 then some .a64 else some .i96)
  else if n < 0x30 then none
  else if n < 0x37 then some .a64
  else if n < 0x40 then none
  else if n < 0x45 then some .m96
  else if n = 0x45 then some .a64
  else if n < 0x60 then none
  else if n = 0x60 then some .m96
  else if n < 0x66 then some .a64
  else if n < 0x70 then none
  else if n < 0x74 then (if n = 0x72 then some .a64 else some .m96)
  else if n < 0x80 then none
  else if n < 0x9F then some .v96
  else if n < 0xA0 then none
  else if n < 0xAE then some .a64
  else if n < 0xB0 then none
  else if n < 0xBC then some .t128
  else if n < 0xC0 then none
  else if n < 0xC4 then some .t128
  else if n < 0xC8 then some .a64
  else if n < 0xD0 then none
  else if n < 0xE0 then (if n = 0xD0 ∨ n = 0xD3 ∨ n = 0xD4 then some .i96 else some .a64)
  else if n < 0xE7 then (if n = 0xE3 then some .m96 else if n = 0xE4 then some .i96 else some .a64)
  else if n < 0xF0 then none
  else if n < 0xF8 then some .a64
  else none

/-- Parcel 0 of A64 and I96 (R82). -/
def A64.p0 (f : A64) (op : BitVec 8) (l : BitVec 2) : Parcel :=
  (0#2 ++ (BitVec.ofBool f.tb ++ (BitVec.ofBool f.ta ++ (f.b.code ++ (f.a.code ++ (f.d.code ++ (op ++ l)))))) : BitVec 32)
/-- Parcel 1 of A64 and I96 (R82). -/
def A64.p1 (f : A64) : Parcel := (f.imm ++ (f.fn ++ (f.md ++ f.ty)) : BitVec 32)

def A64.ofParcels (p0 p1 : Parcel) : A64 where
  d := .ofCode (p0.extractLsb' 10 6)
  a := .ofCode (p0.extractLsb' 16 6)
  b := .ofCode (p0.extractLsb' 22 6)
  ta := p0.getLsbD 28
  tb := p0.getLsbD 29
  imm := p1.extractLsb' 16 16
  fn := p1.extractLsb' 8 8
  md := p1.extractLsb' 4 4
  ty := p1.extractLsb' 0 4

/-- M96 (R85). -/
def M96.parcels (f : M96) (op : BitVec 8) : List Parcel :=
  [(f.sc ++ (0#1 ++ (BitVec.ofBool f.tv ++ (f.index.code ++ (f.base.code ++ (f.v.code ++ (op ++ 1#2)))))) : BitVec 32),
   (f.hint ++ (f.sp ++ (f.fn ++ (f.sm ++ f.sz))) : BitVec 32), f.disp]

def M96.ofParcels (p0 p1 p2 : Parcel) : M96 where
  sc := p0.extractLsb' 30 2
  tv := p0.getLsbD 28
  index := .ofCode (p0.extractLsb' 22 6)
  base := .ofCode (p0.extractLsb' 16 6)
  v := .ofCode (p0.extractLsb' 10 6)
  hint := p1.extractLsb' 18 14
  sp := p1.extractLsb' 16 2
  fn := p1.extractLsb' 8 8
  sm := p1.extractLsb' 4 4
  sz := p1.extractLsb' 0 4
  disp := p2

/-- V96 (R86). -/
def V96.parcels (f : V96) (op : BitVec 8) : List Parcel :=
  [(0#3 ++ (f.gs.code ++ (BitVec.ofBool f.sbf ++ (f.sc ++ (f.sb ++ (f.sa ++ (f.sd ++ (op ++ 1#2))))))) : BitVec 32),
   (f.count ++ (f.fn ++ (f.md ++ f.ty)) : BitVec 32), f.imm]

def V96.ofParcels (p0 p1 p2 : Parcel) : V96 where
  gs := .ofCode (p0.extractLsb' 23 6)
  sbf := p0.getLsbD 22
  sc := p0.extractLsb' 19 3
  sb := p0.extractLsb' 16 3
  sa := p0.extractLsb' 13 3
  sd := p0.extractLsb' 10 3
  count := p1.extractLsb' 16 16
  fn := p1.extractLsb' 8 8
  md := p1.extractLsb' 4 4
  ty := p1.extractLsb' 0 4
  imm := p2

/-- T128 (R87): GD<3:0> stands in parcel 0 and GD<5:4> in parcel 1. -/
def T128.parcels (f : T128) (op : BitVec 8) : List Parcel :=
  [(f.gd.code.extractLsb' 0 4 ++ (f.gc.code ++ (f.gb.code ++ (f.ga.code ++ (op ++ 2#2)))) : BitVec 32),
   (f.osrc ++ (f.fn ++ (f.accmode ++ (BitVec.ofBool f.sb ++ (BitVec.ofBool f.sa ++ (f.tyb ++ (f.tya ++ (f.acc ++
     (0#2 ++ f.gd.code.extractLsb' 4 2)))))))) : BitVec 32),
   (f.notify ++ (BitVec.ofBool f.tle ++ (f.tl ++ (f.step ++ f.kcnt))) : BitVec 32), 0]

def T128.ofParcels (p0 p1 p2 : Parcel) : T128 where
  ga := .ofCode (p0.extractLsb' 10 6)
  gb := .ofCode (p0.extractLsb' 16 6)
  gc := .ofCode (p0.extractLsb' 22 6)
  gd := .ofCode (p1.extractLsb' 0 2 ++ p0.extractLsb' 28 4)
  osrc := p1.extractLsb' 28 4
  fn := p1.extractLsb' 20 8
  accmode := p1.extractLsb' 16 4
  sb := p1.getLsbD 15
  sa := p1.getLsbD 14
  tyb := p1.extractLsb' 10 4
  tya := p1.extractLsb' 6 4
  acc := p1.extractLsb' 4 2
  notify := p2.extractLsb' 28 4
  tle := p2.getLsbD 27
  tl := p2.extractLsb' 24 3
  step := p2.extractLsb' 16 8
  kcnt := p2.extractLsb' 0 16

/-- The parcels of a form, parcel 0 first. -/
def Form.parcels : Form → List Parcel
  | .a64 op f => [f.p0 op 0, f.p1]
  | .i96 op f imm => [f.p0 op 1, f.p1, imm]
  | .i128 op d fn imm =>
    [(0#16 ++ (d.code ++ (op ++ 2#2)) : BitVec 32), (0#16 ++ (fn ++ 0#8) : BitVec 32), imm.extractLsb' 0 32,
     imm.extractLsb' 32 32]
  | .m96 op f => f.parcels op
  | .v96 op f => f.parcels op
  | .t128 op f => f.parcels op

/-- The major opcode (R82). -/
def opOf (p0 : Parcel) : BitVec 8 := p0.extractLsb' 2 8

/-- The fields of the parcels under a format; none when there are too few parcels. -/
def Form.ofParcels : Fmt → List Parcel → Option Form
  | .a64, p0 :: p1 :: _ => some (.a64 (opOf p0) (.ofParcels p0 p1))
  | .i96, p0 :: p1 :: p2 :: _ => some (.i96 (opOf p0) (.ofParcels p0 p1) p2)
  | .i128, p0 :: p1 :: p2 :: p3 :: _ =>
    some (.i128 (opOf p0) (.ofCode (p0.extractLsb' 10 6)) (p1.extractLsb' 8 8) (p3 ++ p2))
  | .m96, p0 :: p1 :: p2 :: _ => some (.m96 (opOf p0) (.ofParcels p0 p1 p2))
  | .v96, p0 :: p1 :: p2 :: _ => some (.v96 (opOf p0) (.ofParcels p0 p1 p2))
  | .t128, p0 :: p1 :: p2 :: _ :: _ => some (.t128 (opOf p0) (.ofParcels p0 p1 p2))
  | _, _ => none

/-! ## From an instruction to its fields -/

def Bin.a64 (o : Bin) (fn : BitVec 8 := 0) (md ty : BitVec 4 := 0) : A64 :=
  { d := o.d, a := o.a, b := o.b, ta := o.ta, tb := o.tb, imm := o.imm, fn := fn, md := md, ty := ty }
def Un.a64 (o : Un) (fn : BitVec 8 := 0) (md ty : BitVec 4 := 0) : A64 :=
  { d := o.d, a := o.a, ta := o.ta, imm := o.imm, fn := fn, md := md, ty := ty }
def Src.a64 (o : Src) : A64 := { a := o.a, ta := o.ta, imm := o.imm }

def MemOp.m96 (m : MemOp) (sz sm : BitVec 4) (hint : BitVec 14 := 0) (fn : BitVec 8 := 0) : M96 :=
  { sc := m.sc, tv := m.tv, index := m.index, base := m.base, v := m.v, hint := hint, sp := m.sp.code, fn := fn,
    sm := sm, sz := sz, disp := m.disp }

/-- HINT of LDL, AMO and FLAGF: LO in bits 13:9, a 9-bit rest below (R171). -/
def hintOf (lo : LandOpt) (low : BitVec 9) : BitVec 14 := lo.code ++ low

def ShardOp.a64 (o : ShardOp) (fn md ty : BitVec 4) : A64 :=
  { d := o.d, a := o.a, b := o.b, ta := o.ta, tb := o.tb, imm := o.imm,
    fn := (0#3 ++ (BitVec.ofBool o.nc ++ fn) : BitVec 8), md := md, ty := ty }

def VecOp.v96 (v : VecOp) (fn : BitVec 8 := 0) (md ty : BitVec 4 := 0) : V96 :=
  { gs := v.gs, sbf := v.sbf, sc := v.sc, sb := v.sb, sa := v.sa, sd := v.sd, count := v.count, fn := fn, md := md,
    ty := ty, imm := v.imm }

def TOp.t128 (t : TOp) : T128 :=
  { ga := t.ga, gb := t.gb, gc := t.gc, gd := t.gd, osrc := t.osrc, fn := t.fn, accmode := t.accmode, sb := t.sb,
    sa := t.sa, tyb := t.tyb.code, tya := t.tya.code, acc := t.acc, notify := t.notify, tle := t.tle, tl := t.tl,
    step := t.step, kcnt := t.kcnt }

def PostOp.a64 (p : PostOp) : A64 :=
  { d := p.aff, a := p.mask, imm := p.imm, fn := (BitVec.ofBool p.prioSet ++ p.prio : BitVec 8),
    md := (0#1 ++ p.ntb : BitVec 4) }

/-- The A64 forms of the integer, address and control-flow groups. -/
def sAlu (op : BitVec 8) (ty : Ty) (o : Bin) : Option Form := some (.a64 op (o.a64 0 0 ty.code))
def sAluSat (op : BitVec 8) (ty : Ty) (sat : Bool) (o : Bin) : Option Form := some (.a64 op (o.a64 0 (satCode sat) ty.code))
def sFloat (op : BitVec 8) (ty : Ty) (md : Md) (o : Bin) : Option Form := some (.a64 op (o.a64 0 md.code ty.code))
def sSfu (fn : SfuFn) (ty : Ty) (md : Md) (o : Un) : Option Form := some (.a64 0xAC (o.a64 fn.code md.code ty.code))
def sVec (op : BitVec 8) (ty : Ty) (v : VecOp) : Option Form := some (.v96 op (v.v96 0 0 ty.code))
def sVecMd (op : BitVec 8) (ty : Ty) (md : Md) (v : VecOp) : Option Form := some (.v96 op (v.v96 0 md.code ty.code))
def sMem (op : BitVec 8) (sz : Sz) (sm : Sm) (pol : Policy) (m : MemOp) : Option Form :=
  some (.m96 op (m.m96 sz.code sm.code pol.code))
def sShape (op : BitVec 8) (fn : BitVec 8) (v : VecOp) : Option Form := some (.v96 op (v.v96 fn))
def sTile (op : BitVec 8) (t : TOp) : Option Form := some (.t128 op t.t128)
def sShard (op : BitVec 8) (fn md : BitVec 4) (sz : Sz) (o : ShardOp) : Option Form := some (.a64 op (o.a64 fn md sz.code))
/-- TY<2:0> as a timeline, TY<3> zero (R257). -/
def tlTy (tl : BitVec 3) : BitVec 4 := 0#1 ++ tl

/-- The form of an encoded instruction (R92 and each instruction's fields); none for a machine step. -/
def Instr.form : Instr → Option Form
  | .iadd ty sat o => sAluSat 0x01 ty sat o
  | .isub ty sat o => sAluSat 0x02 ty sat o
  | .imul ty sat o => sAluSat 0x03 ty sat o
  | .imulh ty o => sAlu 0x04 ty o
  | .idiv ty o => sAlu 0x05 ty o
  | .irem ty o => sAlu 0x06 ty o
  | .imin ty o => sAlu 0x07 ty o
  | .imax ty o => sAlu 0x08 ty o
  | .iabs ty sat o => some (.a64 0x09 (o.a64 0 (satCode sat) ty.code))
  | .and o => some (.a64 0x0A (o.a64))
  | .or o => some (.a64 0x0B (o.a64))
  | .xor o => some (.a64 0x0C (o.a64))
  | .andn o => some (.a64 0x0D (o.a64))
  | .shl ty o => sAlu 0x0E ty o
  | .shr ty o => sAlu 0x0F ty o
  | .sra ty o => sAlu 0x10 ty o
  | .rol ty o => sAlu 0x11 ty o
  | .clz ty o => some (.a64 0x12 (o.a64 0 0 ty.code))
  | .ctz ty o => some (.a64 0x13 (o.a64 0 0 ty.code))
  | .popc ty o => some (.a64 0x14 (o.a64 0 0 ty.code))
  | .bswap ty o => some (.a64 0x15 (o.a64 0 0 ty.code))
  | .bfx o => some (.a64 0x16 (o.a64))
  | .bfi o => some (.a64 0x17 (o.a64))
  | .iext o => some (.a64 0x18 (o.a64))
  | .cmp cc ty o => some (.a64 0x19 (o.a64 cc.code 0 ty.code))
  | .sel o => some (.a64 0x1A (o.a64))
  | .ldi d imm => some (.i96 0x1B { d := d } imm)
  | .ldk d imm => some (.i128 0x1C d 0 imm)
  | .adda o => some (.a64 0x1D (o.a64))
  | .mramk o => some (.a64 0x1E (o.a64))
  | .self d => some (.a64 0x1F { d := d })
  | .br off => some (.i96 0x20 {} off)
  | .bz a off => some (.i96 0x21 a.a64 off)
  | .bnz a off => some (.i96 0x22 a.a64 off)
  | .bcmp cc ty a ta b tb off =>
    some (.a64 0x23 { a := a, b := b, ta := ta, tb := tb, imm := off, fn := cc.code, ty := ty.code })
  | .jmp a ta => some (.a64 0x24 { a := a, ta := ta })
  | .call d a off => some (.i96 0x25 { d := d, a := a } off)
  | .loop d off => some (.i96 0x26 { d := d } off)
  | .nop => some (.a64 0x27 {})
  | .empty d => some (.a64 0x30 { d := d })
  | .markf d => some (.a64 0x31 { d := d })
  | .probe d a => some (.a64 0x32 { d := d, a := a })
  | .waitf a ta => some (.a64 0x33 { a := a, ta := ta })
  | .qcfg d a imm => some (.a64 0x34 { d := d, a := a, imm := imm })
  | .qrst d => some (.a64 0x35 { d := d })
  | .qocc d a => some (.a64 0x36 { d := d, a := a })
  | .ld sz sm pol m => sMem 0x40 sz sm pol m
  | .st sz sm pol m => sMem 0x41 sz sm pol m
  | .pref lvl m => some (.m96 0x42 (m.m96 0 0 lvl.code))
  | .resid lvl m => some (.m96 0x43 (m.m96 0 0 lvl.code))
  | .evict lvl m => some (.m96 0x44 (m.m96 0 0 lvl.code))
  | .fence => some (.a64 0x45 {})
  | .ldl sz sm pol lo m => some (.m96 0x60 (m.m96 sz.code sm.code (hintOf lo (pol.code.extractLsb' 0 9))))
  | .rsend d a ta imm lo => some (.a64 0x61 { d := d, a := a, ta := ta, imm := imm, fn := (0#3 ++ lo.code : BitVec 8) })
  | .ldx sz sm o => sShard 0x62 0 sm.code sz o
  | .stx sz sm o => sShard 0x63 0 sm.code sz o
  | .smfrz a => some (.a64 0x64 a.a64)
  | .smrel a => some (.a64 0x65 a.a64)
  | .amo op l sz mreg lo m =>
    some (.m96 0x70 (m.m96 sz.code 0 (hintOf lo (0#3 ++ mreg.code)) (BitVec.ofBool l ++ (0#3 ++ op.code))))
  | .cas sz m => some (.m96 0x71 (m.m96 sz.code 0))
  | .amox op sz o => sShard 0x72 op.code 0 sz o
  | .flagf tl m => some (.m96 0x73 (m.m96 3 0 (hintOf ⟨false, true, tl⟩ 0)))
  | .shld v => sShape 0x80 0 v
  | .shst v => sShape 0x81 0 v
  | .shset f v => sShape 0x82 f.code v
  | .shadv v => sShape 0x83 0 v
  | .shrd f v => sShape 0x84 f.code v
  | .vadd ty md v => sVecMd 0x85 ty md v
  | .vsub ty md v => sVecMd 0x86 ty md v
  | .vmul ty md v => sVecMd 0x87 ty md v
  | .vfma ty md v => sVecMd 0x88 ty md v
  | .vmin ty md v => sVecMd 0x89 ty md v
  | .vmax ty md v => sVecMd 0x8A ty md v
  | .vabs ty md v => sVecMd 0x8B ty md v
  | .vneg ty md v => sVecMd 0x8C ty md v
  | .vand ty v => sVec 0x8D ty v
  | .vor ty v => sVec 0x8E ty v
  | .vxor ty v => sVec 0x8F ty v
  | .vshl ty v => sVec 0x90 ty v
  | .vshr ty v => sVec 0x91 ty v
  | .vcmp cc ty md v => some (.v96 0x92 (v.v96 cc.code md.code ty.code))
  | .vsel ty v => sVec 0x93 ty v
  | .vcvt ty md v => sVecMd 0x94 ty md v
  | .vcopy ty v => sVec 0x95 ty v
  | .vbcst ty md v => sVecMd 0x96 ty md v
  | .vgath ty v => sVec 0x97 ty v
  | .vscat ty v => sVec 0x98 ty v
  | .vsum ty sat v => some (.v96 0x99 (v.v96 0 (satCode sat) ty.code))
  | .vrmax ty v => sVec 0x9A ty v
  | .vsfu fn ty md v => some (.v96 0x9B (v.v96 fn.code md.code ty.code))
  | .vqnt ty md v => sVecMd 0x9C ty md v
  | .vdq ty md v => sVecMd 0x9D ty md v
  | .vpclr ty v => sVec 0x9E ty v
  | .fadd ty md o => sFloat 0xA0 ty md o
  | .fsub ty md o => sFloat 0xA1 ty md o
  | .fmul ty md o => sFloat 0xA2 ty md o
  | .ffma ty md o => sFloat 0xA3 ty md o
  | .fmin ty o => sAlu 0xA4 ty o
  | .fmax ty o => sAlu 0xA5 ty o
  | .fabs ty o => some (.a64 0xA6 (o.a64 0 0 ty.code))
  | .fneg ty o => some (.a64 0xA7 (o.a64 0 0 ty.code))
  | .fcmp cc ty o => some (.a64 0xA8 (o.a64 cc.code 0 ty.code))
  | .fcvt dty sty md d a ta =>
    some (.a64 0xA9 { d := d, a := a, b := .imm, ta := ta, imm := sty.code.setWidth 16, md := md.code, ty := dty.code })
  | .fclass ty o => some (.a64 0xAA (o.a64 0 0 ty.code))
  | .cvp form ty md o => some (.a64 0xAB (o.a64 form.code md.code ty.code))
  | .cvu ty o => some (.a64 0xAD (o.a64 0 0 ty.code))
  | .fexp2 ty md o => sSfu .exp2 ty md o
  | .flog2 ty md o => sSfu .log2 ty md o
  | .frcp ty md o => sSfu .rcp ty md o
  | .frsq ty md o => sSfu .rsq ty md o
  | .fsqrt ty md o => sSfu .sqrt ty md o
  | .fsin ty md o => sSfu .sin ty md o
  | .fcos ty md o => sSfu .cos ty md o
  | .ftanh ty md o => sSfu .tanh ty md o
  | .mma t => sTile 0xB0 t
  | .mmb t => sTile 0xB1 t
  | .mms t => sTile 0xB2 t
  | .mcmp t => sTile 0xB3 t
  | .mzero t => sTile 0xB4 t
  | .mlda t => sTile 0xB5 t
  | .msta t => sTile 0xB6 t
  | .mdrn t => sTile 0xB7 t
  | .mrsum t => sTile 0xB8 t
  | .mcsum t => sTile 0xB9 t
  | .mtbl t => sTile 0xBA t
  | .mstat t => sTile 0xBB t
  | .cpy t => sTile 0xC0 t
  | .gath t => sTile 0xC1 t
  | .scat t => sTile 0xC2 t
  | .coll op t => some (.t128 0xC3 { t.t128 with fn := op.code })
  | .tlwait tl a => some (.a64 0xC4 { a.a64 with ty := tlTy tl })
  | .tlread d tl fld => some (.a64 0xC5 { d := d, a := .imm, imm := fld.setWidth 16, ty := tlTy tl })
  | .tlnote d a ta imm tl => some (.a64 0xC6 { d := d, a := a, ta := ta, imm := imm, ty := tlTy tl })
  | .fqprst tl => some (.a64 0xC7 { ty := tlTy tl })
  | .start a off => some (.i96 0xD0 a.a64 off)
  | .hjoin a => some (.a64 0xD1 a.a64)
  | .hexit => some (.a64 0xD2 {})
  | .post p => some (.i96 0xD3 p.a64 p.off)
  | .susp p => some (.i96 0xD4 p.a64 p.off)
  | .yield => some (.a64 0xD5 {})
  | .uexit => some (.a64 0xD6 {})
  | .enq d a b => some (.a64 0xD7 { a.a64 with d := d, b := b })
  | .enqw d a b => some (.a64 0xD7 { a.a64 with d := d, b := b, fn := 1 })
  | .deq => some (.a64 0xD8 {})
  | .recdone => some (.a64 0xD9 {})
  | .splitok a => some (.a64 0xDA a.a64)
  | .mergeok => some (.a64 0xDA { fn := 1 })
  | .tballoc o => some (.a64 0xDB (o.a64))
  | .tbfree a => some (.a64 0xDB { a.a64 with fn := 1 })
  | .tbset bst a ta b tb imm => some (.a64 0xDC { a := a, ta := ta, b := b, tb := tb, imm := imm, md := bst.code })
  | .tbstat o => some (.a64 0xDC (o.a64 1))
  | .spanx => some (.a64 0xDD {})
  | .spanc => some (.a64 0xDD { fn := 1 })
  | .gbar => some (.a64 0xDE {})
  | .lcnt d lvl => some (.a64 0xDF { d := d, a := .imm, imm := lvl })
  | .cancel lvl => some (.a64 0xDF { a := .imm, imm := lvl, fn := 1 })
  | .pchk d a ta => some (.a64 0xE0 { d := d, a := a, ta := ta })
  | .pclr d => some (.a64 0xE1 { d := d })
  | .pset d => some (.a64 0xE2 { d := d })
  | .stc sz sm pol m => sMem 0xE3 sz sm pol m
  | .sig v => some (.i96 0xE4 {} (v.setWidth 32))
  | .upret => some (.a64 0xE5 {})
  | .upmask o => some (.a64 0xE6 (o.a64))
  | .trap n => some (.a64 0xF0 { imm := n.setWidth 16 })
  | .tret => some (.a64 0xF1 {})
  | .csrr d n => some (.a64 0xF2 { d := d, imm := n.setWidth 16 })
  | .csrw a ta n => some (.a64 0xF3 { a := a, ta := ta, imm := n.setWidth 16 })
  | .tinv d a b scope => some (.a64 0xF4 { d := d, a := a, b := b, imm := scope.setWidth 16 })
  | .tsync => some (.a64 0xF5 {})
  | .l2fl mode => some (.a64 0xF6 { imm := (BitVec.ofBool mode).setWidth 16 })
  | .idle => some (.a64 0xF7 {})
  | _ => none

/-- The parcels of an encoded instruction; none for a machine step. -/
def encode (i : Instr) : List Parcel :=
  match i.form with
  | some f => f.parcels
  | none => []

/-! ## From fields to an instruction -/

def A64.bin (f : A64) : Bin := ⟨f.d, f.a, f.ta, f.b, f.tb, f.imm⟩
def A64.un (f : A64) : Un := ⟨f.d, f.a, f.ta, f.imm⟩
def A64.src (f : A64) : Src := ⟨f.a, f.ta, f.imm⟩
def A64.shard (f : A64) : ShardOp := ⟨f.d, f.a, f.ta, f.b, f.tb, f.fn.getLsbD 4, f.imm⟩
def A64.sat (f : A64) : Bool := f.md.getLsbD 3
def A64.tl (f : A64) : BitVec 3 := f.ty.extractLsb' 0 3
def A64.postOp (f : A64) (off : BitVec 32) : PostOp :=
  ⟨off, f.d, f.a, f.imm, f.md.extractLsb' 0 3, f.fn.getLsbD 7, f.fn.extractLsb' 0 7⟩

def M96.memOp (f : M96) : Option MemOp :=
  (Space.ofCode f.sp).map fun sp => ⟨f.sc, f.tv, f.index, f.base, f.v, sp, f.disp⟩
def M96.lo (f : M96) : LandOpt := .ofCode (f.hint.extractLsb' 9 5)
def V96.vecOp (f : V96) : VecOp := ⟨f.gs, f.sbf, f.sc, f.sb, f.sa, f.sd, f.count, f.imm⟩
def T128.tOp (f : T128) : Option TOp := do
  let tyb ← Ty.ofCode f.tyb
  let tya ← Ty.ofCode f.tya
  return ⟨f.ga, f.gb, f.gc, f.gd, f.osrc, f.fn, f.accmode, f.sb, f.sa, tyb, tya, f.acc, f.notify, f.tle, f.tl, f.step,
    f.kcnt⟩

/-- Integer and address opcodes 0x01-0x1F (R92). -/
def intInstr (op : BitVec 8) (f : A64) : Option Instr := do
  let ty ← Ty.ofCode f.ty
  match op.toNat with
  | 0x01 => return .iadd ty f.sat f.bin
  | 0x02 => return .isub ty f.sat f.bin
  | 0x03 => return .imul ty f.sat f.bin
  | 0x04 => return .imulh ty f.bin
  | 0x05 => return .idiv ty f.bin
  | 0x06 => return .irem ty f.bin
  | 0x07 => return .imin ty f.bin
  | 0x08 => return .imax ty f.bin
  | 0x09 => return .iabs ty f.sat f.un
  | 0x0A => return .and f.bin
  | 0x0B => return .or f.bin
  | 0x0C => return .xor f.bin
  | 0x0D => return .andn f.bin
  | 0x0E => return .shl ty f.bin
  | 0x0F => return .shr ty f.bin
  | 0x10 => return .sra ty f.bin
  | 0x11 => return .rol ty f.bin
  | 0x12 => return .clz ty f.un
  | 0x13 => return .ctz ty f.un
  | 0x14 => return .popc ty f.un
  | 0x15 => return .bswap ty f.un
  | 0x16 => return .bfx f.bin
  | 0x17 => return .bfi f.bin
  | 0x18 => return .iext f.bin
  | 0x19 => return .cmp (← Cc.ofCode f.fn) ty f.bin
  | 0x1A => return .sel f.bin
  | 0x1D => return .adda f.bin
  | 0x1E => return .mramk f.bin
  | 0x1F => return .self f.d
  | _ => none

/-- Control flow, presence and queues, FENCE.io and the A64 memory forms (R92). -/
def ctlInstr (op : BitVec 8) (f : A64) : Option Instr := do
  match op.toNat with
  | 0x23 => return .bcmp (← Cc.ofCode f.fn) (← Ty.ofCode f.ty) f.a f.ta f.b f.tb f.imm
  | 0x24 => return .jmp f.a f.ta
  | 0x27 => return .nop
  | 0x30 => return .empty f.d
  | 0x31 => return .markf f.d
  | 0x32 => return .probe f.d f.a
  | 0x33 => return .waitf f.a f.ta
  | 0x34 => return .qcfg f.d f.a f.imm
  | 0x35 => return .qrst f.d
  | 0x36 => return .qocc f.d f.a
  | 0x45 => return .fence
  | 0x61 => return .rsend f.d f.a f.ta f.imm (.ofCode (f.fn.extractLsb' 0 5))
  | 0x62 => return .ldx (← Sz.ofCode f.ty) (← Sm.ofCode f.md) f.shard
  | 0x63 => return .stx (← Sz.ofCode f.ty) (← Sm.ofCode f.md) f.shard
  | 0x64 => return .smfrz f.src
  | 0x65 => return .smrel f.src
  | 0x72 => return .amox (← AOp.ofCode (f.fn.extractLsb' 0 4)) (← Sz.ofCode f.ty) f.shard
  | _ => none

/-- The SFU group (R92). -/
def sfuInstr (f : A64) : Option Instr := do
  let ty ← Ty.ofCode f.ty
  let md ← Md.ofCode f.md
  match ← SfuFn.ofCode f.fn with
  | .exp2 => return .fexp2 ty md f.un
  | .log2 => return .flog2 ty md f.un
  | .rcp => return .frcp ty md f.un
  | .rsq => return .frsq ty md f.un
  | .sqrt => return .fsqrt ty md f.un
  | .sin => return .fsin ty md f.un
  | .cos => return .fcos ty md f.un
  | .tanh => return .ftanh ty md f.un

/-- Float scalar, pack and unpack (R92). -/
def floatInstr (op : BitVec 8) (f : A64) : Option Instr := do
  let ty ← Ty.ofCode f.ty
  let md ← Md.ofCode f.md
  match op.toNat with
  | 0xA0 => return .fadd ty md f.bin
  | 0xA1 => return .fsub ty md f.bin
  | 0xA2 => return .fmul ty md f.bin
  | 0xA3 => return .ffma ty md f.bin
  | 0xA4 => return .fmin ty f.bin
  | 0xA5 => return .fmax ty f.bin
  | 0xA6 => return .fabs ty f.un
  | 0xA7 => return .fneg ty f.un
  | 0xA8 => return .fcmp (← Cc.ofCode f.fn) ty f.bin
  | 0xA9 => return .fcvt ty (← Ty.ofCode (f.imm.extractLsb' 0 4)) md f.d f.a f.ta
  | 0xAA => return .fclass ty f.un
  | 0xAB => return .cvp (← PackForm.ofCode f.fn) ty md f.bin
  | 0xAC => sfuInstr f
  | 0xAD => return .cvu ty f.bin
  | _ => none

/-- Timelines, helpers, units, stages, tile buffers, spans and levels (R92). -/
def workInstr (op : BitVec 8) (f : A64) : Option Instr :=
  match op.toNat, f.fn.toNat with
  | 0xC4, _ => some (.tlwait f.tl f.src)
  | 0xC5, _ => some (.tlread f.d f.tl (f.imm.extractLsb' 0 3))
  | 0xC6, _ => some (.tlnote f.d f.a f.ta f.imm f.tl)
  | 0xC7, _ => some (.fqprst f.tl)
  | 0xD1, _ => some (.hjoin f.src)
  | 0xD2, _ => some .hexit
  | 0xD5, _ => some .yield
  | 0xD6, _ => some .uexit
  | 0xD7, 0 => some (.enq f.d f.src f.b)
  | 0xD7, 1 => some (.enqw f.d f.src f.b)
  | 0xD8, _ => some .deq
  | 0xD9, _ => some .recdone
  | 0xDA, 0 => some (.splitok f.src)
  | 0xDA, 1 => some .mergeok
  | 0xDB, 0 => some (.tballoc f.un)
  | 0xDB, 1 => some (.tbfree f.src)
  | 0xDC, 0 => (BufState.ofCode f.md).map fun st => .tbset st f.a f.ta f.b f.tb f.imm
  | 0xDC, 1 => some (.tbstat f.un)
  | 0xDD, 0 => some .spanx
  | 0xDD, 1 => some .spanc
  | 0xDE, _ => some .gbar
  | 0xDF, 0 => some (.lcnt f.d f.imm)
  | 0xDF, 1 => some (.cancel f.imm)
  | _, _ => none

/-- Poison, upcalls and system (R281). -/
def sysInstr (op : BitVec 8) (f : A64) : Option Instr :=
  match op.toNat with
  | 0xE0 => some (.pchk f.d f.a f.ta)
  | 0xE1 => some (.pclr f.d)
  | 0xE2 => some (.pset f.d)
  | 0xE5 => some .upret
  | 0xE6 => some (.upmask f.un)
  | 0xF0 => some (.trap (f.imm.extractLsb' 0 5))
  | 0xF1 => some .tret
  | 0xF2 => some (.csrr f.d (f.imm.extractLsb' 0 12))
  | 0xF3 => some (.csrw f.a f.ta (f.imm.extractLsb' 0 12))
  | 0xF4 => some (.tinv f.d f.a f.b (f.imm.extractLsb' 0 2))
  | 0xF5 => some .tsync
  | 0xF6 => some (.l2fl (f.imm.getLsbD 0))
  | 0xF7 => some .idle
  | _ => none

/-- The I96 instructions (R92). -/
def longInstr (op : BitVec 8) (f : A64) (imm : BitVec 32) : Option Instr :=
  match op.toNat with
  | 0x1B => some (.ldi f.d imm)
  | 0x20 => some (.br imm)
  | 0x21 => some (.bz f.src imm)
  | 0x22 => some (.bnz f.src imm)
  | 0x25 => some (.call f.d f.a imm)
  | 0x26 => some (.loop f.d imm)
  | 0xD0 => some (.start f.src imm)
  | 0xD3 => some (.post (f.postOp imm))
  | 0xD4 => some (.susp (f.postOp imm))
  | 0xE4 => some (.sig (imm.extractLsb' 0 24))
  | _ => none

/-- The M96 instructions (R92, R171). -/
def memInstr (op : BitVec 8) (f : M96) : Option Instr := do
  let m ← f.memOp
  match op.toNat with
  | 0x40 => return .ld (← Sz.ofCode f.sz) (← Sm.ofCode f.sm) (← Policy.ofCode f.hint) m
  | 0x41 => return .st (← Sz.ofCode f.sz) (← Sm.ofCode f.sm) (← Policy.ofCode f.hint) m
  | 0x42 => return .pref (← Level.ofCode f.hint) m
  | 0x43 => return .resid (← Level.ofCode f.hint) m
  | 0x44 => return .evict (← Level.ofCode f.hint) m
  | 0x60 => return .ldl (← Sz.ofCode f.sz) (← Sm.ofCode f.sm) (← Policy.ofCode f.hint) f.lo m
  | 0x70 => return .amo (← AOp.ofCode (f.fn.extractLsb' 0 4)) (f.fn.getLsbD 7) (← Sz.ofCode f.sz) (.ofCode (f.hint.extractLsb' 0 6)) f.lo m
  | 0x71 => return .cas (← Sz.ofCode f.sz) m
  | 0x73 => return .flagf f.lo.tl m
  | 0xE3 => return .stc (← Sz.ofCode f.sz) (← Sm.ofCode f.sm) (← Policy.ofCode f.hint) m
  | _ => none

/-- The shape-register instructions (R210 to R212). -/
def shapeInstr (op : BitVec 8) (f : V96) : Option Instr := do
  match op.toNat with
  | 0x80 => return .shld f.vecOp
  | 0x81 => return .shst f.vecOp
  | 0x82 => return .shset (← ShField.ofCode f.fn) f.vecOp
  | 0x83 => return .shadv f.vecOp
  | 0x84 => return .shrd (← ShField.ofCode f.fn) f.vecOp
  | _ => none

/-- The vector instructions (R92, R213 to R222). -/
def vecInstr (op : BitVec 8) (f : V96) : Option Instr := do
  let v := f.vecOp
  let ty ← Ty.ofCode f.ty
  let md ← Md.ofCode f.md
  match op.toNat with
  | 0x85 => return .vadd ty md v
  | 0x86 => return .vsub ty md v
  | 0x87 => return .vmul ty md v
  | 0x88 => return .vfma ty md v
  | 0x89 => return .vmin ty md v
  | 0x8A => return .vmax ty md v
  | 0x8B => return .vabs ty md v
  | 0x8C => return .vneg ty md v
  | 0x8D => return .vand ty v
  | 0x8E => return .vor ty v
  | 0x8F => return .vxor ty v
  | 0x90 => return .vshl ty v
  | 0x91 => return .vshr ty v
  | 0x92 => return .vcmp (← Cc.ofCode f.fn) ty md v
  | 0x93 => return .vsel ty v
  | 0x94 => return .vcvt ty md v
  | 0x95 => return .vcopy ty v
  | 0x96 => return .vbcst ty md v
  | 0x97 => return .vgath ty v
  | 0x98 => return .vscat ty v
  | 0x99 => return .vsum ty (f.md.getLsbD 3) v
  | 0x9A => return .vrmax ty v
  | 0x9B => return .vsfu (← SfuFn.ofCode f.fn) ty md v
  | 0x9C => return .vqnt ty md v
  | 0x9D => return .vdq ty md v
  | 0x9E => return .vpclr ty v
  | _ => none

/-- The matrix instructions and engine commands (R92). -/
def tileInstr (op : BitVec 8) (f : T128) : Option Instr := do
  let t ← f.tOp
  match op.toNat with
  | 0xB0 => return .mma t
  | 0xB1 => return .mmb t
  | 0xB2 => return .mms t
  | 0xB3 => return .mcmp t
  | 0xB4 => return .mzero t
  | 0xB5 => return .mlda t
  | 0xB6 => return .msta t
  | 0xB7 => return .mdrn t
  | 0xB8 => return .mrsum t
  | 0xB9 => return .mcsum t
  | 0xBA => return .mtbl t
  | 0xBB => return .mstat t
  | 0xC0 => return .cpy t
  | 0xC1 => return .gath t
  | 0xC2 => return .scat t
  | 0xC3 => return .coll (← CollOp.ofCode t.fn) { t with fn := 0 }
  | _ => none

/-- The instruction whose fields these are; none for an undefined coded field. -/
def Form.instr : Form → Option Instr
  | .a64 op f =>
    if op.toNat < 0x20 then intInstr op f
    else if op.toNat < 0x80 then ctlInstr op f
    else if op.toNat < 0xC0 then floatInstr op f
    else if op.toNat < 0xE0 then workInstr op f
    else sysInstr op f
  | .i96 op f imm => longInstr op f imm
  | .i128 _ d _ imm => some (.ldk d imm)
  | .m96 op f => memInstr op f
  | .v96 op f => if op.toNat < 0x85 then shapeInstr op f else vecInstr op f
  | .t128 op f => tileInstr op f

/-! ## Decoding -/

/-- Why a word is refused: the causes of R94 that the word itself decides, and PAD, which is skipped (R79). -/
inductive Reject where
  | pad       -- 0xFFFF_FFFF
  | fill      -- 003
  | crosses   -- 004
  | opcode    -- 001
  | length    -- 002
  | field     -- 005
  | code      -- 101
  | operand   -- 103
  | combo     -- 006
  | short     -- fewer parcels than the instruction has
deriving DecidableEq, Repr

/-- The cause a refusal reports (R94); none for PAD. -/
def Reject.cause : Reject → Option Cause
  | .pad | .short => none
  | .fill => some 0x003 | .crosses => some 0x004 | .opcode => some 0x001 | .length => some 0x002 | .field => some 0x005
  | .code => some 0x021 | .operand => some 0x023 | .combo => some 0x006

/-- Bytes of an instruction by L (R78). -/
def lenOf (p0 : Parcel) : Nat := 8 + 4 * (p0.toNat % 4)

/-- The fields under the opcode's format, with causes 001 and 002 (R93, R94). -/
def decodeForm (p0 : Parcel) (rest : List Parcel) : Except Reject Form :=
  match fmtOf (opOf p0) with
  | none => .error .opcode
  | some fmt =>
    if fmt.len ≠ p0.extractLsb' 0 2 then .error .length
    else match Form.ofParcels fmt (p0 :: rest) with
      | none => .error .short
      | some f => .ok f

/-- Causes 005, 101 and 103, in that order (R95). -/
def decodeFields (f : Form) (ps : List Parcel) : Except Reject Instr :=
  match f.instr with
  | none => .error .field
  | some i =>
    if encode i ≠ ps.take (encode i).length ∨ !i.coded then .error .field
    else if !i.noRsv then .error .code
    else if !i.accepted then .error .operand
    else .ok i

/-- Decode the parcels from the pc to the end of its fetch block; `off` is pc mod 32 (R79, R95). Causes 102, 108 and 006
are judged after this, where the instruction is issued. -/
def decodeParcels (off : Nat) : List Parcel → Except Reject Instr
  | [] => .error .short
  | p0 :: rest =>
    if p0 = 0xFFFFFFFF#32 then .error .pad
    else if p0.extractLsb' 0 2 = 3#2 then .error .fill
    else if 32 < off + lenOf p0 then .error .crosses
    else match decodeForm p0 rest with
      | .error e => .error e
      | .ok f => decodeFields f (p0 :: rest)

/-- Decode completely: every static cause of R94, 006 last (R95). -/
def decode (off : Nat) (ps : List Parcel) : Except Reject Instr :=
  match decodeParcels off ps with
  | .error e => .error e
  | .ok i => if i.combo then .ok i else .error .combo

/-- Parcel k of an instruction whose bits are w, bit 0 the least significant bit of parcel 0 (R3). -/
def parcelAt (w k : Nat) : Parcel := BitVec.ofNat 32 (w >>> (32 * k))

/-- The instruction the decoder reads from the low nbits of w, zero above. -/
def decodeTableWord (nbits w : Nat) : Option Instr :=
  let w := w % 2 ^ nbits
  match decode 0 [parcelAt w 0, parcelAt w 1, parcelAt w 2, parcelAt w 3] with
  | .ok i => some i
  | .error _ => none

end Sys2Proof
end

