-- ==== Sys2Proof/Machine/Cache.lean ====
section
/-!
DEFINITION. The homes of lines, and what the L2 and the stacked SRAM hold of them (R316, R321, R322, R324, R325, R327): values
stay in the memories that every agent sees, and a cache holds which lines are in it, dirty or kept. Beside them, the tables
that the package keeps itself, as memory shows them (R336, R344, R349).
-/
namespace Sys2Proof.Machine

/-! ## Homes (R13, R324) -/

/-- Compute dies present, ascending (R13, R324). -/
def State.presentDies (s : State) : List Nat := (upto 4).filter (fun d => s.dies.testBit d)

/-- The home of a GDDR7 line, of a view line or of a host line by its address (R324). -/
def State.gddrHome (s : State) (pa : Nat) : Nat :=
  let c := pa / 256 % s.gdev
  let per := s.gdev / s.presentDies.length
  s.presentDies.getD (c / per) 0 * 16 + pa / 256 / s.gdev % 16

/-- The home memory-side cache controller of a physical address (R324). -/
def State.homeOf (s : State) (pa : Nat) : Nat :=
  if inCarve pa then (pa - carveBase) / carveStep % 4 * 16 + pa / 256 % 16 else s.gddrHome pa

/-- The die that is home to a line (R324). -/
def State.dieOf (s : State) (ln : Nat) : Nat :=
  (if isHostLine ln then s.gddrHome (64 * (ln - 2 ^ 60)) else s.homeOf (64 * ln)) / 16

/-! ## The cache part of the stacked SRAM (R316, R324) -/

/-- Lines that die d's stacked SRAM can hold: 4 GiB less its carve-out steps (R316, R324, R325). -/
def State.stkRoom (s : State) (d : Nat) : Nat := 2 ^ 26 - 2 ^ 22 * ((s.carve + 3 - d) / 4)

/-- A line leaves the stacked SRAM: a view line is taken apart when it is dirty, another goes back to its memory (R327,
R333). -/
def State.stkDrop (s : State) (who : Option Nat) (ln : Nat) : State :=
  match s.stk.find? (·.line == ln) with
  | none => s
  | some l =>
    let s : State := { s with stk := s.stk.filter (·.line != ln) }
    match s.viewOf (64 * ln) with
    | some (w, n) => s.dropView w n
    | none => if l.dirty then s.verify who 1 [ln] else s

/-- A line is in the stacked SRAM, filled from its memory where fill says so; carve-out lines are not cached there. Of a
full die the oldest line that nothing keeps leaves first (R193, R324, R325; the order of replacement is a DESIGN CHOICE, log 16). -/
def State.stkPut (s : State) (who : Option Nat) (ln : Nat) (dirty keep fill : Bool) : State :=
  if !isHostLine ln && inCarve (64 * ln) then s
  else if s.stk.any (·.line == ln) then
    { s with stk := modFirst (·.line == ln) (fun l => { l with dirty := l.dirty || dirty, keep := l.keep || keep }) s.stk }
  else
    let s := if fill then s.verify who 1 [ln] else s
    let d := s.dieOf ln
    let here := s.stk.filter (fun l => s.dieOf l.line == d)
    let s := if here.length < s.stkRoom d then s
      else match here.find? (!·.keep) with
        | some l => s.stkDrop who l.line
        | none => match here with
          | l :: _ => s.stkDrop who l.line
          | [] => s
    { s with stk := s.stk ++ [⟨ln, dirty, keep⟩] }

/-! ## The L2 (R316, R321, R322) -/

/-- The lines of the L2 that a predicate picks leave it, each dirty one verified on its way to the stacked SRAM (R327). -/
def State.l2Drop (s : State) (who : Option Nat) (f : L2Line → Bool) : State :=
  let dirty := (s.l2.filter (fun l => f l && l.dirty)).map (·.pa)
  dirty.foldl (fun s ln => s.stkPut who ln true false false) { s.verify who 0 dirty with l2 := s.l2.filter (!f ·) }

/-- The L2 holds line ln under an address (R321). -/
def State.l2Hit (s : State) (asid va ln : Nat) (l : L2Line) : Bool :=
  l.slice == s.sliceOf (s.asPart asid) asid va && l.asid == asid && l.vline == va / 64 && l.pa == ln

/-- A line is in the L2 under an address; a write recalls every other copy of it first (R322). A set has 16 ways, and the
oldest line not kept leaves first (R316, R181; the order of replacement is a DESIGN CHOICE, log 16). -/
def State.l2Put (s : State) (who : Option Nat) (asid va ln : Nat) (dirty keep : Bool) : State :=
  let s := if dirty then s.l2Drop who (fun l => l.pa == ln && !s.l2Hit asid va ln l) else s
  if s.l2.any (s.l2Hit asid va ln) then
    { s with l2 := modFirst (s.l2Hit asid va ln) (fun l => { l with dirty := l.dirty || dirty, keep := l.keep || keep }) s.l2 }
  else
    let k := s.sliceOf (s.asPart asid) asid va
    let here := s.l2.filter (fun l => l.slice == k && l.vline % 1024 == va / 64 % 1024)
    let s := s.verify who 0 [ln]
    let s := if here.length < 16 then s
      else match here.find? (!·.keep) with
        | some l => s.l2Drop who (· == l)
        | none => match here with
          | l :: _ => s.l2Drop who (· == l)
          | [] => s
    { s with l2 := s.l2 ++ [⟨k, asid, va / 64, ln, dirty, keep⟩] }

/-- An access of a partition passes its line through the caches, as the leaf's memory type and the cache policy say; home
marks what the line's home performs itself: atomics, sync modes and requests of other chips (R181, R322, R324, R335, R339). -/
def State.through (s : State) (part asid va ln mt : Nat) (dirty home : Bool) (pol : Policy) : State :=
  let who := some part
  if mt == 0 && !home then
    let hit := s.l2.any (s.l2Hit asid va ln)
    if hit || pol != .streaming then
      (if hit then s else s.stkPut who ln false false true).l2Put who asid va ln dirty (pol == .keep)
    else (if dirty then s.l2Drop who (·.pa == ln) else s).stkPut who ln dirty false true
  else
    let s := s.l2Drop who (·.pa == ln)
    if mt == 2 && !s.stk.any (·.line == ln) then s.verify who 1 [ln] else s.stkPut who ln dirty false true

/-! ## The tables that the package keeps, as memory shows them (R336, R344, R349) -/

/-- Where the hold list of a thread lies: behind the gang image of its save area, or, for a unit that a continuation record
gives, in an area by the core that restores it (R344; DESIGN CHOICE, log 7). -/
def State.holdList (s : State) (e : Thread) : Nat :=
  if (s.part e.part).csaBase ≤ e.addr then e.addr + 0x3E00 else 0x4000810000 + 512 * (e.loc % 4096)

def tstNum : Tst → Nat
  | .closed => 0 | .resident => 1 | .beingSaved => 2 | .saved => 3 | .suspended => 4 | .moved => 5

/-- A TLT entry as its 32 bytes show it (R344). -/
def State.tltWord (s : State) (e : Thread) : Nat :=
  let shown := e.st == .beingSaved || e.st == .saved || e.st == .suspended
  (if shown then e.addr * 2 ^ 192 else 0) + e.launch % 2 ^ 32 * 2 ^ 160 + e.asid % 2 ^ 16 * 2 ^ 144 + e.key % 2 ^ 16 * 2 ^ 128 +
  (e.liveh.foldl (fun n h => setField n (117 + h) 1 1) 0) + e.oldloc % 2 ^ 12 * 2 ^ 100 + e.loc % 2 ^ 12 * 2 ^ 88 +
  e.part % 16 * 2 ^ 84 + e.hold.length * 2 ^ 72 + (if e.st == .moved then s.holdList e else 0) + tstNum e.st

/-- A slot as its 16 bytes show it, with its GEN (R349). -/
def slotWord (c : Slot) (gen : Nat) : Nat :=
  c.asid % 2 ^ 16 * 2 ^ 112 + c.stage % 2 ^ 8 * 2 ^ 104 + c.inst % 16 * 2 ^ 100 + c.bhi % 2 ^ 8 * 2 ^ 80 + c.blo % 2 ^ 8 * 2 ^ 72 +
  gen % 2 ^ 8 * 2 ^ 64 + c.floor % 2 ^ 7 * 2 ^ 9 + c.part % 16 * 2 ^ 5 + c.pwr % 4 * 2 ^ 3 + (if c.lend then 4 else 0) +
  (if c.mode then 2 else 0) + (if c.v then 1 else 0)

/-- n bytes of device memory show v. -/
def State.showBytes (s : State) (a n v : Nat) : State :=
  if s.mem.read a n = v then s else { s with mem := s.mem.write a n v false }

/-- The TLT entries and the slots among n bytes from pa stand in memory as the package has them (R336). -/
def State.showTables (s : State) (pa n : Nat) : State :=
  let among (base w cnt : Nat) : List Nat :=
    if n = 0 || pa + n ≤ base || base + w * cnt ≤ pa then []
    else (upto ((min (pa + n) (base + w * cnt) - 1 - base) / w + 1 - (max pa base - base) / w)).map ((max pa base - base) / w + ·)
  let s := (among s.tltBase 32 (2 ^ s.tltLog)).foldl (fun s t => s.showBytes (s.tltBase + 32 * t) 32 (s.tltWord (s.thr t))) s
  (among s.slotBase 16 4096).foldl (fun s c =>
    s.showBytes (s.slotBase + 16 * c) 16 (slotWord (s.slots.get slotBlank c) (s.gens.get 0 c))) s

/-- What n bytes from pa read is in memory: view lines assembled, the package's own tables shown (R332, R336). -/
def State.bring (s : State) (pa n : Nat) : State := (s.showTables pa n).touchView pa n

/-- An access of n bytes through a leaf: what it reads is brought in, and its line passes the caches as the leaf has it; a host
page is cached at least in the stacked SRAM (R181, R322, R324, R425). -/
def State.cacheAt (s : State) (part asid va : Nat) (tgt : Tgt) (mt n : Nat) (dirty home : Bool) (pol : Policy) : State :=
  match tgt with
  | .dev pa => (s.bring pa n).through part asid va (pa / 64) mt dirty home pol
  | .host pa => s.through part asid va (hostLine pa) (if mt == 2 then 1 else mt) dirty home pol
  | .mmio _ => s | .peer _ => s

end Sys2Proof.Machine
end

