-- ==== Sys2Proof/Machine/Csa.lean ====
section
/-!
DEFINITION. The context save area as bytes (R408 to R410): the words of a unit, and how a change to a saved unit reaches them.
-/
namespace Sys2Proof.Machine

def bufNum : BufState → Nat
  | .empty => 0 | .filling => 1 | .full => 2 | .draining => 3

/-- The descriptor as TBSTAT returns it (R275). -/
def Buf.word (b : Buf) : Nat := (if b.v then 2 ^ 24 else 0) + bufNum b.st * 2 ^ 22 + b.size % 16 * 2 ^ 18 + b.base % 2 ^ 18

/-- A list of 64-bit words from an offset. -/
def dws (off : Nat) (l : List Nat) : List (Nat × Nat) := (l.zip (upto l.length)).map (fun e => (off + 8 * e.2, e.1 % 2 ^ 64))
/-- A number of n bytes as words from an offset. -/
def dwsOf (off n v : Nat) : List (Nat × Nat) := (upto (n / 8)).map (fun i => (off + 8 * i, v / 2 ^ (64 * i) % 2 ^ 64))
/-- A number with bit i set when f i. -/
def bitsNat (n : Nat) (f : Nat → Bool) : Nat := (upto n).foldl (fun v i => if f i then v + 2 ^ i else v) 0
/-- Fields of one width, the first lowest. -/
def packNat (w : Nat) (l : List Nat) : Nat := l.foldr (fun v n => v % 2 ^ w + 2 ^ w * n) 0

def Assay.nat (a : Assay) : Nat := a.c.toNat + a.e.toNat * 2 ^ 24 + (if a.armed then 2 ^ 48 else 0)

/-- A context block (R409). -/
def Ctx.csa (c : Ctx) (off : Nat) : List (Nat × Nat) :=
  let reg (n : Nat) : GReg := c.reg n
  let flags := (if c.priv then 1 else 0) + (if c.hold then 2 else 0) + (if c.vres.kind = 1 then 4 else 0) +
    (if c.vres.kind = 2 then 8 else 0) + bitsNat 8 (fun k => (c.xreg k).p) * 2 ^ 4 +
    bitsNat 16 (fun k => (c.vres.lanes.getD k .zero).p) * 2 ^ 12 + (if c.vres.run.p then 2 ^ 28 else 0) +
    (if c.tpcSame then 2 ^ 29 else 0) + (if c.upcSame then 2 ^ 30 else 0)
  let ustat := (if c.uact then 2 else 0) + (if c.uen then 1 else 0)
  dws off ((upto 32).map (fun n => (reg n).v.toNat) ++
    [bitsNat 32 (fun n => (reg n).f) + bitsNat 32 (fun n => (reg n).p) * 2 ^ 32, c.pc.toNat, flags]) ++
  dwsOf (off + 280) 64 (packNat 16 ((upto 32).map (fun n => (reg n).depth + (reg n).q.length * 32))) ++
  dws (off + 344) [c.upc.toNat, c.ucause.toNat, c.uarg.toNat, c.uvec.toNat, ustat,
    c.tpc.toNat, c.tcause.toNat, c.taddr.toNat, c.tstat.toNat, c.tscratch.toNat,
    c.subst.toNat + c.hdrop.toNat * 2 ^ 32, c.orph.toNat + c.fmtv.toNat * 2 ^ 32,
    c.assay.nat, c.assayT.nat, c.assayU.nat, c.invIss.toNat + c.invDone.toNat * 2 ^ 32] ++
  dws (off + 472) ((upto 8).map (fun k => (c.xreg k).v.toNat)) ++
  dws (off + 536) [c.vres.addr.toNat, c.vres.cnt, c.vres.next, c.vres.run.v.toNat] ++
  dwsOf (off + 568) 64 (packNat 32 ((upto 16).map (fun k => (c.vres.lanes.getD k .zero).v.toNat)))

/-- Queue entries in register order, context by context, head first. -/
def UnitSt.queued (u : UnitSt) : List Val := u.ctxs.flatMap (fun e => if e.2.live then e.2.g.flatMap (fun r => r.2.q) else [])
/-- The helpers that are live. -/
def UnitSt.liveHelpers (u : UnitSt) : List Nat := (u.ctxs.filter (fun e => e.1 != 0 && e.2.live)).map (·.1)

/-- The header (R410). -/
def csaHeader (t : Nat) (u : UnitSt) (e : Thread) : Nat :=
  u.uidx + u.key * 2 ^ 24 + t * 2 ^ 40 + (if u.mq.isEmpty then 0 else 2 ^ 73) +
  bitsNat 10 (fun i => u.liveHelpers.contains (i + 1)) * 2 ^ 74 + (if e.img then 2 ^ 84 else 0) + (if e.rbp then 2 ^ 85 else 0) +
  (if u.phased then 2 ^ 86 else 0) + (if u.gang then 2 ^ 87 else 0) + (if u.ord then 2 ^ 88 else 0) + u.prio % 128 * 2 ^ 89 +
  u.launch % 2 ^ 32 * 2 ^ 96 + e.pend.length % 64 * 2 ^ 165 + u.queued.length % 512 * 2 ^ 171 +
  bitsNat 4 (fun n => u.satf.get false n) * 2 ^ 180 + bitsNat 8 (fun k => (u.shapes.get .reset k).p) * 2 ^ 184 +
  u.lfsr.toNat * 2 ^ 192 + bitsNat 16 (fun i => (u.l4At i).p) * 2 ^ 224 +
  packNat 8 ((upto 16).map (fun i => (u.l4At i).v.toNat)) * 2 ^ 256 +
  packNat 64 ((upto 4).map (fun i => (u.pmctl.get 0 i).toNat)) * 2 ^ 384 +
  packNat 64 ((upto 4).map (fun i => (u.pmcnt.get 0 i).toNat)) * 2 ^ 640

/-- A pending landing (R408). -/
def Landing.pendNat (l : Landing) : Nat :=
  l.val.v.toNat + (l.schip * 2 ^ 24 + l.sthread) % 2 ^ 34 * 2 ^ 72 + mraReg l.mra * 2 ^ 107 + mraCtx l.mra * 2 ^ 112 +
  (if l.val.p then 2 ^ 126 else 0) + 2 ^ 127

/-- The words of a CSA but for the local-store image. -/
def csaWords (t : Nat) (u : UnitSt) (e : Thread) (links : Tab (List Val)) : List (Nat × Nat) :=
  let acc (i : Nat) : Elem := u.acc.get .zero i
  let q := u.queued
  let link (d i : Nat) : Option Val := (links.get [] d)[i]?
  dwsOf 0 128 (csaHeader t u e) ++ (u.ctxAt 0).csa 0x80 ++
  dwsOf 0x300 320 (packNat 320 ((upto 8).map (fun k => (u.shapes.get .reset k).r.toNat))) ++
  dws 0x440 ((upto 512).map (fun i => (acc (2 * i)).v.toNat + (acc (2 * i + 1)).v.toNat * 2 ^ 32)) ++
  dwsOf 0x1440 128 (bitsNat 1024 (fun i => (acc i).p)) ++
  dwsOf 0x14C0 128 (packNat 32 ((upto 32).map (fun i => (u.bufs.get .reset i).word))) ++
  dwsOf 0x1540 192 (bitsNat 768 (fun g => u.alloc.any (fun b => b.off == 256 * g)) +
    bitsNat 768 (fun g => u.alloc.any (fun b => b.off == 256 * g && b.used)) * 2 ^ 768) ++
  (u.liveHelpers.flatMap (fun h => (u.ctxAt h).csa (0x1600 + 0x280 * (h - 1)))) ++
  (match u.mq with
    | [] => []
    | j :: _ => dwsOf 0x2F00 64 (packNat 32 ((encode j.i).map (·.toNat)) + packNat 64 (j.regs.map (·.v.toNat)) * 2 ^ 128 +
        bitsNat 5 (fun i => (j.regs.getD i .zero).p) * 2 ^ 504)) ++
  (if u.phased then dws 0x2F40 ((upto 8).map (fun i => match link (i / 2) (i % 2) with | some v => v.v.toNat | none => 0)) ++
    dws 0x2F80 [packNat 8 ((upto 4).map (fun d => bitsNat 2 (fun i => (link d i).isSome) +
      bitsNat 2 (fun i => match link d i with | some v => v.p | none => false) * 4))] else []) ++
  dws 0x3000 (q.map (·.v.toNat)) ++ dwsOf 0x3800 32 (bitsNat q.length (fun i => (q.getD i .zero).p)) ++
  (e.pend.zip (upto e.pend.length)).flatMap (fun l => dwsOf (0x3840 + 16 * l.2) 16 l.1.pendNat) ++
  (if u.gang then (e.gimg.get .reset 0).csa 0x3A80 else [])

/-- Write words into a CSA. -/
def State.putCsa (s : State) (base : Nat) (l : List (Nat × Nat)) : State :=
  { s with mem := l.foldl (fun m e => m.write (base + e.1) 8 e.2 false) s.mem }

/-- The words of thread t's CSA as they stand. -/
def State.csaOf (s : State) (t : Nat) : List (Nat × Nat) := csaWords t (s.unitAt t) (s.thr t) (s.thr t).linkImg

/-- A change to a saved unit reaches the words of its CSA that it changes. -/
def State.syncCsa (s : State) (t : Nat) (old : List (Nat × Nat)) : State :=
  s.putCsa (s.thr t).addr ((s.csaOf t).filter (fun e => !old.contains e))

/-- A reserved bit of the CSA at an address is set: of the header, or of a context block in use (R4, R409, R410). -/
def State.csaReserved (s : State) (base : Nat) (u : UnitSt) : Bool :=
  let h := s.mem.read base 128
  let block (off : Nat) : Bool :=
    s.mem.read (base + off + 632) 8 != 0 || fieldOf (s.mem.read (base + off + 272) 8) 31 33 != 0
  fieldOf h 64 9 != 0 || fieldOf h 128 37 != 0 || fieldOf h 240 16 != 0 || fieldOf h 896 128 != 0 ||
  block 0x80 || u.liveHelpers.any (fun n => block (0x1600 + 0x280 * (n - 1))) || (u.gang && block 0x3A80)

/-- The entry has a CSA whose bytes hold the unit: the save has written it (R41). -/
def Thread.imaged (e : Thread) : Bool := e.st == .beingSaved || e.st == .saved

/-- A change to a thread's unit, kept in its CSA too while it is saved (R176, R408). -/
def State.inCsa (s : State) (t : Nat) (f : State → State) : State :=
  if (s.thr t).imaged && ((f s).thr t).imaged then (f s).syncCsa t (s.csaOf t) else f s

end Sys2Proof.Machine
end

