-- ==== Sys2Proof/Machine/Mmio.lean ====
section
/-!
DEFINITION. The registers of a partition's MMIO page, its victim notify page and its ring notify pages, as reads and writes
of doublewords (R330, R353, R357, R358, R375, R393, R406, R429 to R431). A write acts only on what it names; what a request
starts is carried out by the machine steps.
-/
namespace Sys2Proof.Machine

def Part.ring (p : Part) (r : Nat) : Ring := p.rings.get .reset r
def State.modRing (s : State) (p r : Nat) (f : Ring → Ring) : State :=
  s.modPart p (fun e => { e with rings := e.rings.set r (f (e.ring r)) })
def State.setWindow (s : State) (w : Nat) (e : Window) : State := { s with windows := s.windows.set w e }

/-! ## Format windows (R353, R354, R334) -/

/-- Register k of a window, as read. -/
def Window.reg (w : Window) (k : Nat) : Nat :=
  match k with
  | 0 => (if w.en then 2 ^ 63 else 0) + (if w.err then 2 ^ 62 else 0) + w.part * 2 ^ 52 + w.k * 65536 + w.fmt * 16384
  | 1 => w.vlines * 2 ^ 32 + w.vbase
  | 2 => w.ebase
  | 3 => w.sbase
  | _ => w.obase

/-- What makes a write of EN := 1 refused (R354). -/
def State.windowBad (s : State) (wi : Nat) (w : Window) : Bool :=
  let n := 64 * w.vlines
  w.rsv != 0 || w.ty.slots < w.k || w.vlines == 0 || w.base < viewBase || mmioBase < w.base + n ||
  s.windows.any (fun e => e.1 != wi && e.2.en && e.2.base < w.base + n && w.base < e.2.base + 64 * e.2.vlines) ||
  !s.stored w.ebase (scaleByte w.ty * w.vlines) || !s.stored w.sbase w.vlines ||
  (w.k != 0 && !s.stored w.obase (3 * w.k * w.vlines))

/-- Enable a window: live, or refused with ERR (R354). -/
def State.enableWindow (s : State) (wi : Nat) : State :=
  let w := s.window wi
  if w.en then s
  else if s.windowBad wi w then s.setWindow wi { w with err := true }
  else s.setWindow wi { w with en := true, err := false }

/-- Clear a window's enable: its assembled lines are written back and dropped first (R334). -/
def State.disableWindow (s : State) (wi : Nat) : State :=
  let w := s.window wi
  if !w.en then s else
  let lines := s.views.filter (fun e => w.base / 64 ≤ e.1 && e.1 < w.base / 64 + w.vlines)
  let s := lines.foldl (fun s e => s.dropView wi (e.1 - w.base / 64)) s
  s.setWindow wi { s.window wi with en := false }

/-- A write of register k by the owner: all fields while EN = 0, EN alone while it is 1 (R353). -/
def State.writeWindow (s : State) (wi k v : Nat) : State :=
  let w := s.window wi
  if w.en then if k = 0 && !v.testBit 63 then s.disableWindow wi else s
  else
    let mark (bad : Bool) : Nat := if bad then w.rsv ||| 2 ^ k else w.rsv &&& (31 - 2 ^ k)
    match k with
    | 0 =>
      let s := s.setWindow wi { w with k := fieldOf v 16 4, fmt := fieldOf v 14 2
                                       rsv := mark (fieldOf v 20 32 != 0 || fieldOf v 0 14 != 0) }
      if v.testBit 63 then s.enableWindow wi else s
    | 1 => s.setWindow wi { w with vlines := v / 2 ^ 32, vbase := v % 2 ^ 32, rsv := mark false }
    | 2 => s.setWindow wi { w with ebase := v % 2 ^ 48, rsv := mark (v / 2 ^ 48 != 0 || v % 64 != 0) }
    | 3 => s.setWindow wi { w with sbase := v % 2 ^ 48, rsv := mark (v / 2 ^ 48 != 0) }
    | _ => s.setWindow wi { w with obase := v % 2 ^ 48, rsv := mark (v / 2 ^ 48 != 0) }

/-! ## Scheduling register (R357) -/

def Part.schedWord (p : Part) : Nat :=
  p.phi * 2 ^ 49 + p.plo * 2 ^ 42 + p.age * 2 ^ 37 + p.spin * 2 ^ 32 + p.slice * 2 ^ 27 + p.pool

/-- A supervisor write: a field outside its range stays unchanged. -/
def Part.writeSched (p : Part) (v : Nat) : Part :=
  let a := fieldOf v 37 5
  let i := fieldOf v 32 5
  let l := fieldOf v 27 5
  { p with
    age := if 12 ≤ a && a ≤ 28 then a else p.age
    spin := if 8 ≤ i && i ≤ 20 then i else p.spin
    slice := if 10 ≤ l && l ≤ 26 then l else p.slice }

/-! ## Records: clamping and reprioritising (R360, R364) -/

/-- A priority clamped into the partition's range, then to a ceiling (R360). -/
def Part.clamp (p : Part) (ceil prio : Nat) : Nat := min (max p.plo (min p.phi prio)) ceil

/-- Some core has selected a record, or a unit of it, and not yet bound it (R364). -/
def State.committed (s : State) (id : Nat) : Bool := s.cores.any (fun c => c.2.sel == some id)

/-- A source with units that no core has selected. -/
def State.moreUnits (s : State) (r : Rec) : Bool := r.k == .source && r.next < (s.launchAt (inPart r.part r.launch)).units

/-- A record has been selected by some core and is not yet bound (R364); of a source, every unit has been. -/
def State.selected (s : State) (id : Nat) : Bool := s.committed id && !s.recs.any (fun r => r.id == id && s.moreUnits r)

/-- NLAUNCH and NPRIO: the launch's records not yet selected go to the tail of the new level; one that is selected takes it
for the selections after that (R57, R364). -/
def State.reprioritise (s : State) (p l prio : Nat) : State :=
  let lvl := (s.part p).clamp (s.launchAt (inPart p l)).ceil prio
  let mine (r : Rec) : Bool := r.part == p && r.launch == l && r.place != .held
  let hit (r : Rec) : Bool := mine r && !s.selected r.id
  { s with recs := (s.recs.filter (fun r => !hit r)).map (fun (r : Rec) => if mine r then { r with due := some lvl } else r) ++
      (s.recs.filter hit).map (fun (r : Rec) => { r with level := lvl, enq := s.clk }) }

/-! ## The MMIO page (R406, R430, R431, R357, R375, R353, R393) -/

/-- The doubleword at an offset of partition p's MMIO page. -/
def State.mmioRead (s : State) (p off : Nat) : Nat :=
  let e := s.part p
  match off with
  | 0x0C0 => e.pcount
  | 0x0C8 => e.pfirst * 2 ^ 32
  | 0x100 => e.lbase.toNat
  | 0x108 => (if e.len then 2 ^ 63 else 0) + e.llog
  | 0x110 => e.lprod
  | 0x118 => e.lcons
  | 0x120 => e.llost
  | 0x200 => e.cbase.toNat
  | 0x208 => (if e.cen then 2 ^ 63 else 0) + e.clog * 65536 + e.casid
  | 0x210 => e.cprod
  | 0x218 => e.ccons
  | 0x300 => e.share.toNat
  | 0x380 => e.schedWord
  | 0x398 => (if e.stBusy then 2 ^ 63 else 0) + e.stStatus
  | _ =>
    if 0x400 ≤ off && off < 0x400 + 40 * 64 then
      let w := s.window ((off - 0x400) / 40)
      if w.part == p then w.reg ((off - 0x400) % 40 / 8) else 0
    else if 0xE00 ≤ off && off < 0xE00 + 8 * 64 then
      let w := s.window ((off - 0xE00) / 8)
      if w.part == p then w.fold else 0
    else 0

/-- A doubleword written to an offset of partition p's MMIO page. -/
def State.mmioWrite (s : State) (p off v : Nat) : State :=
  let e := s.part p
  if e.inReset then s else
  match off with
  | 0x0C0 => if v.testBit 63 then s.setPart p { e with pcount := 0, pfirst := 0 } else s
  | 0x100 => if e.len then s else s.setPart p { e with lbase := BitVec.ofNat 64 v }
  | 0x108 => if e.len then s.setPart p { e with len := v.testBit 63 }
    else s.setPart p { e with len := v.testBit 63, llog := fieldOf v 0 4 }
  | 0x118 => s.setPart p { e with lcons := v % 2 ^ 32 }
  | 0x120 => s.setPart p { e with llost := e.llost - (e.llost &&& v) }
  | 0x200 => if e.cen then s else s.setPart p { e with cbase := BitVec.ofNat 64 v }
  | 0x208 => if e.cen then s.setPart p { e with cen := v.testBit 63 }
    else s.setPart p { e with cen := v.testBit 63, clog := fieldOf v 16 4, casid := fieldOf v 0 16 }
  | 0x218 => s.setPart p { e with ccons := v % 2 ^ 32 }
  | 0x380 => s.setPart p (e.writeSched v)
  | 0x390 => s.setPart p { e with stBusy := true, stCmd := some (BitVec.ofNat 64 v) }
  | _ =>
    if 0x400 ≤ off && off < 0x400 + 40 * 64 then
      let w := (off - 0x400) / 40
      if (s.window w).part == p then s.writeWindow w ((off - 0x400) % 40 / 8) v else s
    else if 0xE00 ≤ off && off < 0xE00 + 8 * 64 then
      let w := (off - 0xE00) / 8
      if (s.window w).part == p then s.setWindow w { s.window w with fold := v % 2 ^ 48 } else s
    else s

/-! ## Notify pages (R330, R358) -/

def State.ringRead (s : State) (p r off : Nat) : Nat :=
  let e := (s.part p).ring r
  match off with
  | 0x000 => e.prod
  | 0x008 => e.cons
  | 0x010 => (if e.err then 2 ^ 63 else 0) + e.ecode
  | 0x020 => e.rbase.toNat
  | 0x028 => (if e.en then 2 ^ 63 else 0) + e.rlog * 65536 + e.rasid
  | _ => 0

def State.ringWrite (s : State) (p r off v : Nat) : State :=
  let e := (s.part p).ring r
  let put (x : Ring) : State := s.modRing p r (fun _ => x)
  if (s.part p).inReset then s else
  match off with
  | 0x000 => put { e with prod := v % 2 ^ 32 }
  | 0x010 => if v.testBit 63 then put { e with err := false } else s
  | 0x018 => s.reprioritise p (v % 2 ^ 32) (fieldOf v 32 7)
  | 0x020 => if e.en then s else put { e with rbase := BitVec.ofNat 64 v }
  | 0x028 => if e.en then put { e with en := v.testBit 63 }
    else put { e with en := v.testBit 63, rlog := fieldOf v 16 4, rasid := fieldOf v 0 16 }
  | _ => s

/-- The first doubleword of a victim request, then DONE, which makes the request (R330). -/
def State.victimWrite (s : State) (p asid off v : Nat) : State :=
  let e := s.part p
  if e.inReset then s else
  match off with
  | 0 => s.setPart p { e with vlo := BitVec.ofNat 64 v }
  | 8 => s.setPart p { e with vreqs := e.vreqs ++ [⟨asid, e.vlo, BitVec.ofNat 64 v⟩] }
  | _ => s

/-! ## The block of a partition (R429) -/

/-- The doubleword at an offset of the MMIO and notify range. -/
def State.devRead (s : State) (off : Nat) : Nat :=
  let p := off / 0x100000
  let o := off % 0x100000
  let d := o % 0x1000 / 8 * 8
  if 16 ≤ p then 0
  else if o < 0x1000 then s.mmioRead p d
  else if o < 0x2000 then 0
  else s.ringRead p (o / 0x1000 - 2) d

/-- What a doubleword write that leaves a register as it is would write; 0 for a register that a write acts on. -/
def State.devHeld (s : State) (off : Nat) : Nat :=
  let o := off % 0x100000
  let d := o % 0x1000 / 8 * 8
  if o < 0x1000 then if d = 0x0C0 || d = 0x120 || d = 0x390 then 0 else s.devRead off
  else if o < 0x2000 then (if d = 0 then (s.part (off / 0x100000)).vlo.toNat else 0)
  else if d = 0x010 || d = 0x018 then 0 else s.devRead off

/-- A write of 4 or 8 bytes to the MMIO and notify range (R182). -/
def State.devWrite (s : State) (asid off n v : Nat) : State :=
  let p := off / 0x100000
  let o := off % 0x100000
  let d := o % 0x1000 / 8 * 8
  let w := if n = 8 then v else setField (s.devHeld off) (8 * (off % 8)) 32 v
  if 16 ≤ p then s
  else if o < 0x1000 then s.mmioWrite p d w
  else if o < 0x2000 then s.victimWrite p asid d w
  else s.ringWrite p (o / 0x1000 - 2) d w

/-- A read of 4 or 8 bytes. -/
def State.devLoad (s : State) (off n : Nat) : Nat :=
  if n = 8 then s.devRead off else fieldOf (s.devRead off) (8 * (off % 8)) 32

end Sys2Proof.Machine
end

