-- ==== Sys2Proof/Machine/Access.lean ====
section
/-!
DEFINITION. The life of an access to memory: issue, the judgement at acceptance, the performing at its home, retry lists,
and the return of its value (R171 to R195, R306 to R312). A named machine step carries each stage on.
-/
namespace Sys2Proof.Machine

/-! ## Sizes and kinds -/

def szBytes : Sz → Nat
  | .b => 1 | .h => 2 | .w => 4 | .d => 8

def Req.bytes (r : Req) : Nat :=
  match r.k with
  | .rdLine => 64
  | .wrLine => r.line.length
  | _ => szBytes r.sz

/-- The access moves whole lines (SZ 4 of R416). -/
def AKind.lines (k : AKind) : Bool := k == .rdLine || k == .wrLine

/-- Landing options as the header of a packet holds them (R172, R416). -/
def loNum (l : LandOpt) : Nat := (if l.urj then 16 else 0) + (if l.tle then 8 else 0) + l.tl.toNat

/-- The access is a plain store, an atomic, or a flag write: what FLAGF covers, but for the flag itself (R192). -/
def AKind.covered : AKind → Bool
  | .st => true | .stc => true | .amo _ => true | .amol _ => true | .cas => true
  | .ld => false | .ldl => false | .flag => false | .send => false
  | .rdMat => false | .rdLine => false | .wrLine => false

/-- Held in a gang superstep: everything that changes global memory or another thread's register (R49). -/
def Req.gangHeld (r : Req) (own : Bool) : Bool :=
  match r.k with
  | .ld => r.sm == .tk
  | .ldl => r.sm == .tk || !own
  | .st => true | .stc => true | .amo _ => true | .amol _ => true | .cas => true | .flag => true | .send => !own
  | .rdMat => false | .rdLine => false | .wrLine => false

def State.req (s : State) (i : Nat) : Option Req := s.reqs.find? (·.id == i)
def State.modReq (s : State) (i : Nat) (f : Req → Req) : State := { s with reqs := modFirst (·.id == i) f s.reqs }
def State.dropReq (s : State) (i : Nat) : State := { s with reqs := dropFirst (·.id == i) s.reqs }

/-- The unit that made the access is the one its thread number names now. -/
def State.alive (s : State) (r : Req) : Bool :=
  r.chip == s.peer && (s.thr r.thread).key == r.key && (s.thr r.thread).st != .closed

/-! ## What an access does to a memory (R178, R180, R181, R186, R188, R284) -/

/-- The n bytes at a, with the bytes of poisoned granules zero (R180). -/
def PMem.substituted (m : PMem) (a : Nat) : Nat → Nat
  | 0 => 0
  | n + 1 => (if m.poisoned (a / 8) then 0 else (Memory.byte m.bytes a).toNat) + 256 * m.substituted (a + 1) n

/-- New value of an atomic operation on n bytes (R186). -/
def atomicNew (op : AOp) (n o v : Nat) : Nat :=
  let w := 8 * n
  let sel (b : Bool) : Nat := if b then o else v
  match op with
  | .add => (o + v) % 2 ^ w
  | .fadd => roundNum .f32 mdRne 0 (fvAdd mdRne (decodeNum .f32 o) (decodeNum .f32 v))
  | .min => sel (intOf w true o ≤ intOf w true v)
  | .max => sel (intOf w true v ≤ intOf w true o)
  | .umin => sel (o ≤ v)
  | .umax => sel (v ≤ o)
  | .and => o &&& v
  | .or => o ||| v
  | .xor => o ^^^ v
  | .swap => v

/-- What performing an access gives: the memory, the value with its P bit, and whether zeros were substituted. -/
structure Perf where
  mem : PMem
  val : Val
  sub : Bool
deriving DecidableEq, Repr

/-- A read of n bytes in a mode, with substitution on an error-tolerant page (R180). -/
def PMem.load (m : PMem) (a n : Nat) (et : Bool) : Val × Bool :=
  let p := m.anyPoison a n
  if et && p then (⟨BitVec.ofNat 64 (m.substituted a n), false⟩, true) else (⟨BitVec.ofNat 64 (m.read a n), p⟩, false)

/-- Perform an access at address a of a memory; none when its word's state makes it wait (R178). -/
def Req.onMem (r : Req) (m : PMem) (a : Nat) : Option Perf :=
  let n := r.bytes
  let w := a / 8
  let d := r.d.v.toNat % 2 ^ (8 * n)
  let load (full : PMem → PMem) : Perf := let v := m.load a n r.et; ⟨full m, v.1, v.2⟩
  let store (clean : Bool) : PMem :=
    let m' := if clean then m.writeClean a n d else m.write a n d r.d.p
    match r.sm with
    | .we => m'.setFull w true
    | .wf => m'.setFull w true
    | .wz => m'.setFull w false
    | .plain => m' | .rf => m' | .tk => m'
  let old : Val := ⟨BitVec.ofNat 64 (m.read a n), m.anyPoison a n⟩
  let rmw (op : AOp) : Perf :=
    ⟨m.write a n (atomicNew op n old.v.toNat d) (if op = .swap then r.d.p else old.p || r.d.p), old, false⟩
  match r.k with
  | .ld => if r.sm.waits && !m.isFull w then none else some (load (fun m => if r.sm = .tk then m.setFull w false else m))
  | .ldl => if r.sm.waits && !m.isFull w then none else some (load (fun m => if r.sm = .tk then m.setFull w false else m))
  | .st => if r.sm = .we && m.isFull w then none else some ⟨store false, .zero, false⟩
  | .stc => if r.sm = .we && m.isFull w then none else some ⟨store true, .zero, false⟩
  | .flag => some ⟨(m.write a n d r.d.p).setFull w true, .zero, false⟩
  | .amo op => some (rmw op)
  | .amol op => some (rmw op)
  | .cas =>
    some (if old.v.toNat = d then ⟨m.write a n (r.n.v.toNat % 2 ^ (8 * n)) r.n.p, old, false⟩ else ⟨m, old, false⟩)
  | .send => some ⟨m, .zero, false⟩
  | .rdMat => some (load (fun m => m))
  | .rdLine => some ⟨m, .zero, false⟩
  | .wrLine => some ⟨m.writeRun a r.line, .zero, false⟩

/-- The access writes data. -/
def Req.writes (r : Req) : Bool :=
  match r.k with
  | .ld => false | .ldl => false | .send => false | .rdMat => false | .rdLine => false
  | .wrLine => true
  | .st => true | .stc => true | .flag => true | .amo _ => true | .amol _ => true | .cas => true

/-- A memory as a gang unit's load sees it: the stores held for thread and key that were issued before number n are applied where place
puts them, one of mode .we whether its word is empty or not (R49). -/
def State.heldOver (s : State) (thread key n : Nat) (place : Tgt → Req → Option Nat) (m : PMem) : PMem :=
  s.reqs.foldl (fun m q =>
    if q.thread == thread && q.key == key && q.tag == none && q.phase == .heldGang && q.id < n &&
        (q.k == .st || q.k == .stc || q.k == .flag) then
      match place q.tgt q with
      | some a => match ({ q with sm := if q.sm = .we then .wf else q.sm } : Req).onMem m a with | some p => p.mem | none => m
      | none => m
    else m) m

/-- Where a target lies in device memory, and in host memory. -/
def Tgt.devPa : Tgt → Option Nat
  | .dev pa => some pa
  | .host _ => none | .mmio _ => none | .peer _ => none
def Tgt.hostPa : Tgt → Option Nat
  | .host pa => some pa
  | .dev _ => none | .mmio _ => none | .peer _ => none

/-- Device memory, and host memory, as a gang unit's load sees it (R49). -/
def State.heldView (s : State) (thread key n : Nat) : PMem := s.heldOver thread key n (fun t _ => t.devPa) s.mem
def State.heldHost (s : State) (thread key n : Nat) : PMem := s.heldOver thread key n (fun t _ => t.hostPa) s.hostMem

/-- A value that a peer has returned, with the unit's held stores to that peer over it (R49). -/
def State.heldPeer (s : State) (r : Req) (n : Nat) (v : Val) : Val :=
  ((s.heldOver r.thread r.key n (fun t q => if t == r.tgt then some q.ea.toNat else none)
    (PMem.blank.write r.ea.toNat r.bytes v.v.toNat v.p)).load r.ea.toNat r.bytes false).1

/-- Poisoned data written to host memory, line by line, for the reports of vector 2 (R430). -/
def State.poisonReport (s : State) (p line : Nat) : State :=
  (s.modPart p (fun e => { e with
    pcount := min (2 ^ 32 - 1) (e.pcount + 1), pfirst := if e.pcount = 0 then line * 64 / 65536 % 2 ^ 32 else e.pfirst })).irq p 2

/-- Every device copy of a host line goes back to the host (R425). -/
def State.hostRecall (s : State) (line : Nat) : State := (s.l2Drop none (·.pa == line + 2 ^ 60)).stkDrop none (line + 2 ^ 60)

/-- A host line that the package holds is tracked by the edge cache; its 8 MiB hold 131,072 lines, and of a full one the oldest line is
recalled first, so that no line is held and not tracked (R425; the order of replacement is a DESIGN CHOICE, log 16). -/
def State.track (s : State) (line : Nat) : State :=
  if s.edge.contains line then s
  else
    let s := if s.edge.length < 131072 then s else s.hostRecall (s.edge.headD 0)
    { s with edge := (if s.edge.length < 131072 then s.edge else s.edge.drop 1) ++ [line] }

/-- A load of a gang unit that is performed at once: it sees the unit's held stores (R49). -/
def State.gangLoad (s : State) (r : Req) : Bool :=
  r.tag == none && (s.unitAt r.thread).gang && !r.writes && r.sm != .tk && s.alive r

/-- Perform an access where it is addressed; none when it must wait. -/
def State.performOn (s : State) (r : Req) : Option (State × Val × Bool) :=
  match r.tgt with
  | .dev pa =>
    let s := s.bring pa r.bytes
    match r.onMem (if s.gangLoad r then s.heldView r.thread r.key r.id else s.mem) pa with
    | none => none
    | some p =>
      let s := if s.gangLoad r then s else s.keepPart pa r.bytes { s with mem := p.mem }
      some (if r.writes then s.dirtyView pa r.bytes else s, p.val, p.sub)
  | .host pa =>
    match r.onMem (if s.gangLoad r then s.heldHost r.thread r.key r.id else s.hostMem) pa with
    | none => none
    | some p =>
      let s := (if s.gangLoad r then s else { s with hostMem := p.mem }).track (pa / 64)
      some (if r.writes && p.mem.anyPoison pa r.bytes then s.poisonReport r.part (pa / 64) else s, p.val, p.sub)
  | .mmio off =>
    if r.writes then some (s.devWrite r.asid off r.bytes (r.d.v.toNat % 2 ^ (8 * r.bytes)), .zero, false)
    else some (s, ⟨BitVec.ofNat 64 (s.devLoad off r.bytes), false⟩, false)
  | .peer _ => none

/-! ## After performing (R177, R179, R183, R184, R310) -/

/-- A landing sent by an access to an MRA (R183). Of another chip's the sender is its chip and the endpoint that asked (R35). -/
def Req.landing (r : Req) (s : State) (v : Val) : Landing :=
  { schip := r.chip, sthread := r.thread, skey := if r.chip == s.peer then r.key else 0, sctx := r.ctx, sasid := r.asid
    spart := r.part, mra := r.mra
    val := v, tl := if r.lo.tle then some (r.lo.tl.toNat, r.no) else none, urj := r.lo.urj, refusedAt := none, via := none
    bounces := 0, own := false, tag := if r.chip == s.peer then none else r.tag, seq := r.id, core := r.core }

/-- The MRA of register n of the context that made the access (R177). -/
def Req.ownMra (r : Req) (n : Nat) : Word :=
  handle r.chip r.thread r.key ||| BitVec.ofNat 64 (r.ctx * 1024 + n * 32)

/-- A landing leaves: inside the package it is in flight, to another chip it goes as a packet of type 0x04 (R132, R417). -/
def State.launchLanding (s : State) (l : Landing) : State := { s with flight := s.flight ++ [l] }

/-- A landing that is issued now leaves. -/
def State.sendLanding (s : State) (l : Landing) : State :=
  { s with flight := s.flight ++ [{ l with seq := s.nextReq }], nextReq := s.nextReq + 1 }

/-- The hold of R179 ends; of an access that is satisfied it has ended. -/
def State.release (s : State) (r : Req) : State :=
  if r.sm.waits && !r.sat && s.alive r then s.modCtx r.thread r.ctx (fun c => { c with hold := false }) else s

/-- A memory access other than a load of the line breaks the run of loads (R310). -/
def Ctx.noSpin (c : Ctx) : Ctx := { c with spin := ⟨0, 0, 0⟩ }

/-- The line that a target lies on, when its loads can make a run (R310). -/
def Tgt.spinLine : Tgt → Option Nat
  | .dev pa => some (pa / 64)
  | .host pa => some (hostLine pa)
  | .mmio _ => none | .peer _ => none

/-- The run of consecutive loads of one line grows, or starts again; a change of the line ends it (R310, State.lookFresh). -/
def Ctx.spinOn (c : Ctx) (line clk : Nat) : Ctx :=
  let n := if c.spin.n != 0 && c.spin.line == line then c.spin.n + 1 else 1
  { c with spin := ⟨line, n, if n ≤ 16 then clk else c.spin.since⟩ }

/-- A load of a context has been performed: its run grows or ends (R310). -/
def State.spinNote (s : State) (r : Req) : State :=
  if r.k == .ld && r.tag == none && s.alive r then
    match r.tgt.spinLine with
    | some ln => s.modCtx r.thread r.ctx (·.spinOn ln s.clk)
    | none => s.modCtx r.thread r.ctx (·.noSpin)
  else s

/-- A run of bytes as payload words, and the poison of its granules (R416). -/
def runWords (l : List (Byte × Bool)) : List Word :=
  (upto ((l.length + 7) / 8)).map (fun i => BitVec.ofNat 64 (lineNat (((l.drop (8 * i)).take 8).map (·.1))))
def runMask (l : List (Byte × Bool)) : Nat :=
  (upto ((l.length + 7) / 8)).foldl (fun n i => if ((l.drop (8 * i)).take 8).any (·.2) then n + 2 ^ i else n) 0
/-- Payload words and their poison as a run of bytes. -/
def wordsRun (l : List Word) (mask : Nat) : List (Byte × Bool) :=
  (upto (8 * l.length)).map (fun i => (BitVec.ofNat 8 ((l.getD (i / 8) 0).toNat / 256 ^ (i % 8)), mask.testBit (i / 8)))

/-- The line that a line read returns to another chip; its hallmark is verified as it leaves (R327). -/
def State.lineOut (s : State) (r : Req) : State × List (Byte × Bool) :=
  match r.tgt with
  | .dev pa => let s := s.verify (some r.part) 6 [pa / 64]; (s, s.mem.runAt pa 64)
  | .host pa => let s := s.verify (some r.part) 6 [hostLine pa]; (s, s.hostMem.runAt pa 64)
  | .mmio _ => (s, [])
  | .peer _ => (s, [])

/-- The access has been performed with a value: what is left of it. To another chip an LDL or an AMO.l is answered here, when
it is satisfied, and again when its landing is resolved (R179, R184; log 82). -/
def State.performed (s : State) (r : Req) (v : Val) (sub : Bool) : State :=
  let s := s.release r
  let s := if sub && r.chip == s.peer then s.bump r.part r.thread r.key r.ctx .subst r.id else s
  let s := s.spinNote r
  match r.tag with
  | some g => match r.k with
    | .ldl => ((s.dropReq r.id).respond g 0x10 0 [] 0 sub).launchLanding (r.landing s v)
    | .amol _ => ((s.dropReq r.id).respond g 0x10 0 [] 0 sub).launchLanding (r.landing s v)
    | .ld => (s.dropReq r.id).respond g 0x10 0 [v.v] (if v.p then 1 else 0) sub
    | .amo _ => (s.dropReq r.id).respond g 0x10 0 [v.v] (if v.p then 1 else 0) sub
    | .cas => (s.dropReq r.id).respond g 0x10 0 [v.v] (if v.p then 1 else 0) sub
    | .st => (s.dropReq r.id).respond g 0x10 0 [] 0
    | .stc => (s.dropReq r.id).respond g 0x10 0 [] 0
    | .flag => (s.dropReq r.id).respond g 0x10 0 [] 0
    | .wrLine => (s.dropReq r.id).respond g 0x10 0 [] 0
    | .rdMat => (s.dropReq r.id).respond g 0x10 0 [v.v] (if v.p then 1 else 0) sub
    | .rdLine => let o := (s.dropReq r.id).lineOut r; o.1.respond g 0x10 0 (runWords o.2) (runMask o.2)
    | .send => s.dropReq r.id
  | none => match r.k with
    | .ldl => (s.dropReq r.id).launchLanding (r.landing s v)
    | .amol _ => (s.dropReq r.id).launchLanding (r.landing s v)
    | .ld => s.modReq r.id (fun q => { q with phase := .performed, res := v })
    | .amo _ => s.modReq r.id (fun q => { q with phase := .performed, res := v })
    | .cas => s.modReq r.id (fun q => { q with phase := .performed, res := v })
    | .st => s.dropReq r.id
    | .stc => s.dropReq r.id
    | .flag => s.dropReq r.id
    | .rdMat => s.dropReq r.id
    | .rdLine => s.dropReq r.id
    | .wrLine => s.dropReq r.id
    | .send => (s.dropReq r.id).launchLanding (r.landing s r.d)

/-! ## Retry lists (R178, R372) -/

/-- The word of a listed access. -/
def Req.word (r : Req) : Option Nat :=
  match r.tgt with
  | .dev pa => some (pa / 8)
  | .host _ => none | .mmio _ => none | .peer _ => none

/-- Entries in the retry list of the controller that is home to a word. -/
def State.listLen (s : State) (w : Nat) : Nat :=
  (s.reqs.filter (fun r => r.phase == .listed && (match r.word with
    | some v => s.homeOf (8 * v) == s.homeOf (8 * w)
    | none => false))).length

/-- One walk of the list of a word in arrival order (R178). -/
def State.walkOnce (s : State) (w : Nat) : State :=
  s.reqs.foldl (fun s r =>
    if r.phase == .listed && r.word == some w then
      match s.performOn r with
      | some (s', v, sub) => s'.performed r v sub
      | none => s
    else s) s

/-- Walks until no entry of the word can go on: a satisfied entry changes the word again. -/
def State.walkWord (s : State) (w : Nat) : Nat → State
  | 0 => s
  | n + 1 =>
    let k := (s.reqs.filter (·.phase == .listed)).length
    let s' := s.walkOnce w
    if (s'.reqs.filter (·.phase == .listed)).length == k then s' else s'.walkWord w n

/-- The state of a word has changed: walk its list (R178). -/
def State.wordChanged (s : State) (w : Nat) : State :=
  if s.reqs.any (fun r => r.phase == .listed && r.word == some w) then s.walkWord w s.reqs.length else s

/-- An access that must wait joins the list's tail, or is refused when the list is full (R178, R422). -/
def State.enlist (s : State) (r : Req) : State :=
  match r.word with
  | none => s
  | some w =>
    let rest := dropFirst (·.id == r.id) s.reqs
    if s.listLen w < 256 then
      let s := { s with reqs := rest ++ [{ r with phase := .listed }] }
      if r.tag == none && s.alive r then s.pm r.thread 12 ((s.unitAt r.thread).ctxAt r.ctx).priv else s
    else match r.tag with
      | some g => { s with reqs := rest }.respond g 0x12 0x28 [] 0
      | none => s.modReq r.id (fun q => { q with phase := .refused, at_ := s.clk })

/-- An access that program order keeps the next one behind: accepted, here or at another chip, or released by a GBAR, and
not yet performed, FLAGF's write among them (R307). A landing is none, since it takes its place when it is written (R312), but for
its turn among the accesses that a GBAR releases; an engine keeps an order of its own (R252). -/
def Req.owed (r : Req) : Bool :=
  match r.k with
  | .rdMat => false | .rdLine => false | .wrLine => false
  | .send => r.phase == .released
  | .ld | .st | .stc | .ldl | .amo _ | .amol _ | .cas | .flag =>
    !r.sat && (match r.phase with
      | .accepted => true | .released => true | .sent => true | .listed => true | .refused => true
      | .issued => false | .frozen => false | .heldGang => false | .performed => false)

/-- An access of thread t, of whatever context, that was issued before number n is still to be performed: what a landing of RSEND or
TLNOTE stands after, and what an engine command releases (R185, R252, R312). -/
def State.threadBefore (s : State) (t n : Nat) : Bool :=
  s.reqs.any (fun r => r.chip == s.peer && r.thread == t && r.tag == none && r.id < n && (r.owed || r.phase == .issued))

/-- An access of the same context that stands before this one in program order is still to be performed (R307). -/
def State.earlier (s : State) (r : Req) : Bool :=
  s.reqs.any (fun q => q.chip == r.chip && q.thread == r.thread && q.ctx == r.ctx && q.tag == r.tag && q.id < r.id && q.owed)

/-- Perform one access: at once, or into the retry list (R178, R181). -/
def State.performReq (s : State) (r : Req) : State :=
  match s.performOn r with
  | none => s.enlist r
  | some (s', v, sub) =>
    let s' := s'.performed r v sub
    match r.word with
    | some w => s'.wordChanged w
    | none => s'

/-! ## Judgement at acceptance (R187, R197) -/

/-- How an access fares at acceptance. -/
inductive Judge where
  | ok (tgt : Tgt) (et : Bool) (keep : Option Trans)
  | remote (peer : Nat)
  | trap (cause : Nat) (taddr : Word)
  | park (cause : Nat) (pte : Option Nat)    -- 501 or 601: cancelled, a monitor armed
  | consume
deriving DecidableEq, Repr

/-- Permissions in order: 502, 503, 504 (R187, R196). -/
def AKind.denied (k : AKind) (rd w atm : Bool) : Option Nat :=
  match k with
  | .ld => if rd then none else some 0x502
  | .ldl => if rd then none else some 0x502
  | .rdMat => if rd then none else some 0x502
  | .rdLine => if rd then none else some 0x502
  | .wrLine => if w then none else some 0x503
  | .st => if w then none else some 0x503
  | .stc => if w then none else some 0x503
  | .flag => if w then none else some 0x503
  | .send => none
  | .amo _ => if !rd then some 0x502 else if !w then some 0x503 else if !atm then some 0x504 else none
  | .amol _ => if !rd then some 0x502 else if !w then some 0x503 else if !atm then some 0x504 else none
  | .cas => if !rd then some 0x502 else if !w then some 0x503 else if !atm then some 0x504 else none

def AKind.atomic : AKind → Bool
  | .amo _ => true | .amol _ => true | .cas => true
  | .ld => false | .st => false | .stc => false | .ldl => false | .flag => false | .send => false
  | .rdMat => false | .rdLine => false | .wrLine => false

/-- Judge a host-delegated page that the host has translated (R428, R178). -/
def Req.onHost (r : Req) (t : Trans) : Judge :=
  match r.k.denied t.rd t.w t.atm with
  | some c => .trap c r.ea
  | none => if r.sm != .plain || r.k == .flag then .trap 0x406 r.ea else .ok (.host (t.pa r.ea.toNat)) t.et (some t)

/-- Judge an access on a page (R182, R187, R197 steps 10 to 13). A peer-aperture leaf that names this chip, and one that a
sharded access owned here meets, give 506 (DESIGN CHOICE, log 86). -/
def State.judgePage (s : State) (r : Req) (t : Trans) : Judge :=
  match t.aper with
  | 1 => r.onHost t
  | 0 =>
    match r.k.denied t.rd t.w t.atm with
    | some c => .trap c r.ea
    | none => .ok (.dev (t.pa r.ea.toNat)) t.et (some t)
  | 2 =>
    match r.k.denied t.rd t.w t.atm with
    | some c => .trap c r.ea
    | none =>
      if t.frame == s.peer || r.map.isSome then .trap 0x506 r.ea
      else match s.peerFault r.part t.frame with
        | some _ => .trap 0x801 (BitVec.ofNat 64 t.frame)
        | none => if r.k.atomic && !t.rap then .trap 0x505 r.ea else .remote t.frame
  | _ =>
    match r.k.denied t.rd t.w t.atm with
    | some c => .trap c r.ea
    | none =>
      if r.k.atomic || r.sm != .plain || r.k == .flag || r.k.lines || r.bytes < 4 || r.ea.toNat % r.bytes != 0 then .trap 0x406 r.ea
      else if r.k == .st && r.d.p then .consume
      else .ok (.mmio (t.pa r.ea.toNat - mmioBase)) false (some t)

/-- Judge an access at acceptance (R197 steps 9 to 13). -/
def State.judge (s : State) (r : Req) (ans : HostAns) : Judge :=
  match r.tgt with
  | .peer p => .remote p
  | _ =>
    match s.translate r.asid r.ea.toNat with
    | .invalid => .trap 0x506 r.ea
    | .notValid pte => .park 0x501 (some pte)
    | .page t => s.judgePage r t
    | .hostPage t =>
      let va := r.ea.toNat % 2 ^ 57
      match ans with
      | .notPresent =>
        if s.hostRefused r.part r.asid va then .trap ((r.k.denied t.rd t.w t.atm).getD 0x602) r.ea else .park 0x601 none
      | .denied => match r.k.denied t.rd t.w t.atm with
        | some c => .trap c r.ea
        | none => .trap 0x602 r.ea
      | .translated hpa lg rd w =>
        match r.k.denied t.rd t.w t.atm with
        | some c => .trap c r.ea
        | none => match r.k.denied rd w true with
          | some _ => .trap 0x602 r.ea
          | none => r.onHost (t.fromHost va hpa lg rd w)

/-- The walk of an access that this chip is to translate reads its entries (R327, R338, R392). -/
def State.walkFor (s : State) (r : Req) : State :=
  match r.tgt with
  | .peer _ => s
  | .dev _ => s.sigWalk r.asid r.ea.toNat | .host _ => s.sigWalk r.asid r.ea.toNat | .mmio _ => s.sigWalk r.asid r.ea.toNat

/-! ## Acceptance and faults (R175, R176, R184) -/

/-- A new operation on a timeline: its number; on a queue pair in error it completes at once with 0x05 (R250, R255). -/
def State.newOp (s : State) (t c tl : Nat) (k : OpKind) (uf gang : Bool) : State × Nat × Bool :=
  let e := s.thr t
  let x := e.tls.get .reset tl
  let no := x.iss + 1
  let op : EngOp := { ctx := c, tl := tl, no := no, k := k, uf := uf, pos := 0, buf := [], hm := none, idx := none
                      core := e.loc, heldGang := gang, sent := false, seq := s.nextReq }
  let s : State := s.setThr t { e with tls := e.tls.set tl { x with iss := no }, ops := e.ops ++ [op] }
  if x.qpErr then (s.opEnd t tl no 5 0 0, no, false) else (s, no, true)

/-- The issuing context after acceptance: takes are final, a shadow destination still waits (R176, R177). -/
def State.settle (s : State) (r : Req) : State :=
  if !s.alive r then s else
  let shadow := match r.dst with | .x _ => true | .g _ => false | .link _ => false | .imm => false | .rsv _ => false
  let c := (s.unitAt r.thread).ctxAt r.ctx
  let s : State := s.modCtx r.thread r.ctx (fun c => { c with
    taken := [], busy := if shadow then .shadow r.id else .no, hold := r.sm.waits, waitSince := s.clk, assay := c.assay.feed r.ir })
  ((s.pm r.thread 1 c.priv).pm r.thread 11 c.priv).drain (s.thr r.thread).loc

/-- The target lies in global memory; MMIO and notify pages stand outside its order, and no gang holds their accesses (R182,
R306; DEDUCED, log 87). -/
def Tgt.global : Tgt → Bool
  | .mmio _ => false
  | .dev _ => true | .host _ => true | .peer _ => true

/-- An access of a gang unit is held to the GBAR wherever it goes (R49). -/
def State.holds (s : State) (r : Req) : Bool :=
  r.tag == none && (s.unitAt r.thread).gang && r.gangHeld (mraThread r.mra == r.thread && mraChip r.mra == s.peer)

/-- The access is accepted with a target: performed later, or held to the GBAR (R49, R175). A FLAGF finds the covered stores
that have failed already (R192). -/
def State.acceptReq (s : State) (r : Req) (tgt : Tgt) (et : Bool) : State :=
  let gang := s.holds r && tgt.global
  let home := match tgt with | .peer p => p | .dev _ => s.peer | .host _ => s.peer | .mmio _ => s.peer
  let kind : OpKind := match r.k with
    | .flag => .flagf r.ea r.d home
    | _ => .land
  let o := if r.tag == none && r.lo.tle && s.alive r then s.newOp r.thread r.ctx r.lo.tl.toNat kind false gang else (s, 0, true)
  let s : State := o.1
  let failed := if r.k == .flag && s.alive r then (s.thr r.thread).fails.find? (·.1 == home) else none
  let r' := { r with
    tgt := tgt, et := et, no := o.2.1, phase := if gang then .heldGang else .accepted, sub := failed.isSome
    res := match failed with | some a => ⟨a.2, false⟩ | none => r.res }
  let s := s.settle r'
  if o.2.2 then s.modReq r.id (fun _ => r') else (s.release r').dropReq r.id

/-- Each register that an unaccepted access took is full again, with its value (R176). -/
def Ctx.untake (c : Ctx) : Ctx :=
  let c' := c.taken.foldr (fun e c =>
    let r := c.reg e.1
    c.setReg e.1 (if r.depth = 0 then { r with v := e.2.v, p := e.2.p, f := true } else { r with q := e.2 :: r.q })) c
  { c' with taken := [] }

/-- Undo the issue of an unaccepted access in its context (R176). -/
def State.unissue (s : State) (r : Req) : State :=
  (s.modCtx r.thread r.ctx (fun c => { c.untake with pc := r.pc, busy := .no })).dropReq r.id

/-- The supervisor log's entry for an absent peer (R196, R407). -/
def State.logPeer (s : State) (r : Req) (peer : Nat) (detail : Nat) : State :=
  s.log r.part 1 (cz 0x801) (BitVec.ofNat 64 peer) r.thread (s.thr r.thread).launch detail

/-- An unaccepted access raises a trap at its instruction (R175, R176). -/
def State.trapReq (s : State) (r : Req) (cause : Nat) (taddr : Word) : State :=
  let s := if cause = 0x801 then s.logPeer r taddr.toNat ((s.peerFault r.part taddr.toNat).getD 2) else s
  let s := if cause = 0x506 then s.logWalk r.part r.asid r.ea.toNat else s
  let s := if cause = 0x702 then s.logMap r.part r.asid taddr.toNat r.coords else s
  if s.alive r then s.inCsa r.thread (fun s => (s.unissue r).trapAt r.thread r.ctx (cz cause) r.pc taddr) else s.dropReq r.id

/-- A page request goes to the host, or waits inside the device while the function's allocation is used up; one for a page that is asked for
already is not made again (R428). -/
def State.askHost (s : State) (part asid : Nat) (va : Word) : State :=
  let e := (part, asid, va)
  if s.priOut.contains e || s.priWait.contains e then s
  else if (s.priOut.filter (·.1 == part)).length < (s.part part).priAlloc then { s with priOut := s.priOut ++ [e] }
  else { s with priWait := s.priWait ++ [e] }

/-- The oldest waiting page request of a function goes to the host, when its allocation has room (R428). -/
def State.priNext (s : State) (part : Nat) : State :=
  match s.priWait.find? (·.1 == part) with
  | none => s
  | some e =>
    if (s.priOut.filter (·.1 == part)).length < (s.part part).priAlloc then
      { s with priOut := s.priOut ++ [e], priWait := dropFirst (· == e) s.priWait }
    else s

/-- An unaccepted access is cancelled for its page, with a monitor; the fault is an upcall where R294 allows (R68, R340). -/
def State.parkReq (s : State) (r : Req) (cause : Nat) (pte : Option Nat) : State :=
  let s : State := { s with monitors := s.monitors ++ [⟨pte, r.part, r.asid, r.ea, s.peer, r.thread, r.key, r.ctx, false⟩] }
  let s := if pte == none then s.askHost r.part r.asid r.ea else s
  if s.alive r then s.inCsa r.thread (fun s => (s.unissue r).syncUpcall r.thread r.ctx (cz cause) r.pc r.ea) else s.dropReq r.id

/-- Poisoned data for an MMIO or notify page (A06). -/
def State.consumeReq (s : State) (r : Req) : State :=
  if s.alive r then s.inCsa r.thread (fun s => (s.unissue r).consumeAt r.thread r.ctx (cz 0xA06) r.pc r.ea) else s.dropReq r.id

/-! ## Requests to other chips (R416, R417, R420) -/

/-- Packet type, atomic operation and payload of a request (R417). A clean write (R284) is told from another by AOP 1, which a
write does not use otherwise (DESIGN CHOICE, log 25). -/
def Req.body (r : Req) : Nat × Nat × List Word :=
  match r.k with
  | .ld => (0, 0, [])
  | .st => (1, 0, [r.d.v])
  | .stc => (1, 1, [r.d.v])
  | .flag => (1, 0, [r.d.v])
  | .amo op => (2, op.num, [r.d.v])
  | .cas => (3, 0, [r.d.v, r.n.v])
  | .send => (4, 0, [r.d.v])
  | .ldl => if r.near then (0, 0, []) else (5, 0, [r.mra])
  | .amol op => (5, op.num, [r.mra, r.d.v])
  | .rdMat => (0, 0, [])
  | .rdLine => (0, 0, [])
  | .wrLine => (1, 0, runWords r.line)

/-- ADDR of the request: the MRA of a landing, else the address (R416). -/
def Req.wire (r : Req) : Word := if r.k == .send then r.mra else r.ea

/-- SZ of the request (R416). -/
def Req.size (r : Req) : Nat := if r.k == .rdLine || r.line.length == 64 then 4 else r.sz.num

/-- The request packet of an access (R416). A request to a home names core 0 of cluster 0 of the chip as its destination
(DESIGN CHOICE, log 84). -/
def State.packetOf (s : State) (r : Req) (peer tag : Nat) : Packet :=
  let b := r.body
  { pmask := if r.k == .wrLine then runMask r.line
      else (if r.k != .stc && r.d.p then 1 else 0) + (if r.k == .cas && r.n.p then 2 else 0)
    status := 0, tag := tag, nl := (b.2.2.length + 7) / 8, sz := r.size
    sm := if r.k == .flag then 4 else r.sm.num, aop := b.2.1
    lo := loNum r.lo, sh := r.map.isSome, typ := b.1
    asid := r.asid, tenant := (s.part r.part).tenant, src := s.peer * 4096 + r.core, dst := peer * 4096
    addr := r.wire, payload := b.2.2 }

/-- Send the request of an access to a peer: it waits for the response (R417, R422). The tag of an engine operation's, and of a
landing that a timeline numbers, is bits 15:0 of the operation number (R416, log 84). -/
def State.sendReq (s : State) (r : Req) (peer : Nat) : State :=
  let tag := if (r.k.lines || r.k == .send) && r.lo.tle then r.no % 65536 else s.nextTag
  let s : State := { s with nextTag := (s.nextTag + 1) % 65536 }
  (s.sendPacket peer (s.packetOf r peer tag)).modReq r.id (fun q => { q with phase := .sent, tgt := .peer peer, ptag := tag })

/-- The home performs the access itself: an atomic, a sync mode, FLAGF (R178, R186). -/
def Req.atHome (r : Req) : Bool := r.k.atomic || r.sm != .plain || r.k == .flag

/-- The line of an access passes through the caches as its leaf has it (R181, R322, R324). -/
def State.cacheReq (s : State) (r : Req) (tgt : Tgt) (mt : Nat) : State :=
  s.cacheAt r.part r.asid r.ea.toNat tgt mt r.bytes r.writes r.atHome r.pol

/-- One unaccepted access meets its judgement (R175). -/
def State.acceptStep (s : State) (r : Req) (ans : HostAns) : State :=
  match s.judge r ans with
  | .trap c a => s.trapReq r c a
  | .park c pte => s.parkReq r c pte
  | .consume => s.consumeReq r
  | .remote p =>
    if r.k == .flag || s.holds r then s.acceptReq r (.peer p) false
    else
      let r := { r with near := r.k == .ldl && (s.unitAt r.thread).gang }
      (s.modReq r.id (fun _ => r)).sendReq r p
  | .ok tgt et keep =>
    let s := match keep with | some t => s.keepTrans r.asid r.ea.toNat t | none => s
    let s := match keep with | some t => s.cacheReq r tgt t.mt | none => s
    s.acceptReq r tgt et

/-! ## Order of a context's own accesses (R179, R185, R307, R312) -/

/-- An access of context c of thread t is still to be performed: the next one keeps its order behind it (R307). -/
def State.ctxOwes (s : State) (t c : Nat) : Bool :=
  s.reqs.any (fun r => r.chip == s.peer && r.thread == t && r.ctx == c && r.tag == none && r.owed)

/-- The acting context has such an access. -/
def State.owes (s : State) : Bool := s.ctxOwes s.th s.ctx

/-- An access of thread t is still to be performed. -/
def State.threadOwes (s : State) (t : Nat) : Bool := s.threadBefore t s.nextReq

/-- An access of the acting context that its next access to memory, of whatever family, stands behind: one not yet performed, or
a sync-mode one not yet satisfied (R179, R307). -/
def State.inOrder (s : State) : Bool := !s.cx.hold && !s.owes

/-! ## Local stores (R51, R200, R317 to R320) -/

/-- The snapshot log takes the old contents of the 256-byte granules that n bytes from a touch; none when it would
overflow (R51). -/
def State.snapLog (s : State) (k a n : Nat) : Option State :=
  let t := (s.coreAt k).thread
  if (s.coreAt k).st == .idle || !(s.unitAt t).gang || n = 0 then some s
  else
    let e := s.thr t
    let m := s.lsOf k
    let new := ((upto ((a + n - 1) / 256 - a / 256 + 1)).map (a / 256 + ·)).filter (fun g => !e.snap.any (·.1 == g))
    if 256 * ((s.launchAt (inPart e.part e.launch)).logsz + 1) < e.snap.length + new.length then none
    else some (s.setThr t { e with
      snap := new.foldl (fun l g => l.set g (m.bytesAt (256 * g) 256, (upto 32).map (fun i => m.poisoned (32 * g + i)))) e.snap })

/-- A write to core k's local store, logged first in a gang (R51). -/
def State.lsWrite (s : State) (k a n : Nat) (f : PMem → PMem) : Option State :=
  (s.snapLog k a n).map (fun s => s.setLs k (f (s.lsOf k)))

/-- The snapshot log of core k's unit would overflow: D0A in that unit (R51). -/
def State.snapOverflow (s : State) (k : Nat) : State :=
  let t := (s.coreAt k).thread
  let c := if t == s.th then s.ctx else 0
  let x := (s.unitAt t).ctxAt c
  s.consumeAt t c (cz 0xD0A) x.pc x.pc

end Sys2Proof.Machine
end

