-- ==== Sys2Proof/Machine/Bulk.lean ====
section
/-!
DEFINITION. Accesses of the engines and of the matrix unit through an address space: where they lie and how they fail, as
a timeline status (R228, R248 to R250, R422).
-/
namespace Sys2Proof.Machine

/-- Where a bulk access lies, or the status that ends its operation. -/
inductive Bulk where
  | dev (t : Trans) (pa : Nat)
  | host (t : Trans) (pa : Nat)
  | remote (peer : Nat)
  | fail (status : Nat)
deriving DecidableEq, Repr

/-- On a host page. -/
def Bulk.onHost (t : Trans) (va : Word) (write : Bool) : Bulk :=
  if (if write then t.w else t.rd) then .host t (t.pa va.toNat) else .fail 2

/-- Translate a bulk access (R250, R422): 0x0C, 0x01, 0x02, 0x03. -/
def State.bulkAt (s : State) (part asid : Nat) (va : Word) (write : Bool) (ans : HostAns) : Bulk :=
  if !canonical va then .fail 0x0C
  else match s.translate asid va.toNat with
    | .notValid _ => .fail 1
    | .invalid => .fail 2
    | .hostPage t => match ans with
      | .notPresent => .fail 1
      | .denied => .fail 2
      | .translated hpa lg rd w => Bulk.onHost (t.fromHost va.toNat hpa lg rd w) va write
    | .page t => match t.aper with
      | 0 => if (if write then t.w else t.rd) then .dev t (t.pa va.toNat) else .fail 2
      | 1 => Bulk.onHost t va write
      | 2 =>
        if !(if write then t.w else t.rd) || t.frame == s.peer then .fail 2
        else if (s.peerFault part t.frame).isSome then .fail 3 else .remote t.frame
      | _ => .fail 2

/-- A bulk read of n bytes inside one line: the state after it, and the bytes. The line moves as a load's does; an engine
verifies its hallmark besides (R228, R249, R327). -/
def State.bulkRead (s : State) (asid part : Nat) (va : Word) (n : Nat) (check : Bool) : Bulk → State × List (Byte × Bool)
  | .dev t pa =>
    let s := (s.keepTrans asid va.toNat t).cacheAt part asid va.toNat (.dev pa) t.mt n false false .normal
    let s := if check then s.verify (some part) 3 [pa / 64] else s
    (s, s.mem.runAt pa n)
  | .host t pa =>
    let s := ((s.keepTrans asid va.toNat t).cacheAt part asid va.toNat (.host pa) t.mt n false false .normal).track (pa / 64)
    let s := if check then s.verify (some part) 3 [hostLine pa] else s
    (s, s.hostMem.runAt pa n)
  | .remote _ => (s, [])
  | .fail _ => (s, [])

/-- The leaf is error-tolerant. -/
def Bulk.et : Bulk → Bool
  | .dev t _ => t.et
  | .host t _ => t.et
  | .remote _ => false
  | .fail _ => false

/-- A bulk write inside one line; poison written to host memory is reported (R430). A whole line that kept its hallmark
keeps it (R249). -/
def State.bulkWrite (s : State) (asid part : Nat) (va : Word) (l : List (Byte × Bool)) : Bulk → State
  | .dev t pa =>
    let s := (s.keepTrans asid va.toNat t).cacheAt part asid va.toNat (.dev pa) t.mt l.length true false .normal
    (s.keepPart pa l.length { s with mem := s.mem.writeRun pa l }).dirtyView pa l.length
  | .host t pa =>
    let s := ((s.keepTrans asid va.toNat t).cacheAt part asid va.toNat (.host pa) t.mt l.length true false .normal).track (pa / 64)
    let s : State := { s with hostMem := s.hostMem.writeRun pa l }
    if l.any (·.2) then s.poisonReport part (pa / 64) else s
  | .remote _ => s
  | .fail _ => s

end Sys2Proof.Machine
end

