-- ==== Sys2Proof/Machine/Mem.lean ====
section
/-!
DEFINITION. The meanings of the memory, landing and sharded instructions (R171 to R197) and of STC (R284).
-/
namespace Sys2Proof.Machine

/-! ## The mould of a memory instruction -/

/-- Issue of a memory instruction: it waits while an earlier sync access holds the context, or for an operand (R175, R179). -/
def memory (s : State) (p : Ctl) : Out :=
  if !s.runs then .fault .noContext
  else if !s.inOrder then .next (s.waits .hold)
  else match s.srcVals p.imm [] p.srcs with
    | none => .next (s.awaits p.imm p.srcs)
    | some vs => match p.chk vs with
      | some e => .next (s.raise e)
      | none => .next ((p.act s vs).drain s.core)

/-- The unit has its 256 operations outstanding (R247, R356). -/
def State.opsFull (s : State) : Bool := 256 ≤ (s.thr s.th).ops.length

/-- A memory instruction that may run under a timeline. -/
def memoryTl (s : State) (tle : Bool) (p : Ctl) : Out :=
  if s.runs && tle && s.opsFull then .next (s.waits .engines) else memory s p

/-- An access of the acting context, before acceptance. -/
def State.newReq (s : State) (k : AKind) (ea : Word) (sz : Sz) (sm : Sm) (pol : Policy := .normal) : Req :=
  { id := s.nextReq, chip := s.peer, thread := s.th, key := s.un.key, ctx := s.ctx, asid := s.un.asid, part := s.un.part
    core := s.core, pc := s.cx.pc, k := k, ea := ea, sz := sz, sm := sm, dst := .g 0, mra := 0, lo := ⟨false, false, 0⟩
    no := 0, d := .zero, n := .zero, line := [], map := none, coords := [], phase := .issued, tgt := .dev 0, et := false, at_ := 0
    res := .zero, sub := false, tag := none, ir := s.ir, ptag := 0, pol := pol }

/-- Put an access in flight. -/
def State.pushReq (s : State) (r : Req) : State := { s with reqs := s.reqs ++ [r], nextReq := s.nextReq + 1 }

/-- The values that the takes of an instruction remove, for R176; a plain register counts once. -/
def State.takenVals (s : State) (l : List SrcOp) : List (Nat × Val) :=
  (l.foldl (fun (x : List (Nat × Val) × List SrcOp) o =>
    let keep := match o.1 with
      | .g n => if o.2 && n != 0 && ((s.cx.reg n.toNat).depth != 0 || !x.1.any (·.1 == n.toNat)) then
          (match s.srcVal 0 x.2 o with | some v => [(n.toNat, v)] | none => []) else []
      | .link _ => [] | .x _ => [] | .imm => [] | .rsv _ => []
    (x.1 ++ keep, x.2 ++ [o])) ([], [])).1

/-- Issue an access that is accepted later: takes are kept, the pc follows the instruction (R175, R176, R39). -/
def State.issueReq (s : State) (r : Req) (takes : List SrcOp) : State :=
  let tk := s.takenVals takes
  let s := s.takeAll takes
  let c := s.cx
  let c := if r.k == .ld then c else c.noSpin
  (s.setCx { c with pc := s.nextPc, wait := .no, busy := .access r.id, taken := tk }).pushReq r

/-- Retire an access that was accepted at issue. -/
def State.retireMem (s : State) (takes : List SrcOp) : State :=
  let s := s.takeAll takes
  (s.setCx s.cx.noSpin).retire

/-! ## Addresses (R173, R174, R320) -/

/-- Effective address from the values of BASE and INDEX. -/
def memEa (m : MemOp) (b x : Val) : Word := b.v + (x.v <<< m.sc.toNat) + m.disp.signExtend 64

/-- Core and offset of a local access (R173). -/
def State.lsTarget (s : State) (sp : Space) (ea : Word) : Nat × Nat :=
  match sp with
  | .cl => (s.core / 64 * 64 + ea.toNat / 2 ^ 18 % 64, ea.toNat % 2 ^ 18)
  | .ls => (s.core, ea.toNat)
  | .glob => (s.core, ea.toNat)

/-- The unit is in a compute span of a phased launch (R45). -/
def State.inCompute (s : State) : Bool := s.un.phased && !s.un.exchange

/-- Range checks of an effective address, then D08 (R47, R197 step 4). -/
def State.rangeChk (s : State) (sp : Space) (ea : Word) : List (Bool × Exc) :=
  [(sp == .glob && !canonical ea, .trap (cz 0x403) ea),
   (sp == .ls && 0x30000 ≤ ea.toNat, .trap (cz 0x301) ea),
   (sp == .cl && (ea.toNat / 2 ^ 24 != 0 || 0x30000 ≤ ea.toNat % 2 ^ 18), .trap (cz 0x302) ea),
   (s.inCompute && (sp == .glob || (sp == .cl && (s.lsTarget sp ea).1 != s.core)), .trap (cz 0xD08) s.cx.pc)]

/-- Alignment, binding and tile-buffer checks (R174, R197 steps 7 and 8). -/
def State.placeChk (s : State) (sp : Space) (ea : Word) (n : Nat) (strict write : Bool) : List (Bool × Exc) :=
  let t := s.lsTarget sp ea
  [(ea.toNat % n != 0, .trap (cz (if strict then 0x405 else 0x404)) ea),
   (sp == .cl && t.1 != s.core && !s.boundTo t.1 s.un.part, .trap (cz 0x30D) ea),
   (sp != .glob && !s.lsPermits t.1 s.th t.2 n write, .trap (cz 0x303) ea)]

/-- The MRA checks of R132 but for poison: 901 here, an absent peer later (R197). -/
def mraChk (m : Word) : Bool × Exc := (m.toNat % 32 != 0, .trap (cz 0x901) m)
def State.chipChk (s : State) (m : Word) : Bool × Exc :=
  ((s.peerFault s.un.part (mraChip m)).isSome, .trap (cz 0x801) (BitVec.ofNat 64 (mraChip m)))

/-! ## LD and ST (R181, R318, R320) -/

/-- A value read at issue goes on its way to its destination (R177). -/
def State.returnVal (s : State) (dst : Opd) (v : Val) (takes : List SrcOp) : State :=
  let r := { s.newReq .ld 0 .d .plain with dst := dst, phase := .performed, res := v }
  let s := s.retireMem takes
  match dst with
  | .g n => if n = 0 then s else s.pushReq r
  | .x _ => (s.setCx { s.cx with busy := .shadow r.id }).pushReq r
  | .link _ => s | .imm => s | .rsv _ => s

/-- LD. -/
def execLd (sz : Sz) (sm : Sm) (pol : Policy) (m : MemOp) (s : State) : Out :=
  let n := szBytes sz
  let ea (vs : List Val) : Word := memEa m (vat vs 0) (vat vs 1)
  memory s
    { srcs := [(m.base, false), (m.index, false)], imm := 0
      chk := fun vs => firstExc ((anyP vs, .consume (cz 0xA03) s.ip) :: s.rangeChk m.sp (ea vs) ++
        s.placeChk m.sp (ea vs) n (sm != .plain) false)
      act := fun s vs =>
        if m.sp == .glob then s.issueReq { s.newReq .ld (ea vs) sz sm pol with dst := m.v } []
        else
          let t := s.lsTarget m.sp (ea vs)
          s.returnVal m.v ((s.lsOf t.1).load t.2 n false).1 [] }

/-- A store: to global memory, or at once to a local store. -/
def store (k : AKind) (sz : Sz) (sm : Sm) (pol : Policy) (m : MemOp) (s : State) : Out :=
  let n := szBytes sz
  let ea (vs : List Val) : Word := memEa m (vat vs 0) (vat vs 1)
  let srcs : List SrcOp := [(m.base, false), (m.index, false), (m.v, m.tv)]
  memory s
    { srcs := srcs, imm := 0
      chk := fun vs => firstExc (((vat vs 0).p || (vat vs 1).p, .consume (cz 0xA03) s.ip) :: s.rangeChk m.sp (ea vs) ++
        s.placeChk m.sp (ea vs) n (sm != .plain) true)
      act := fun s vs =>
        if m.sp == .glob then s.issueReq { s.newReq k (ea vs) sz sm pol with d := vat vs 2 } srcs
        else
          let t := s.lsTarget m.sp (ea vs)
          let v := (vat vs 2).v.toNat % 2 ^ (8 * n)
          match s.lsWrite t.1 t.2 n (fun l => if k = .stc then l.writeClean t.2 n v else l.write t.2 n v (vat vs 2).p) with
          | some s => s.retireMem srcs
          | none => s.snapOverflow t.1 }

/-- ST. -/
def execSt (sz : Sz) (sm : Sm) (pol : Policy) (m : MemOp) (s : State) : Out := store .st sz sm pol m s

/-- STC: as ST, and every granule touched ends clean (R284). -/
def execStc (sz : Sz) (sm : Sm) (pol : Policy) (m : MemOp) (s : State) : Out := store .stc sz sm pol m s

/-! ## LDL and RSEND (R183 to R185) -/

/-- A landing made at issue: numbered on its timeline, held in a gang superstep, else sent (R49, R184). -/
def State.sendNow (s : State) (lo : LandOpt) (mra : Word) (v : Val) : State :=
  let own := mraThread mra == s.th && mraChip mra == s.peer
  let gang := s.un.gang && !own
  let o := if lo.tle then s.newOp s.th s.ctx lo.tl.toNat .land false gang else (s, 0, true)
  let r := { s.newReq .send 0 .d .plain with mra := mra, lo := lo, no := o.2.1, d := v
                                             phase := if gang then .heldGang else .accepted }
  let s : State := o.1
  if !o.2.2 then s else if gang then s.pushReq r else s.sendLanding (r.landing s v)

/-- LDL. -/
def execLdl (sz : Sz) (sm : Sm) (pol : Policy) (lo : LandOpt) (m : MemOp) (s : State) : Out :=
  let n := szBytes sz
  let ea (vs : List Val) : Word := memEa m (vat vs 0) (vat vs 1)
  let srcs : List SrcOp := [(m.base, false), (m.index, false), (m.v, m.tv)]
  memoryTl s lo.tle
    { srcs := srcs, imm := 0
      chk := fun vs => firstExc (
        [((vat vs 0).p || (vat vs 1).p, .consume (cz 0xA03) s.ip), ((vat vs 2).p, .consume (cz 0xA04) s.ip),
         mraChk (vat vs 2).v] ++ s.rangeChk m.sp (ea vs) ++ [s.chipChk (vat vs 2).v] ++
        s.placeChk m.sp (ea vs) n (sm != .plain) false)
      act := fun s vs =>
        if m.sp == .glob then s.issueReq { s.newReq .ldl (ea vs) sz sm pol with mra := (vat vs 2).v, lo := lo } srcs
        else
          let t := s.lsTarget m.sp (ea vs)
          let v := ((s.lsOf t.1).load t.2 n false).1
          (s.retireMem srcs).sendNow lo (vat vs 2).v v }

/-- RSEND: its landing stands after every access that the thread has made (R185). -/
def execRsend (d a : Opd) (ta : Bool) (imm : BitVec 16) (lo : LandOpt) (s : State) : Out :=
  let srcs : List SrcOp := [(d, false), (a, ta)]
  if s.runs && s.threadOwes s.th then .next (s.waits .hold)
  else memoryTl s lo.tle
    { srcs := srcs, imm := sx16 imm
      chk := fun vs => firstExc
        [((vat vs 0).p, .consume (cz 0xA04) s.ip), mraChk (vat vs 0).v, s.chipChk (vat vs 0).v]
      act := fun s vs => (s.retireMem srcs).sendNow lo (vat vs 0).v (vat vs 1) }

/-! ## Atomics (R186 to R188) -/

/-- AMO. -/
def execAmo (op : AOp) (l : Bool) (sz : Sz) (mreg : Opd) (lo : LandOpt) (m : MemOp) (s : State) : Out :=
  let ea (vs : List Val) : Word := memEa m (vat vs 0) (vat vs 1)
  let srcs : List SrcOp := [(m.base, false), (m.index, false), (m.v, !l || m.tv)] ++ (if l then [(mreg, false)] else [])
  memoryTl s (l && lo.tle)
    { srcs := srcs, imm := 0
      chk := fun vs => firstExc (
        [((vat vs 0).p || (vat vs 1).p, .consume (cz 0xA03) s.ip), (l && (vat vs 3).p, .consume (cz 0xA04) s.ip)] ++
        (if l then [mraChk (vat vs 3).v] else []) ++ s.rangeChk m.sp (ea vs) ++
        (if l then [s.chipChk (vat vs 3).v] else []) ++ s.placeChk m.sp (ea vs) (szBytes sz) true true)
      act := fun s vs =>
        let r := { s.newReq (if l then .amol op else .amo op) (ea vs) sz .plain with d := vat vs 2 }
        s.issueReq (if l then { r with mra := (vat vs 3).v, lo := lo } else { r with dst := m.v }) srcs }

/-- CAS: INDEX names the new value; INDEX 63 names none, and the new value is then 0 with P = 0 (DESIGN CHOICE, log 94). -/
def execCas (sz : Sz) (m : MemOp) (s : State) : Out :=
  let ea (vs : List Val) : Word := (vat vs 0).v + m.disp.signExtend 64
  let srcs : List SrcOp := [(m.base, false), (m.index, false), (m.v, true)]
  memory s
    { srcs := srcs, imm := 0
      chk := fun vs => firstExc (((vat vs 0).p, .consume (cz 0xA03) s.ip) :: s.rangeChk m.sp (ea vs) ++
        s.placeChk m.sp (ea vs) (szBytes sz) true true)
      act := fun s vs =>
        s.issueReq { s.newReq .cas (ea vs) sz .plain with d := vat vs 2, n := vat vs 1, dst := m.v } srcs }

/-! ## FLAGF (R192) -/

/-- FLAGF. -/
def execFlagf (tl : BitVec 3) (m : MemOp) (s : State) : Out :=
  let ea (vs : List Val) : Word := (vat vs 0).v + m.disp.signExtend 64
  let srcs : List SrcOp := [(m.base, false), (m.v, m.tv)]
  memoryTl s true
    { srcs := srcs, imm := 0
      chk := fun vs => firstExc (((vat vs 0).p, .consume (cz 0xA03) s.ip) :: s.rangeChk m.sp (ea vs) ++
        s.placeChk m.sp (ea vs) 8 true true)
      act := fun s vs => s.issueReq { s.newReq .flag (ea vs) .d .wf with d := vat vs 1, lo := ⟨false, true, tl⟩ } srcs }

/-! ## Sharded access (R189 to R191) -/

/-- The register after B that holds coordinates 2 and 3. -/
def nextOpd : Opd → Opd
  | .g n => .g (n + 1)
  | .x k => .x (k + 1)
  | .link d => .link d
  | .imm => .imm
  | .rsv c => .rsv c

def shardSrcs (o : ShardOp) : List SrcOp :=
  [(o.a, o.ta), (o.b, o.tb)] ++ (if o.nc then [(nextOpd o.b, o.tb)] else [])

/-- Two 32-bit coordinates from each register (R66). -/
def pairOf (v : Val) : List Nat := [v.v.toNat % 2 ^ 32, v.v.toNat / 2 ^ 32]
def shardCoords (o : ShardOp) (vs : List Val) : List Nat :=
  pairOf (vat vs 1) ++ (if o.nc then pairOf (vat vs 2) else [])

/-- What a resolved sharded access still meets before translation: 403, 801, 404 and 405 (R190, R197). -/
def State.shardChk (s : State) (part peer : Nat) (va : Word) (n : Nat) (strict : Bool) : Option Exc :=
  firstExc [(!canonical va, .trap (cz 0x403) va),
    ((s.peerFault part peer).isSome, .trap (cz 0x801) (BitVec.ofNat 64 peer)),
    (va.toNat % n != 0, .trap (cz (if strict then 0x405 else 0x404)) va)]

/-- The checks of a sharded access at issue (R190, R197). D08 comes before the others (DESIGN CHOICE, log 88). -/
def State.shardExc (s : State) (i : Nat) (c : List Nat) (nc : Bool) (n : Nat) (strict : Bool) : Option Exc :=
  if s.inCompute then some (.trap (cz 0xD08) s.cx.pc)
  else match s.resolve s.un.asid i c nc n with
    | .trap k a => some (.trap (cz k) a)
    | .frozen => none
    | .to peer va => s.shardChk s.un.part peer va n strict

/-- An access with the shard it resolves to: local, or at its owner. -/
def State.sharded (s : State) (r : Req) (nc : Bool) : Req :=
  match s.resolve r.asid (r.map.getD 0) r.coords nc r.bytes with
  | .to peer va => { r with ea := va, tgt := if peer == s.peer then .dev 0 else .peer peer, phase := .issued }
  | .frozen => { r with phase := .frozen }
  | .trap _ _ => r

/-- The map that a memory instruction names, and the placement entry that its coordinates pick, come to their homes for it (R190, R392). -/
def State.mapRead (s : State) (srcs : List SrcOp) (imm : Word) (coords : List Val → List Nat) : State :=
  if s.mem.hall.isEmpty then s
  else match (if s.runs && s.inOrder then s.srcVals imm [] srcs else none) with
    | some vs => if (vat vs 0).p || s.inCompute then s else s.mapCome s.un.asid (vat vs 0).v.toNat (coords vs)
    | none => s

/-- A memory instruction on a shard map: poison behind its 702 is logged as the check finds it (R342, R404). -/
def memoryMap (s : State) (coords : List Val → List Nat) (p : Ctl) : Out :=
  memory (match (if s.runs && s.inOrder then s.srcVals p.imm [] p.srcs else none) with
    | some vs => if (match p.chk vs with | some (.trap k _) => k == cz 0x702 | some (.consume _ _) => false | none => false) then
        s.logMap s.un.part s.un.asid (vat vs 0).v.toNat (coords vs) else s
    | none => s) p

/-- Issue of a sharded access; data gives the operands that go with it. -/
def shardGo (k : AKind) (sz : Sz) (sm : Sm) (o : ShardOp) (dSrc : List SrcOp) (s : State) : Out :=
  let n := szBytes sz
  let srcs := shardSrcs o ++ dSrc
  let strict := sm != .plain || k.atomic
  let s := s.mapRead srcs (sx16 o.imm) (shardCoords o)
  memoryMap s (shardCoords o)
    { srcs := srcs, imm := sx16 o.imm
      chk := fun vs =>
        match firstExc [((vat vs 0).p, .consume (cz 0xA05) s.ip),
          ((vat vs 1).p || (o.nc && (vat vs 2).p), .consume (cz 0xA02) s.ip)] with
        | some e => some e
        | none => s.shardExc (vat vs 0).v.toNat (shardCoords o vs) o.nc n strict
      act := fun s vs =>
        let r := { s.newReq k 0 sz sm with
          map := some (vat vs 0).v.toNat, coords := shardCoords o vs
          d := if dSrc = [] then .zero else vat vs (if o.nc then 3 else 2), dst := if k = .st then .g 0 else o.d }
        s.issueReq (s.sharded r o.nc) srcs }

/-- LDX. -/
def execLdx (sz : Sz) (sm : Sm) (o : ShardOp) (s : State) : Out := shardGo .ld sz sm o [] s
/-- STX: D is read without a take. -/
def execStx (sz : Sz) (sm : Sm) (o : ShardOp) (s : State) : Out := shardGo .st sz sm o [(o.d, false)] s
/-- AMOX: D is taken, and the old value lands in it. -/
def execAmox (op : AOp) (sz : Sz) (o : ShardOp) (s : State) : Out := shardGo (.amo op) sz .plain o [(o.d, true)] s

/-- Accesses of a map that this chip has resolved and that are not yet performed (R191). -/
def State.inFlight (s : State) (asid i : Nat) : Nat :=
  (s.reqs.filter (fun r => r.chip == s.peer && r.asid == asid && r.map == some i && r.phase != .frozen &&
    r.phase != .performed)).length

/-- A store of STATE to a map's entry, or the cause that ST would raise (R343). -/
def State.storeState (s : State) (asid i v : Nat) : Except (Nat × Nat) State :=
  let va := s.asStab asid + 64 * i
  match s.vaAt asid va true with
  | .no cause pte => .error (cause, pte)
  | .dev _ => match s.vread asid va 1 with
    | some (b, _) => .ok (s.vwrite asid va 1 (b / 4 * 4 + v) false)
    | none => .error (0x502, 0)
  | .host _ => match s.vread asid va 1 with
    | some (b, _) => .ok (s.vwrite asid va 1 (b / 4 * 4 + v) false)
    | none => .error (0x502, 0)

/-- A failed store of STATE raises what ST would: 501 is an upcall with a monitor, and 601 with a page request beside it, or 602 where the
host has refused the page; an absent peer's 801 is logged; the rest are traps (R196, R343, R428). -/
def State.stateFault (s : State) (i : Nat) (e : Nat × Nat) : State :=
  let u := s.un
  let va := BitVec.ofNat 64 (s.asStab u.asid + 64 * i)
  let parks (pte : Option Nat) : State :=
    { s with monitors := s.monitors ++ [⟨pte, u.part, u.asid, va, s.peer, s.th, u.key, s.ctx, false⟩] }
  if e.1 = 0x501 then (parks (some e.2)).syncUpcall s.th s.ctx (cz 0x501) s.cx.pc va
  else if e.1 = 0x601 then
    if s.hostRefused u.part u.asid va.toNat then s.trap (cz 0x602) s.cx.pc va
    else ((parks none).askHost u.part u.asid va).syncUpcall s.th s.ctx (cz 0x601) s.cx.pc va
  else if e.1 = 0x801 then s.raise (.trap (cz 0x801) (BitVec.ofNat 64 e.2))
  else (if e.1 = 0x506 then s.logWalk s.un.part s.un.asid va.toNat else s).trap (cz e.1) s.cx.pc va

/-- SMFRZ. -/
def execSmfrz (a : Src) (s : State) : Out :=
  let s := s.mapRead [(a.a, a.ta)] (sx16 a.imm) (fun _ => [])
  memoryMap s (fun _ => [])
    { srcs := [(a.a, a.ta)], imm := sx16 a.imm
      chk := fun vs => firstExc [((vat vs 0).p, .consume (cz 0xA05) s.ip),
        (4096 ≤ (vat vs 0).v.toNat || s.smapSt s.un.asid (vat vs 0).v.toNat == .invalid, .trap (cz 0x702) (vat vs 0).v)]
      act := fun s vs =>
        let i := (vat vs 0).v.toNat
        match (if s.frozen.contains (s.un.asid, i) then .ok s else s.storeState s.un.asid i 2) with
        | .error e => s.stateFault i e
        | .ok s' =>
          let s' : State := if s.frozen.contains (s.un.asid, i) then s' else { s' with frozen := s'.frozen ++ [(s.un.asid, i)] }
          if s'.inFlight s.un.asid i = 0 then s'.retireMem [(a.a, a.ta)] else s'.waits .smfrz }

/-- A parked access meets the entry again (R191). -/
def State.unpark (s : State) (r : Req) : State :=
  let nc := r.coords.length == 4
  let s := s.mapCome r.asid (r.map.getD 0) r.coords
  match s.resolve r.asid (r.map.getD 0) r.coords nc r.bytes with
  | .frozen => s
  | .trap k a => s.trapReq r k a
  | .to peer va =>
    match s.shardChk r.part peer va r.bytes (r.sm != .plain || r.k.atomic) with
    | some (.trap k a) =>
      let s := if k = cz 0x801 then s.logPeer r peer ((s.peerFault r.part peer).getD 2) else s
      if s.alive r then s.inCsa r.thread (fun s => (s.unissue r).trapAt r.thread r.ctx k r.pc a) else s.dropReq r.id
    | some (.consume _ _) => s
    | none => s.modReq r.id (fun _ => s.sharded r nc)

/-- SMREL reads a frozen map's entry again, and writes STATE := 1 where it reads frozen and is otherwise valid (R343). -/
def State.thaw (s : State) (asid i : Nat) : Except (Nat × Nat) State :=
  let live := match s.smap asid i with | some m => m.st == 2 && m.clean | none => false
  match s.vaAt asid (s.asStab asid + 64 * i) false with
  | .no cause pte => .error (cause, pte)
  | .dev _ => if live then s.storeState asid i 1 else .ok s
  | .host _ => if live then s.storeState asid i 1 else .ok s

/-- SMREL: an entry that cannot be read again leaves the map frozen, with that cause (R343). -/
def execSmrel (a : Src) (s : State) : Out :=
  let s := s.mapRead [(a.a, a.ta)] (sx16 a.imm) (fun _ => [])
  memoryMap s (fun _ => [])
    { srcs := [(a.a, a.ta)], imm := sx16 a.imm
      chk := fun vs => firstExc [((vat vs 0).p, .consume (cz 0xA05) s.ip),
        (4096 ≤ (vat vs 0).v.toNat || s.smapSt s.un.asid (vat vs 0).v.toNat == .invalid, .trap (cz 0x702) (vat vs 0).v)]
      act := fun s vs =>
        let i := (vat vs 0).v.toNat
        let k := (s.un.asid, i)
        if !s.frozen.contains k then s.retireMem [(a.a, a.ta)]
        else
          let s := s.vcome (some s.un.part) s.un.asid (s.asStab s.un.asid + 64 * i) 64
          match s.thaw s.un.asid i with
          | .error e => s.stateFault i e
          | .ok s' =>
            let s' : State := { s' with frozen := s'.frozen.filter (· != k) }
            let parked := s'.reqs.filter (fun r => r.phase == .frozen && r.chip == s.peer && r.asid == s.un.asid && r.map == some i)
            (parked.foldl State.unpark s').retireMem [(a.a, a.ta)] }

/-! ## Hints and FENCE.io (R193, R194) -/

/-- What a hint does. -/
inductive Hint where
  | pref | resid | evict
deriving DecidableEq, Repr

def lvlL2 (l : Sys2Proof.Level) : Bool := l != .stacked
def lvlStacked (l : Sys2Proof.Level) : Bool := l != .l2

/-- Lines a hint names. -/
def hintLines (ea v : Word) : List Word :=
  let n := if v = 0 then 1 else min v.toNat 4096
  (upto n).map (fun i => (ea &&& ~~~(63#64)) + BitVec.ofNat 64 (64 * i))

/-- A line that makes a hint be dropped: not canonical, unmapped, not readable, or MMIO; one line drops the whole hint (R193; DESIGN CHOICE,
log 89). A line of the carve-out makes none be dropped, since hints on carve-out addresses are not counted (R389). -/
def State.hintBad (s : State) (asid : Nat) (a : Word) : Bool :=
  !canonical a || match s.translate asid a.toNat with
    | .page t => (!t.rd && !(t.aper == 0 && inCarve (t.pa a.toNat))) || t.aper == 3
    | .hostPage t => !t.rd
    | .notValid _ => true
    | .invalid => true

/-- A hint acts on a line of physical memory: EVICT writes it back and drops it, the others fill it, RESID to be replaced
last (R193, R322, R327). -/
def State.hintAt (s : State) (part asid : Nat) (h : Hint) (lvl : Sys2Proof.Level) (va ln mt : Nat) : State :=
  let who := some part
  match h with
  | .evict =>
    let s := if lvlL2 lvl then s.l2Drop who (·.pa == ln) else s
    if lvlStacked lvl then s.stkDrop who ln else s
  | .pref | .resid =>
    let keep := h == .resid
    if mt == 2 then s
    else
      let s := if lvlStacked lvl || !s.l2.any (s.l2Hit asid va ln) then s.stkPut who ln false (keep && lvlStacked lvl) true else s
      if lvlL2 lvl && mt == 0 then s.l2Put who asid va ln false keep else s

/-- One line of a hint: on device memory but the carve-out, and on a host page whose translation is held; what a peer does with
it, and a page that the host has yet to translate, are left out (R193; log 89). -/
def State.hintLine (s : State) (part asid : Nat) (h : Hint) (lvl : Sys2Proof.Level) (a : Word) : State :=
  let s := s.sigWalk asid a.toNat
  match s.translate asid a.toNat with
  | .page t =>
    let pa := t.pa a.toNat
    match t.aper with
    | 0 => if inCarve pa then s
      else (if h == .evict then s else s.bring pa 64).hintAt part asid h lvl a.toNat (pa / 64) t.mt
    | 1 => (if h == .evict then s else s.track (pa / 64)).hintAt part asid h lvl a.toNat (hostLine pa) (if t.mt == 2 then 1 else t.mt)
    | _ => s
  | .hostPage _ => s | .notValid _ => s | .invalid => s

/-- PREF, RESID and EVICT: accepted at issue; a dropped hint is counted. -/
def hint (h : Hint) (lvl : Sys2Proof.Level) (m : MemOp) (s : State) : Out :=
  let srcs : List SrcOp := [(m.base, false), (m.index, false), (m.v, m.tv)]
  memory s
    { srcs := srcs, imm := 0, chk := fun _ => none
      act := fun s vs =>
        let ea := memEa m (vat vs 0) (vat vs 1)
        let asid := s.un.asid
        let lines := hintLines ea (vat vs 2).v
        let u := s.un
        let (th, ctx) := (s.th, s.ctx)
        let s := s.retireMem srcs
        if anyP vs || lines.any (s.hintBad asid) then s.bump u.part th u.key ctx .hdrop
        else lines.foldl (fun s a => s.hintLine u.part asid h lvl a) s }

def execPref (lvl : Sys2Proof.Level) (m : MemOp) (s : State) : Out := hint .pref lvl m s
def execResid (lvl : Sys2Proof.Level) (m : MemOp) (s : State) : Out := hint .resid lvl m s
def execEvict (lvl : Sys2Proof.Level) (m : MemOp) (s : State) : Out := hint .evict lvl m s

/-- FENCE.io: the mould has waited for every earlier access of the context (R194). -/
def execFence (s : State) : Out :=
  memory s { srcs := [], imm := 0, chk := fun _ => none, act := fun s _ => s.retire }

end Sys2Proof.Machine
end

