-- ==== Sys2Proof/Machine/Sfu.lean ====
section
/-!
DEFINITION. The functions of the SFU (R160), correctly rounded from the exact value. Quotients and roots are computed with
a sticky bit. 2^x, log2, sin, cos and tanh are enclosed between two binary fractions, at a growing precision, until both
ends round to the same code (log 11).
-/
namespace Sys2Proof.Machine

/-- A truncated magnitude with its remainder bit appended: never a tie, and on the right side of every boundary. -/
def sticky (neg : Bool) (q : Nat) (exact : Bool) (exp : Int) : FV :=
  if exact then .mk' neg q exp else .fin neg (2 * q + 1) (exp - 1)

/-- Integer square root by bits, from bit k down. -/
def isqrtFrom (n acc : Nat) : Nat → Nat
  | 0 => acc
  | k + 1 => let a := acc + 2 ^ k; isqrtFrom n (if a * a ≤ n then a else acc) k

def isqrt (n : Nat) : Nat := isqrtFrom n 0 (n.log2 / 2 + 1)

/-- 1 ÷ x. -/
def fvRcp : FV → FV
  | .nan => .nan
  | .inf n => .zero n
  | .zero n => .inf n
  | .fin n m e =>
    let k := m.log2 + 200
    sticky n (2 ^ k / m) (2 ^ k % m == 0) (-(k : Int) - e)

/-- An even exponent for a root. -/
def evenExp (m : Nat) (e : Int) : Nat × Int := if e % 2 = 0 then (m, e) else (2 * m, e - 1)

/-- √x. -/
def fvSqrt : FV → FV
  | .nan => .nan
  | .inf n => if n then .nan else .inf false
  | .zero n => .zero n
  | .fin n m e =>
    if n then .nan else
    let (m, e) := evenExp m e
    let v := m * 2 ^ 400
    let q := isqrt v
    sticky false q (q * q == v) (e / 2 - 200)

/-- 1 ÷ √x. -/
def fvRsq : FV → FV
  | .nan => .nan
  | .inf n => if n then .nan else .zero false
  | .zero n => .inf n
  | .fin n m e =>
    if n then .nan else
    let (m, e) := evenExp m e
    let k := m.log2 + 200
    let v := 2 ^ (2 * k) / m
    let q := isqrt v
    sticky false q (q * q * m == 2 ^ (2 * k)) (-(k : Int) - e / 2)

/-! ## Enclosures: a pair (lo, hi) of multiples of 2^−n around the value -/

/-- Truncated terms of exp: the sum of y^k ÷ k!, for y a multiple of 2^−n below 1. -/
def expSum (n y : Nat) (acc term k : Nat) : Nat → Nat
  | 0 => acc
  | f + 1 => if term = 0 then acc else expSum n y (acc + term) (term * y / 2 ^ n / k) (k + 1) f

/-- e^y for 0 ≤ y < 1, from below; the error is below 8n units. -/
def expFix (n y : Nat) : Nat := expSum n y 0 (2 ^ n) 1 n

/-- Sum of z^(2k+1) ÷ (2k+1). -/
def atanhSum (n z2 : Nat) (acc pow k : Nat) : Nat → Nat
  | 0 => acc
  | f + 1 => if pow = 0 then acc else atanhSum n z2 (acc + pow / k) (pow * z2 / 2 ^ n) (k + 2) f

/-- ln((1+z)/(1−z)) for 0 ≤ z ≤ 1/3, a multiple of 2^−n; the error is below 8n units. -/
def lnFix (n z : Nat) : Nat := 2 * atanhSum n (z * z / 2 ^ n) 0 z 1 n

/-- ln 2, from below. -/
def ln2Fix (n : Nat) : Nat := lnFix n (2 ^ n / 3)

/-- arctan(1/d) as a multiple of 2^−n: alternating sum, positive and negative parts. -/
def atanInv (n d : Nat) (pos neg pow k : Nat) (odd : Bool) : Nat → Nat
  | 0 => pos - neg
  | f + 1 => if pow = 0 then pos - neg
    else atanInv n d (if odd then pos else pos + pow / k) (if odd then neg + pow / k else neg) (pow / (d * d)) (k + 2)
      (!odd) f

/-- π by Machin's formula; the error is below 64n units. -/
def piFix (n : Nat) : Nat :=
  16 * atanInv n 5 0 0 (2 ^ n / 5) 1 false n - 4 * atanInv n 239 0 0 (2 ^ n / 239) 1 false n

/-- Alternating Taylor sums of sin (k = 2) and cos (k = 1), for 0 ≤ y < 2. -/
def trigSum (n y2 : Nat) (pos neg term k : Nat) (odd : Bool) : Nat → Nat
  | 0 => pos - neg
  | f + 1 => if term = 0 then pos - neg
    else trigSum n y2 (if odd then pos else pos + term) (if odd then neg + term else neg)
      (term * y2 / 2 ^ n / (k * (k + 1))) (k + 2) (!odd) f

def sinFix (n y : Nat) : Nat := trigSum n (y * y / 2 ^ n) 0 0 y 2 false n
def cosFix (n y : Nat) : Nat := trigSum n (y * y / 2 ^ n) 0 0 (2 ^ n) 1 false n

/-- A magnitude as a multiple of 2^−n, rounded down. -/
def toFix (n m : Nat) (e : Int) : Nat := if -(n : Int) ≤ e then m * 2 ^ (e + n).toNat else m / 2 ^ (-(n : Int) - e).toNat

/-- An enclosure with sign and exponent: (neg, lo, hi, exp). -/
abbrev Encl := Bool × Nat × Nat × Int

/-- 2^x for finite x ≠ 0 with |x| < 2^12. -/
def exp2Encl (n : Nat) (neg : Bool) (m : Nat) (e : Int) : Encl :=
  let x := toFix n m e
  let slack := if toFix n m e * 2 ^ 0 = 0 || e < -(n : Int) then 1 else 0
  let whole := x / 2 ^ n
  let frac := x % 2 ^ n
  -- a negative argument: 2^−(w+f) = 2^(−w−1) × 2^(1−f)
  let (w, f) : Int × Nat := if neg then (-(whole : Int) - 1, 2 ^ n - frac) else ((whole : Int), frac)
  let y := f * ln2Fix n / 2 ^ n
  let v := expFix n y
  (false, v - 16 * n * (slack + 1), v + 16 * n * (slack + 1), w - n)

/-- log2 x for finite x > 0. -/
def log2Encl (n : Nat) (m : Nat) (e : Int) : Encl :=
  let k := m.log2
  let w : Int := k + e
  -- z = (m − 2^k) ÷ (m + 2^k)
  let z := (m - 2 ^ k) * 2 ^ n / (m + 2 ^ k)
  let l := lnFix n z * 2 ^ n / ln2Fix n
  let t : Int := w * 2 ^ n + l
  let lo := t - 64 * n
  let hi := t + 64 * n
  if 0 < lo then (false, lo.toNat, hi.toNat, -(n : Int))
  else if hi < 0 then (true, (-hi).toNat, (-lo).toNat, -(n : Int))
  else (false, 0, 1, -(n : Int))

/-- sin or cos of a finite magnitude, by reduction modulo π/2. -/
def trigEncl (n : Nat) (cosine neg : Bool) (m : Nat) (e : Int) : Encl :=
  -- room for the whole argument: an f32 is below 2^128
  let n' := n + 160
  let x := toFix n' m e
  let half := piFix n' / 2
  let q := x / half
  let r := (x % half) / 2 ^ 160
  let err := 128 * n + 1024
  let k := (if cosine then q + 1 else q) % 4
  -- sin(k·π/2 + r)
  let v := if k % 2 = 0 then sinFix n r else cosFix n r
  let s := (k == 2 || k == 3)
  ((if cosine then s else s != neg), v - err, v + err, -(n : Int))

/-- tanh of a finite magnitude below 64: (1 − t) ÷ (1 + t) with t = e^(−2x). -/
def tanhEncl (n : Nat) (neg : Bool) (m : Nat) (e : Int) : Encl :=
  let y := 2 * toFix n m e
  let l := ln2Fix n
  let w := y / l
  let r := y % l
  -- e^(−y) = 2^(−w) ÷ e^r
  let t := 2 ^ (2 * n) / expFix n r / 2 ^ w
  let v := (2 ^ n - t) * 2 ^ n / (2 ^ n + t)
  let err := 512 * n + 1024
  (neg, v - err, v + err, -(n : Int))

/-- Round an enclosure: both ends, strictly inside, must give one code. -/
def roundEncl (ty : Ty) (md : Md) (r : Nat) (f : Nat → Encl) : List Nat → Nat
  | [] => 0
  | n :: l =>
    let (s, lo, hi, e) := f n
    let a := roundNum ty md r (sticky s lo false e)
    let b := roundNum ty md r (sticky s (hi - 1) false e)
    if (lo != 0 && a == b) || l.isEmpty then a else roundEncl ty md r f l

/-- Bits of precision tried in turn. -/
def sfuBits : List Nat := [160, 640, 1600]

/-- A magnitude is at least 2^k. -/
def magGe (m : Nat) (e : Int) (k : Int) : Bool := k ≤ m.log2 + e

/-- The code of an SFU result, given the stochastic draw (R160). -/
def sfuRound (fn : SfuFn) (ty : Ty) (md : Md) (r : Nat) (x : FV) : Nat :=
  let done := roundNum ty md r
  match fn with
  | .rcp => done (fvRcp x)
  | .rsq => done (fvRsq x)
  | .sqrt => done (fvSqrt x)
  | .exp2 => match x with
    | .nan => done .nan
    | .inf n => done (if n then .zero false else .inf false)
    | .zero _ => done (.fin false 1 0)
    | .fin n m e =>
      -- an integer argument is exact
      if magGe m e 12 then done (sticky false 1 false (if n then -4096 else 4096))
      else if 0 ≤ e || m % 2 ^ (-e).toNat = 0 then
        let i : Int := if 0 ≤ e then m * 2 ^ e.toNat else m / 2 ^ (-e).toNat
        done (.fin false 1 (if n then -i else i))
      else roundEncl ty md r (fun k => exp2Encl k n m e) sfuBits
  | .log2 => match x with
    | .nan => done .nan
    | .inf n => done (if n then .nan else .inf false)
    | .zero _ => done (.inf true)
    | .fin n m e =>
      if n then done .nan
      else if m = 2 ^ m.log2 then done (.ofInt (m.log2 + e))
      else roundEncl ty md r (fun k => log2Encl k m e) sfuBits
  | .sin => match x with
    | .nan => done .nan
    | .inf _ => done .nan
    | .zero n => done (.zero n)
    | .fin n m e => roundEncl ty md r (fun k => trigEncl k false n m e) sfuBits
  | .cos => match x with
    | .nan => done .nan
    | .inf _ => done .nan
    | .zero _ => done (.fin false 1 0)
    | .fin n m e => roundEncl ty md r (fun k => trigEncl k true n m e) sfuBits
  | .tanh => match x with
    | .nan => done .nan
    | .inf n => done (.fin n 1 0)
    | .zero n => done (.zero n)
    | .fin n m e =>
      if magGe m e 6 then done (sticky n (2 ^ 160 - 1) false (-160))
      else roundEncl ty md r (fun k => tanhEncl k n m e) sfuBits

/-- An SFU result with the LFSR after it (R114, R160). -/
def sfuDraw (fn : SfuFn) (ty : Ty) (md : Md) (s : BitVec 32) (x : FV) : BitVec 32 × Nat :=
  if md.rm = .sto then let d := lfsrDraw s; (d.1, sfuRound fn ty md d.2 x) else (s, sfuRound fn ty md 0 x)

end Sys2Proof.Machine
end

