-- ==== Sys2Proof/Machine/Scalar.lean ====
section
/-!
DEFINITION. The scalar family: integer and address, float scalar, SFU, pack and unpack, control flow, presence and queues
(R144-R170).
-/
namespace Sys2Proof.Machine

/-- No check of its own. -/
def noChk : List Val → Option Exc := fun _ => none

/-! ## Moulds -/

/-- A two-source instruction. -/
def bin (s : State) (o : Bin) (res : List Val → Val) : Out :=
  scalar s ⟨[(o.a, o.ta), (o.b, o.tb)], some o.d, sx16 o.imm, noChk, res⟩

/-- A two-source instruction with checks. -/
def binChk (s : State) (o : Bin) (chk : List Val → Option Exc) (res : List Val → Val) : Out :=
  scalar s ⟨[(o.a, o.ta), (o.b, o.tb)], some o.d, sx16 o.imm, chk, res⟩

/-- A two-source instruction that also reads its destination. -/
def bin3 (s : State) (o : Bin) (imm : Word) (chk : List Val → Option Exc) (res : List Val → Val) : Out :=
  scalar s ⟨[(o.a, o.ta), (o.b, o.tb), (o.d, false)], some o.d, imm, chk, res⟩

/-- A one-source instruction. -/
def una (s : State) (o : Un) (res : List Val → Val) : Out :=
  scalar s ⟨[(o.a, o.ta)], some o.d, sx16 o.imm, noChk, res⟩

/-- The result of an integer instruction (R149). -/
def intRes (ty : Ty) (sat : Bool) (f : Int → Int → Int) (vs : List Val) : Val :=
  let w := tyWidth ty
  let r := f (intOf w ty.signed (vat vs 0).v.toNat) (intOf w ty.signed (vat vs 1).v.toNat)
  ⟨extOf w ty.signed (if sat then clampInt w ty.signed r else r), (vat vs 0).p || (vat vs 1).p⟩

/-- The result of an instruction on the low w bits as a number (R150). -/
def natRes (ty : Ty) (f : Nat → Nat → Nat) (vs : List Val) : Val :=
  let w := tyWidth ty
  ⟨extOf w ty.signed (f ((vat vs 0).v.toNat % 2 ^ w) (vat vs 1).v.toNat), (vat vs 0).p || (vat vs 1).p⟩

/-- The result of a one-source instruction on the low w bits (R150). -/
def natRes1 (ty : Ty) (f : Nat → Nat) (vs : List Val) : Val :=
  let w := tyWidth ty
  ⟨extOf w ty.signed (f ((vat vs 0).v.toNat % 2 ^ w)), (vat vs 0).p⟩

/-- A logical result on 64 bits (R151). -/
def logRes (f : Word → Word → Word) (vs : List Val) : Val := ⟨f (vat vs 0).v (vat vs 1).v, (vat vs 0).p || (vat vs 1).p⟩

/-! ## F of R150 -/

/-- IDIV: toward zero, with the corners of R150. -/
def idivF (w : Nat) (sg : Bool) (x y : Int) : Int :=
  if y = 0 then if sg then -1 else 2 ^ w - 1
  else if sg && x == intMin w sg && y == -1 then x else x.tdiv y
/-- IREM: x − y × IDIV(x, y), with the corners of R150. -/
def iremF (w : Nat) (sg : Bool) (x y : Int) : Int :=
  if y = 0 then x else if sg && x == intMin w sg && y == -1 then 0 else x.tmod y
def shlF (w u b : Nat) : Nat := if w ≤ b % 64 then 0 else u * 2 ^ (b % 64)
def shrF (w u b : Nat) : Nat := if w ≤ b % 64 then 0 else u / 2 ^ (b % 64)
/-- SRA of a signed type, with n clamped to w − 1. -/
def sraF (w u b : Nat) : Nat := ((intOf w true u).fdiv (2 ^ min (b % 64) (w - 1)) % 2 ^ w).toNat
def rolF (w u b : Nat) : Nat := let n := b % 64 % w; (u * 2 ^ n + u / 2 ^ (w - n)) % 2 ^ w
/-- Leading zeros of a w-bit number. -/
def clzF (w u : Nat) : Nat := if u = 0 then w else w - 1 - u.log2
/-- Trailing zeros, from bit k on. -/
def ctzFrom (u k : Nat) : Nat → Nat
  | 0 => k
  | f + 1 => if u.testBit k then k else ctzFrom u (k + 1) f
def ctzF (w u : Nat) : Nat := ctzFrom u 0 w
def popcF (w u : Nat) : Nat := ((upto w).filter u.testBit).length
def bswapF (w u : Nat) : Nat := (upto (w / 8)).foldl (fun a i => a * 256 + u / 256 ^ i % 256) 0

/-! ## Integer and address (R149-R156) -/

def execIadd (ty : Ty) (sat : Bool) (o : Bin) (s : State) : Out := bin s o (intRes ty sat (· + ·))
def execIsub (ty : Ty) (sat : Bool) (o : Bin) (s : State) : Out := bin s o (intRes ty sat (· - ·))
def execImul (ty : Ty) (sat : Bool) (o : Bin) (s : State) : Out := bin s o (intRes ty sat (· * ·))
def execImulh (ty : Ty) (o : Bin) (s : State) : Out :=
  bin s o (intRes ty false (fun x y => (x * y).fdiv (2 ^ tyWidth ty)))
def execIdiv (ty : Ty) (o : Bin) (s : State) : Out := bin s o (intRes ty false (idivF (tyWidth ty) ty.signed))
def execIrem (ty : Ty) (o : Bin) (s : State) : Out := bin s o (intRes ty false (iremF (tyWidth ty) ty.signed))
def execImin (ty : Ty) (o : Bin) (s : State) : Out := bin s o (intRes ty false (fun x y => if x ≤ y then x else y))
def execImax (ty : Ty) (o : Bin) (s : State) : Out := bin s o (intRes ty false (fun x y => if x ≤ y then y else x))
def execIabs (ty : Ty) (sat : Bool) (o : Un) (s : State) : Out := una s o (intRes ty sat (fun x _ => x.natAbs))
def execAnd (o : Bin) (s : State) : Out := bin s o (logRes (· &&& ·))
def execOr (o : Bin) (s : State) : Out := bin s o (logRes (· ||| ·))
def execXor (o : Bin) (s : State) : Out := bin s o (logRes (· ^^^ ·))
def execAndn (o : Bin) (s : State) : Out := bin s o (logRes (fun a b => a &&& ~~~b))
def execShl (ty : Ty) (o : Bin) (s : State) : Out := bin s o (natRes ty (shlF (tyWidth ty)))
def execShr (ty : Ty) (o : Bin) (s : State) : Out := bin s o (natRes ty (shrF (tyWidth ty)))
def execSra (ty : Ty) (o : Bin) (s : State) : Out :=
  bin s o (natRes ty (if ty.signed then sraF (tyWidth ty) else shrF (tyWidth ty)))
def execRol (ty : Ty) (o : Bin) (s : State) : Out := bin s o (natRes ty (rolF (tyWidth ty)))
def execClz (ty : Ty) (o : Un) (s : State) : Out := una s o (natRes1 ty (clzF (tyWidth ty)))
def execCtz (ty : Ty) (o : Un) (s : State) : Out := una s o (natRes1 ty (ctzF (tyWidth ty)))
def execPopc (ty : Ty) (o : Un) (s : State) : Out := una s o (natRes1 ty (popcF (tyWidth ty)))
def execBswap (ty : Ty) (o : Un) (s : State) : Out := una s o (natRes1 ty (bswapF (tyWidth ty)))

/-- Position and length of a bit-field control (R152). -/
def bfPos (c : Word) : Nat := c.toNat % 64
def bfLen (c : Word) : Nat := c.toNat / 64 % 128
/-- Cause 201: the field is empty or leaves the register (R152). -/
def bfChk (vs : List Val) : Option Exc :=
  let c := (vat vs 1).v
  firstExc [(bfLen c == 0 || 64 < bfPos c + bfLen c, .trap (cz 0x201) c)]

def execBfx (o : Bin) (s : State) : Out :=
  binChk s o bfChk (fun vs =>
    let c := (vat vs 1).v
    ⟨BitVec.ofNat 64 ((vat vs 0).v.toNat / 2 ^ bfPos c % 2 ^ bfLen c), (vat vs 0).p || (vat vs 1).p⟩)
/-- d with bits pos+len−1:pos replaced by the low len bits of a. -/
def bfInsert (d a : Word) (pos len : Nat) : Word :=
  let m := (2 ^ len - 1) * 2 ^ pos
  (d &&& ~~~BitVec.ofNat 64 m) ||| BitVec.ofNat 64 (a.toNat % 2 ^ len * 2 ^ pos)
def execBfi (o : Bin) (s : State) : Out :=
  bin3 s o (sx16 o.imm) bfChk (fun vs =>
    let c := (vat vs 1).v
    ⟨bfInsert (vat vs 2).v (vat vs 0).v (bfPos c) (bfLen c), (vat vs 2).p || (vat vs 0).p || (vat vs 1).p⟩)
def execIext (o : Bin) (s : State) : Out :=
  binChk s o
    (fun vs => let n := (vat vs 1).v.toNat % 128
      firstExc [(n == 0 || 64 < n, .trap (cz 0x201) (vat vs 1).v)])
    (fun vs => ⟨extOf ((vat vs 1).v.toNat % 128) true (vat vs 0).v.toNat, (vat vs 0).p || (vat vs 1).p⟩)

/-- 1 or 0. -/
def boolWord (b : Bool) : Word := if b then 1 else 0

def execCmp (cc : Cc) (ty : Ty) (o : Bin) (s : State) : Out :=
  bin s o (fun vs => ⟨boolWord (intCond cc (tyWidth ty) ty.signed (vat vs 0).v.toNat (vat vs 1).v.toNat),
    (vat vs 0).p || (vat vs 1).p⟩)
def execSel (o : Bin) (s : State) : Out :=
  bin3 s o (sx16 o.imm) noChk (fun vs =>
    let r := if (vat vs 2).v ≠ 0 then vat vs 0 else vat vs 1
    ⟨r.v, (vat vs 2).p || r.p⟩)
def execLdi (d : Opd) (imm : BitVec 32) (s : State) : Out :=
  scalar s ⟨[], some d, 0, noChk, fun _ => ⟨imm.signExtend 64, false⟩⟩
def execLdk (d : Opd) (imm : BitVec 64) (s : State) : Out := scalar s ⟨[], some d, 0, noChk, fun _ => ⟨imm, false⟩⟩

/-- ADDA's sum: the scale is IMM16<1:0>, and 0 when the addend is the immediate (R155). -/
def addaSum (o : Bin) (vs : List Val) : Word :=
  (vat vs 0).v + (vat vs 1).v * BitVec.ofNat 64 (2 ^ (if o.b = .imm then 0 else o.imm.toNat % 4))
def execAdda (o : Bin) (s : State) : Out :=
  binChk s o (fun vs => firstExc [(!canonical (addaSum o vs), .trap (cz 0x402) (addaSum o vs))])
    (fun vs => ⟨addaSum o vs, (vat vs 0).p || (vat vs 1).p⟩)
def execMramk (o : Bin) (s : State) : Out :=
  bin s o (fun vs => ⟨((vat vs 0).v &&& ~~~0x3FFF#64) ||| (((vat vs 1).v &&& 0x1FF#64) <<< 5),
    (vat vs 0).p || (vat vs 1).p⟩)
def execSelf (d : Opd) (s : State) : Out :=
  scalar s ⟨[], some d, 0, noChk, fun _ => ⟨handle s.peer s.th s.un.key, false⟩⟩

/-! ## Float scalar (R157-R159) -/

/-- A float immediate: IMM16 as a BF16 pattern for .f32 and .bf16, as an FP16 pattern for .f16 (R157). -/
def fImm (ty : Ty) (i : BitVec 16) : Word := if ty = .f32 then i.zeroExtend 64 <<< 16 else i.zeroExtend 64

/-- The value of operand i. -/
def fVal (ty : Ty) (vs : List Val) (i : Nat) : FV := decodeNum ty (vat vs i).v.toNat

/-- The acting unit's LFSR moves on (R114). -/
def State.setLfsr (s : State) (l : BitVec 32) : State := s.setUn { s.un with lfsr := l }

/-- A float instruction: srcs read, the exact value formed, rounded once, the LFSR moved on a draw (R114, R157). -/
def floatOp (s : State) (srcs : List SrcOp) (d : Opd) (imm : Word) (ty : Ty) (md : Md) (f : List Val → FV) : Out :=
  let draw (vs : List Val) := roundDraw ty md s.un.lfsr (f vs)
  drawing s (md.rm == .sto) (scalarE s ⟨srcs, some d, imm, noChk, fun vs => ⟨BitVec.ofNat 64 (draw vs).2, anyP vs⟩⟩
    (fun vs t => t.setLfsr (draw vs).1))

def execFadd (ty : Ty) (md : Md) (o : Bin) (s : State) : Out :=
  floatOp s [(o.a, o.ta), (o.b, o.tb)] o.d (fImm ty o.imm) ty md (fun vs => fvAdd md (fVal ty vs 0) (fVal ty vs 1))
def execFsub (ty : Ty) (md : Md) (o : Bin) (s : State) : Out :=
  floatOp s [(o.a, o.ta), (o.b, o.tb)] o.d (fImm ty o.imm) ty md (fun vs => fvAdd md (fVal ty vs 0) (fVal ty vs 1).neg)
def execFmul (ty : Ty) (md : Md) (o : Bin) (s : State) : Out :=
  floatOp s [(o.a, o.ta), (o.b, o.tb)] o.d (fImm ty o.imm) ty md (fun vs => (fVal ty vs 0).mul (fVal ty vs 1))
def execFfma (ty : Ty) (md : Md) (o : Bin) (s : State) : Out :=
  floatOp s [(o.a, o.ta), (o.b, o.tb), (o.d, false)] o.d (fImm ty o.imm) ty md
    (fun vs => fvAdd md ((fVal ty vs 0).mul (fVal ty vs 1)) (fVal ty vs 2))

/-- A float value written exactly, NaN canonical. -/
def fRes (ty : Ty) (x : FV) (p : Bool) : Val := ⟨BitVec.ofNat 64 (roundNum ty mdRne 0 x), p⟩

/-- A two-source float instruction without rounding. -/
def fbin (s : State) (o : Bin) (ty : Ty) (res : List Val → Val) : Out :=
  scalar s ⟨[(o.a, o.ta), (o.b, o.tb)], some o.d, fImm ty o.imm, noChk, res⟩

def execFmin (ty : Ty) (o : Bin) (s : State) : Out :=
  fbin s o ty (fun vs => fRes ty (fvMin (fVal ty vs 0) (fVal ty vs 1)) (anyP vs))
def execFmax (ty : Ty) (o : Bin) (s : State) : Out :=
  fbin s o ty (fun vs => fRes ty (fvMax (fVal ty vs 0) (fVal ty vs 1)) (anyP vs))
def execFabs (ty : Ty) (o : Un) (s : State) : Out := una s o (fun vs => fRes ty (fVal ty vs 0).abs (anyP vs))
def execFneg (ty : Ty) (o : Un) (s : State) : Out := una s o (fun vs => fRes ty (fVal ty vs 0).neg (anyP vs))
def execFcmp (cc : Cc) (ty : Ty) (o : Bin) (s : State) : Out :=
  fbin s o ty (fun vs => ⟨boolWord (fvCond cc (fVal ty vs 0) (fVal ty vs 1)), anyP vs⟩)
def execFclass (ty : Ty) (o : Un) (s : State) : Out :=
  una s o (fun vs => ⟨BitVec.ofNat 64 (classMask ty (vat vs 0).v.toNat), anyP vs⟩)

/-- The code of a conversion as a register value: integers by Ext, the rest zero-extended (R159). -/
def cvtWord (dty : Ty) (code : Nat) : Word := if dty.isInt then extOf (tyWidth dty) dty.signed code else BitVec.ofNat 64 code

def execFcvt (dty sty : Ty) (md : Md) (d a : Opd) (ta : Bool) (s : State) : Out :=
  -- an integer-to-integer conversion rounds nothing, so it draws nothing
  let md := if dty.isInt && sty.isInt then mdRne else md
  let draw (vs : List Val) := roundDraw dty md s.un.lfsr (decodeNum sty (vat vs 0).v.toNat)
  drawing s (md.rm == .sto) (scalarE s ⟨[(a, ta)], some d, sty.code.zeroExtend 64, noChk, fun vs => ⟨cvtWord dty (draw vs).2, anyP vs⟩⟩
    (fun vs t => t.setLfsr (draw vs).1))

/-! ## Pack and unpack (R162, R163) -/

/-- The FP32 elements that a pack form takes. -/
def packElems (form : PackForm) (a b : Word) : List Nat :=
  match form with
  | .h2 => [a.toNat, b.toNat]
  | .b4 => [a.toNat, a.toNat / 2 ^ 32, b.toNat, b.toNat / 2 ^ 32]
  | .q4 => [a.toNat, a.toNat / 2 ^ 32, b.toNat, b.toNat / 2 ^ 32]
  | .t6 => [a.toNat, a.toNat / 2 ^ 32, b.toNat, b.toNat / 2 ^ 32]

/-- One element of a pack; .q4 rounds to an integer in −8 to 7. -/
def packOne (form : PackForm) (ty : Ty) (md : Md) (s : BitVec 32) (x : FV) : BitVec 32 × Nat :=
  match form with
  | .q4 =>
    let d := if md.rm = .sto then lfsrDraw s else (s, 0)
    let i : Int := match x with
      | .nan => 0
      | .inf n => if n then -8 else 7
      | _ => max (-8) (min 7 (roundInt md.rm d.2 x))
    (d.1, (i % 16).toNat)
  | .h2 => roundDraw ty md s x
  | .b4 => roundDraw ty md s x
  | .t6 => roundDraw ty md s x

/-- Width of a packed element. -/
def packWidth : PackForm → Nat
  | .h2 => 16 | .b4 => 8 | .q4 => 4 | .t6 => 6

/-- The packed word and the LFSR after the draws, in ascending element order (R114, R162). -/
def packAll (form : PackForm) (ty : Ty) (md : Md) (s : BitVec 32) (a b : Word) : BitVec 32 × Nat :=
  let r := (packElems form a b).foldl (fun (x : BitVec 32 × Nat × Nat) e =>
    let y := packOne form ty md x.1 (decodeNum .f32 e)
    (y.1, x.2.1 + y.2 * 2 ^ x.2.2, x.2.2 + packWidth form)) (s, 0, 0)
  (r.1, r.2.1)

def execCvp (form : PackForm) (ty : Ty) (md : Md) (o : Bin) (s : State) : Out :=
  let draw (vs : List Val) := packAll form ty md s.un.lfsr (vat vs 0).v (vat vs 1).v
  drawing s (md.rm == .sto) (scalarE s
    ⟨[(o.a, o.ta), (o.b, o.tb)], some o.d, sx16 o.imm, noChk, fun vs => ⟨BitVec.ofNat 64 (draw vs).2, anyP vs⟩⟩
    (fun vs t => t.setLfsr (draw vs).1))

/-- Lanes of an unpacked type (R163). -/
def cvuLanes (ty : Ty) : Nat := if ty = .t6 then 10 else 64 / tyWidth ty

/-- Lane n as an exact FP32 code, with the poison that its L4 table entry adds. -/
def cvuLane (u : UnitSt) (ty : Ty) (a : Word) (n : Nat) : Val :=
  let c := a.toNat / 2 ^ (n * tyWidth ty) % 2 ^ tyWidth ty
  if ty = .l4 then
    let e := u.l4At c
    ⟨BitVec.ofNat 64 (roundNum .f32 mdRne 0 (.ofInt (intOf 8 true e.v.toNat))), e.p⟩
  else ⟨BitVec.ofNat 64 (roundNum .f32 mdRne 0 (decodeNum ty c)), false⟩

def execCvu (ty : Ty) (o : Bin) (s : State) : Out :=
  binChk s o
    (fun vs => firstExc [((vat vs 1).p, .consume (cz 0xA02) s.ip),
      (cvuLanes ty ≤ (vat vs 1).v.toNat, .trap (cz 0x201) (vat vs 1).v)])
    (fun vs => let r := cvuLane s.un ty (vat vs 0).v (vat vs 1).v.toNat; ⟨r.v, (vat vs 0).p || r.p⟩)

/-! ## The SFU (R160, R161) -/

/-- An SFU instruction: the operand is read, the request enters the queue, the result will land. -/
def sfuOp (s : State) (fn : SfuFn) (ty : Ty) (md : Md) (o : Un) : Out :=
  if s.runs && 8 ≤ (s.coreAt s.core).sfu.length then .next (s.waits .sfu)
  else drawing s (md.rm == .sto) <| control s ⟨[(o.a, o.ta)], sx16 o.imm, noChk, fun t vs =>
    let d := sfuDraw fn ty md s.un.lfsr (fVal ty vs 0)
    let reg := match o.d with | .g n => n.toNat | _ => 0
    let q : SfuReq := { thread := s.th, key := s.un.key, ctx := s.ctx, reg := reg, fn := fn, ty := ty, md := md
                        a := vat vs 0, code := d.2, seq := s.nextReq }
    let t : State := t.setLfsr d.1
    let t : State := t.modCore s.core (fun c => { c with sfu := c.sfu ++ [q] })
    let t : State := { t with nextReq := s.nextReq + 1 }
    (t.pm s.th 10 s.cx.priv).retire⟩

def execFexp2 (ty : Ty) (md : Md) (o : Un) (s : State) : Out := sfuOp s .exp2 ty md o
def execFlog2 (ty : Ty) (md : Md) (o : Un) (s : State) : Out := sfuOp s .log2 ty md o
def execFrcp (ty : Ty) (md : Md) (o : Un) (s : State) : Out := sfuOp s .rcp ty md o
def execFrsq (ty : Ty) (md : Md) (o : Un) (s : State) : Out := sfuOp s .rsq ty md o
def execFsqrt (ty : Ty) (md : Md) (o : Un) (s : State) : Out := sfuOp s .sqrt ty md o
def execFsin (ty : Ty) (md : Md) (o : Un) (s : State) : Out := sfuOp s .sin ty md o
def execFcos (ty : Ty) (md : Md) (o : Un) (s : State) : Out := sfuOp s .cos ty md o
def execFtanh (ty : Ty) (md : Md) (o : Un) (s : State) : Out := sfuOp s .tanh ty md o

/-! ## Control flow (R164-R167) -/

/-- A target that a branch about to be taken cannot have (R165). -/
def badTarget (t : Word) : Bool × Exc := (!targetOk t, .trap (cz 0x401) t)

def execBr (off : BitVec 32) (s : State) : Out :=
  let t := s.cx.pc + off32 off
  control s ⟨[], 0, fun _ => firstExc [badTarget t], fun s _ => s.retireEnd t⟩

/-- BZ and BNZ: poison is consumed, then a bad target of a taken branch traps. -/
def condBr (s : State) (a : Src) (off : BitVec 32) (taken : Word → Bool) : Out :=
  let t := s.cx.pc + off32 off
  control s ⟨[(a.a, a.ta)], sx16 a.imm,
    fun vs => firstExc [((vat vs 0).p, .consume (cz 0xA01) s.ip), (taken (vat vs 0).v && !targetOk t, .trap (cz 0x401) t)],
    fun s' vs => s'.retireEnd (if taken (vat vs 0).v then t else s.nextPc)⟩
def execBz (a : Src) (off : BitVec 32) (s : State) : Out := condBr s a off (· == 0)
def execBnz (a : Src) (off : BitVec 32) (s : State) : Out := condBr s a off (· != 0)

def execBcmp (cc : Cc) (ty : Ty) (a : Opd) (ta : Bool) (b : Opd) (tb : Bool) (off : BitVec 16) (s : State) : Out :=
  let t := s.cx.pc + sx16 off * 4
  let taken (vs : List Val) := intCond cc (tyWidth ty) ty.signed (vat vs 0).v.toNat (vat vs 1).v.toNat
  control s ⟨[(a, ta), (b, tb)], 0,
    fun vs => firstExc [(anyP vs, .consume (cz 0xA01) s.ip), (taken vs && !targetOk t, .trap (cz 0x401) t)],
    fun s' vs => s'.retireEnd (if taken vs then t else s.nextPc)⟩

def execJmp (a : Opd) (ta : Bool) (s : State) : Out :=
  control s ⟨[(a, ta)], 0,
    fun vs => firstExc [((vat vs 0).p, .consume (cz 0xA01) s.ip), badTarget (vat vs 0).v],
    fun s' vs => s'.retireEnd (vat vs 0).v⟩

def execCall (d a : Opd) (off : BitVec 32) (s : State) : Out :=
  let tgt (vs : List Val) := if a = .imm then s.cx.pc + off32 off else (vat vs 0).v
  let chk (vs : List Val) : Option Exc := firstExc [((vat vs 0).p, .consume (cz 0xA01) s.ip), badTarget (tgt vs)]
  if s.runs && !s.linksOk [a, d] then .next (s.badLink 0 [(a, false)] (some d))
  else if s.runs && !s.room [(a, false)] d then .next (s.waits .link)
  else control s ⟨[(a, false)], 0, chk,
    fun s' vs => (s'.writeDst ⟨s.cx.pc + 12, false⟩ d).retireEnd (tgt vs)⟩

def execLoop (d : Opd) (off : BitVec 32) (s : State) : Out :=
  let t := s.cx.pc + off32 off
  if s.runs && !s.room [(d, false)] d then .next (s.waits .link)
  else control s ⟨[(d, false)], 0,
    fun vs => firstExc [((vat vs 0).p, .consume (cz 0xA01) s.ip),
      ((vat vs 0).v != 0 && (vat vs 0).v != 1 && !targetOk t, .trap (cz 0x401) t)],
    fun s' vs =>
      let n := (vat vs 0).v
      if n = 0 then s'.retireEnd s.nextPc
      else (s'.writeDst ⟨n - 1, false⟩ d).retireEnd (if n = 1 then s.nextPc else t)⟩

def execNop (s : State) : Out := control s ⟨[], 0, noChk, fun s _ => s.retire⟩

/-! ## Presence and queues (R168) -/

/-- The general register that a presence instruction acts on. -/
def gNum : Opd → Nat
  | .g n => n.toNat
  | .x _ => 0
  | .link _ => 0
  | .imm => 0
  | .rsv _ => 0

def execEmpty (d : Opd) (s : State) : Out :=
  control s ⟨[], 0, noChk, fun s _ => (s.setCx (s.cx.setReg (gNum d) (s.cx.reg (gNum d)).take)).retire⟩
def execMarkf (d : Opd) (s : State) : Out :=
  control s ⟨[], 0, fun _ => firstExc [((s.cx.reg (gNum d)).depth != 0, .trap (cz 0x106) s.ip)],
    fun s _ => (s.setCx (s.cx.setReg (gNum d) { s.cx.reg (gNum d) with f := true })).retire⟩
def execProbe (d a : Opd) (s : State) : Out :=
  scalar s ⟨[], some d, 0, noChk, fun _ => ⟨BitVec.ofNat 64 (probeWord (s.cx.reg (gNum a)) (s.heldFor (gNum a))), false⟩⟩
def execWaitf (a : Opd) (ta : Bool) (s : State) : Out := control s ⟨[(a, ta)], 0, noChk, fun s _ => s.retire⟩

/-- QCFG's two checks: the depth, then the pool after the old entries are returned (R130, R168). -/
def qcfgChk (s : State) (n : Nat) (d : Word) : Option Exc :=
  if n = 0 then none
  else firstExc [(16 < d.toNat, .trap (cz 0x105) d),
    (256 < s.un.drawn - (s.cx.reg n).depth + d.toNat, .trap (cz 0x104) s.ip)]
def execQcfg (d a : Opd) (imm : BitVec 16) (s : State) : Out :=
  control s ⟨[(a, false)], sx16 imm, fun vs => qcfgChk s (gNum d) (vat vs 0).v,
    fun s' vs => (s'.setCx (s'.cx.setReg (gNum d) { s'.cx.reg (gNum d) with
      f := false, p := false, depth := (vat vs 0).v.toNat, q := [] })).retire⟩
def execQrst (d : Opd) (s : State) : Out :=
  control s ⟨[], 0, noChk, fun s _ => (s.setCx (s.cx.setReg (gNum d) { s.cx.reg (gNum d) with
    f := false, p := false, q := [] })).retire⟩
def execQocc (d a : Opd) (s : State) : Out :=
  scalar s ⟨[], some d, 0, noChk, fun _ => ⟨BitVec.ofNat 64 (qoccWord (s.cx.reg (gNum a)) (s.heldFor (gNum a))), false⟩⟩

end Sys2Proof.Machine
end

