-- ==== Sys2Proof/Machine/Shape.lean ====
section
/-!
DEFINITION. Shape records (R135), iteration over them (R198 to R200), and the shape-register instructions (R210 to R212).
-/
namespace Sys2Proof.Machine

/-! ## The record (R135, R199) -/

/-- Bits lo .. lo + w − 1 of a record. -/
def recField (r : BitVec 320) (lo w : Nat) : Nat := r.toNat / 2 ^ lo % 2 ^ w
/-- Those bits replaced by x. -/
def recPut (r : BitVec 320) (lo w x : Nat) : BitVec 320 :=
  (r &&& ~~~(BitVec.ofNat 320 ((2 ^ w - 1) * 2 ^ lo))) ||| BitVec.ofNat 320 (x % 2 ^ w * 2 ^ lo)

def Shape.base (h : Shape) : Nat := recField h.r 0 32
def Shape.esz (h : Shape) : Nat := recField h.r 35 3
def Shape.top (h : Shape) : Nat := recField h.r 38 2
def Shape.ext (h : Shape) (d : Nat) : Nat := recField h.r (64 + 16 * d) 16
def Shape.stride (h : Shape) (d : Nat) : Int := intOf 32 true (recField h.r (128 + 32 * d) 32)
def Shape.cur (h : Shape) (d : Nat) : Nat := recField h.r (256 + 16 * d) 16
/-- Dimensions 0 to top. -/
def Shape.dims (h : Shape) : List Nat := upto (h.top + 1)

/-- Element size in bytes (R198). -/
def eszBytes (e : Nat) : Nat := if e = 4 then 64 else 2 ^ e
def Shape.bytes (h : Shape) : Nat := eszBytes h.esz

/-- Element count (R199). -/
def Shape.count (h : Shape) : Nat := h.dims.foldl (fun n d => n * h.ext d) 1
/-- Linear index of the cursor; the count when it is exhausted (R199). -/
def Shape.lin (h : Shape) : Nat := (h.dims.reverse).foldl (fun n d => n * h.ext d + h.cur d) 0
/-- Elements remaining. -/
def Shape.remain (h : Shape) : Nat := h.count - h.lin

/-- Index in dimension d of linear index i: the top dimension is not reduced, so the count gives the exhausted cursor. -/
def Shape.indexOf (h : Shape) (i d : Nat) : Nat :=
  let q := i / (upto d).foldl (fun n e => n * h.ext e) 1
  if d = h.top then q else q % h.ext d

/-- The cursor moved to linear index i. -/
def Shape.setLin (h : Shape) (i : Nat) : Shape :=
  { h with r := h.dims.foldl (fun r d => recPut r (256 + 16 * d) 16 (h.indexOf i d)) h.r }

/-- Local-store offset of the element at linear index i (R199). -/
def Shape.offset (h : Shape) (i : Nat) : Int :=
  h.dims.foldl (fun o d => o + (h.indexOf i d : Int) * h.stride d) h.base

/-- The record is valid (R135). -/
def Shape.recOk (h : Shape) : Bool :=
  recField h.r 40 24 == 0 && recField h.r 32 3 == 0 && h.esz ≤ 4 && h.dims.all (fun d => h.ext d != 0)

/-- The cursor is valid (R199). -/
def Shape.curOk (h : Shape) : Bool :=
  (h.cur h.top == h.ext h.top && (upto h.top).all (fun d => h.cur d == 0)) || h.dims.all (fun d => h.cur d < h.ext d)

def Shape.ok (h : Shape) : Bool := h.recOk && h.curOk

def UnitSt.shape (u : UnitSt) (k : Nat) : Shape := u.shapes.get .reset k
def UnitSt.setShape (u : UnitSt) (k : Nat) (h : Shape) : UnitSt := { u with shapes := u.shapes.set k h }

/-! ## Fields (R211) -/

/-- First bit and width of a field; none for REMAIN, INDEX and REWIND. -/
def shfBits : ShField → Option (Nat × Nat)
  | .base => some (0, 32)
  | .esz => some (35, 3)
  | .rank => some (38, 2)
  | .ext d => some (64 + 16 * d.toNat, 16)
  | .stride d => some (128 + 32 * d.toNat, 32)
  | .cur d => some (256 + 16 * d.toNat, 16)
  | .remain => none
  | .index => none
  | .rewind => none

/-- SHSET accepts a value (R211). -/
def shfAccepts (f : ShField) (v : Word) : Bool :=
  match f with
  | .base => v.toNat < 2 ^ 32
  | .esz => v.toNat ≤ 4
  | .rank => v.toNat ≤ 3
  | .ext _ => v.toNat < 65536
  | .stride _ => -(2 ^ 31) ≤ v.toInt && v.toInt < 2 ^ 31
  | .cur _ => v.toNat < 65536
  | .remain => true
  | .index => true
  | .rewind => true

/-- What SHRD reads. -/
def Shape.read (h : Shape) (f : ShField) : Word :=
  match f with
  | .stride d => BitVec.ofInt 64 (h.stride d.toNat)
  | .remain => if h.ok then BitVec.ofNat 64 h.remain else 0
  | .index => if h.ok then BitVec.ofNat 64 h.lin else 0
  | .rewind => 0
  | .base => BitVec.ofNat 64 h.base
  | .esz => BitVec.ofNat 64 h.esz
  | .rank => BitVec.ofNat 64 h.top
  | .ext d => BitVec.ofNat 64 (h.ext d.toNat)
  | .cur d => BitVec.ofNat 64 (h.cur d.toNat)

/-- What SHSET writes; P is cleared (R136). -/
def Shape.write (h : Shape) (f : ShField) (v : Word) : Shape :=
  match shfBits f with
  | some b => ⟨recPut h.r b.1 b.2 v.toNat, false⟩
  | none => ⟨(upto 4).foldl (fun r d => recPut r (256 + 16 * d) 16 0) h.r, false⟩

/-! ## Accesses to the local store of the own core (R200) -/

/-- An access of n bytes at an offset, aligned to al. -/
structure LsAcc where
  off : Int
  n : Nat
  al : Nat
  wr : Bool
deriving DecidableEq, Repr

/-- The first failing check of a list of accesses: 301, then 407, then 303 (R200, R222). -/
def State.lsExc (s : State) (k t : Nat) (l : List LsAcc) : Option Exc :=
  match l.find? (fun a => a.off < 0 || 0x30000 < a.off + (a.n : Int)) with
  | some a => some (.trap (cz 0x301) (BitVec.ofInt 64 a.off))
  | none => match l.find? (fun a => a.off % (a.al : Int) != 0) with
    | some a => some (.trap (cz 0x407) (BitVec.ofInt 64 a.off))
    | none => match l.find? (fun a => !s.lsPermits k t a.off.toNat a.n a.wr) with
      | some a => some (.trap (cz 0x303) (BitVec.ofInt 64 a.off))
      | none => none

/-! ## The instructions (R210 to R212) -/

/-- Shape registers that queued vector instructions of the unit name, by a given reader of an instruction (R137). -/
def UnitSt.busyShapes (u : UnitSt) (names : Instr → List Nat) : List Nat := u.vq.flatMap (fun j => names j.i)

/-- Shape registers that a vector instruction names (R137, R201). -/
def vecNamed (v : VecOp) (d a b c : Bool) : List Nat :=
  (if d then [v.sd.toNat] else []) ++ (if a then [v.sa.toNat] else []) ++ (if b then [v.sb.toNat] else []) ++
    (if c then [v.sc.toNat] else [])

/-- Shape registers that an instruction of the vector queue names. -/
def shapesOf : Instr → List Nat
  | .vadd _ _ v => vecNamed v true true (!v.sbf) false
  | .vsub _ _ v => vecNamed v true true (!v.sbf) false
  | .vmul _ _ v => vecNamed v true true (!v.sbf) false
  | .vfma _ _ v => vecNamed v true true (!v.sbf) true
  | .vmin _ _ v => vecNamed v true true (!v.sbf) false
  | .vmax _ _ v => vecNamed v true true (!v.sbf) false
  | .vabs _ _ v => vecNamed v true true false false
  | .vneg _ _ v => vecNamed v true true false false
  | .vand _ v => vecNamed v true true (!v.sbf) false
  | .vor _ v => vecNamed v true true (!v.sbf) false
  | .vxor _ v => vecNamed v true true (!v.sbf) false
  | .vshl _ v => vecNamed v true true (!v.sbf) false
  | .vshr _ v => vecNamed v true true (!v.sbf) false
  | .vcmp _ _ _ v => vecNamed v true true (!v.sbf) false
  | .vsel _ v => vecNamed v true true (!v.sbf) true
  | .vcvt _ _ v => vecNamed v true true false false
  | .vcopy _ v => vecNamed v true true false false
  | .vbcst _ _ v => vecNamed v true false false false
  | .vgath _ v => vecNamed v true true true false
  | .vscat _ v => vecNamed v true true true false
  | .vsum _ _ v => vecNamed v false true false false
  | .vrmax _ v => vecNamed v false true false false
  | .vsfu _ _ _ v => vecNamed v true true false false
  | .vqnt _ _ v => vecNamed v true true false false
  | .vdq _ _ v => vecNamed v true true false false
  | .vpclr _ v => vecNamed v true false false false
  | _ => []

/-- A queued vector instruction of the acting unit names one of the shape registers. -/
def State.shapeBusy (s : State) (l : List Nat) : Bool := l.any ((s.un.busyShapes shapesOf).contains ·)

/-- A shape-register instruction: it waits while a vector instruction names its register (R137). -/
def shapeCtl (s : State) (k : Nat) (p : Ctl) : Out :=
  if s.runs && s.shapeBusy [k] then .next (s.waits .shape) else control s p

/-- The scalar GS of a V96 instruction and the value of code 63 (R86). -/
def gsSrc (v : VecOp) : SrcOp := (v.gs, false)
def gsImm (v : VecOp) : Word := v.imm.signExtend 64

/-- Offset of the record of SHLD and SHST. -/
def recOff (v : VecOp) (vs : List Val) : Int := (vat vs 0).v.toNat + v.imm.toInt

/-- The checks of SHLD and SHST (R210). -/
def recChk (s : State) (v : VecOp) (wr : Bool) (vs : List Val) : Option Exc :=
  if (vat vs 0).p then some (.consume (cz 0xA03) s.ip) else s.lsExc s.core s.th [⟨recOff v vs, 40, 8, wr⟩]

/-- SHLD and SHST: an access to the local store, which stands in the order of the context's accesses (R307). -/
def shapeMem (s : State) (k : Nat) (p : Ctl) : Out :=
  if s.runs && !s.inOrder then .next (s.waits .hold)
  else shapeCtl s k { p with act := fun s vs => p.act (s.setCx s.cx.noSpin) vs }

/-- SHLD. -/
def execShld (v : VecOp) (s : State) : Out :=
  shapeMem s v.sd.toNat
    { srcs := [gsSrc v], imm := 0, chk := recChk s v false
      act := fun s vs =>
        let m := s.lsOf s.core
        let a := (recOff v vs).toNat
        (s.setUn (s.un.setShape v.sd.toNat ⟨BitVec.ofNat 320 (m.read a 40), m.anyPoison a 40⟩)).retire }

/-- SHST. -/
def execShst (v : VecOp) (s : State) : Out :=
  shapeMem s v.sa.toNat
    { srcs := [gsSrc v], imm := 0, chk := recChk s v true
      act := fun s vs =>
        let h := s.un.shape v.sa.toNat
        let a := (recOff v vs).toNat
        match s.lsWrite s.core a 40 (fun m => m.write a 40 h.r.toNat h.p) with
        | some s => s.retire
        | none => s.snapOverflow s.core }

/-- SHSET. -/
def execShset (fld : ShField) (v : VecOp) (s : State) : Out :=
  let k := v.sd.toNat
  shapeCtl s k
    { srcs := [gsSrc v], imm := gsImm v
      chk := fun vs => firstExc [((vat vs 0).p, .consume (cz 0xA07) s.ip),
        (!shfAccepts fld (vat vs 0).v, .trap (cz 0x306) (vat vs 0).v)]
      act := fun s vs => (s.setUn (s.un.setShape k ((s.un.shape k).write fld (vat vs 0).v))).retire }

/-- SHADV. -/
def execShadv (v : VecOp) (s : State) : Out :=
  let k := v.sd.toNat
  shapeCtl s k
    { srcs := [gsSrc v], imm := gsImm v
      chk := fun vs =>
        let h := s.un.shape k
        firstExc [((vat vs 0).p, .consume (cz 0xA07) s.ip), (!h.ok, .trap (cz 0x304) s.ip),
          (h.remain < (vat vs 0).v.toNat, .trap (cz 0x305) s.ip)]
      act := fun s vs =>
        let h := s.un.shape k
        (s.setUn (s.un.setShape k (h.setLin (h.lin + (vat vs 0).v.toNat)))).retire }

/-- SHRD. -/
def execShrd (fld : ShField) (v : VecOp) (s : State) : Out :=
  if s.runs && s.shapeBusy [v.sa.toNat] then .next (s.waits .shape)
  else scalar s ⟨[], some v.gs, 0, fun _ => none,
    fun _ => ⟨(s.un.shape v.sa.toNat).read fld, (s.un.shape v.sa.toNat).p⟩⟩

end Sys2Proof.Machine
end

