-- ==== Sys2Proof/Machine/Vector.lean ====
section
/-!
DEFINITION. The vector instructions (R198 to R222): their plan (which shapes they stream, what they compute for an
element), their issue, and a chunk of one as a step of the vector unit.
-/
namespace Sys2Proof.Machine

/-! ## Plans -/

/-- ESZ of a type (R198). -/
def tyEsz : Ty → Nat
  | .i64 => 3 | .i32 => 2 | .f32 => 2 | .i16 => 1 | .ui16 => 1 | .f16 => 1 | .bf16 => 1 | .blk => 4
  | .i8 => 0 | .ui8 => 0 | .e4m3 => 0 | .e5m2 => 0 | .t8 => 0 | .t6 => 0 | .l4 => 0

/-- A shape that an instruction streams. -/
structure VStream where
  sh : Nat
  ty : Option Ty      -- the type that its ESZ must agree with; none: ESZ 0 to 3 (R214, R217)
  per : Nat           -- its elements per element of the instruction's count
  wr : Bool
deriving DecidableEq, Repr

/-- What runs along the elements: the LFSR, a reduction, the format violations. -/
structure VRun where
  lfsr : BitVec 32
  run : Val
  lanes : List Val
  n : Nat
  fmtv : Nat
  seen : List Nat    -- block lines whose violations have been counted
deriving DecidableEq, Repr

/-- What an instruction does with an element. -/
inductive VSem where
  | map (f : BitVec 32 → List Val → BitVec 32 × Val)   -- the sources A, B, C; the scalar stands in for B
  | gather
  | scatter
  | reduce (f : VRun → Val → VRun) (fin : VRun → Val)
  | copyLine
  | clear
  | quant (fmt : Ty) (md : Md) (k : Nat)
  | dequant (fmt : Ty) (md : Md)

/-- An instruction as the vector unit sees it; streams in the order index, A, B, C, D (R222). -/
structure VPlan where
  v : VecOp
  drive : Nat
  streams : List VStream
  table : Option (Nat × Ty × Bool)   -- table shape, its type, and whether it is written (R217)
  scalar : Bool                      -- GS is read (R201)
  line : Bool                        -- a chunk is one block line (R204)
  sem : VSem

/-! ## Element functions -/

/-- A float result: rounded once, with a draw under .sto (R213). -/
def vFloat (ty : Ty) (md : Md) (f : List FV → FV) (l : BitVec 32) (vs : List Val) : BitVec 32 × Val :=
  let d := roundDraw ty md l (f (vs.map (fun v => decodeNum ty v.v.toNat)))
  (d.1, ⟨BitVec.ofNat 64 d.2, anyP vs⟩)

/-- A result without a draw. -/
def vPure (f : List Val → Val) (l : BitVec 32) (vs : List Val) : BitVec 32 × Val := (l, f vs)

/-- Value i of a list of floats. -/
def fat (l : List FV) (i : Nat) : FV := l.getD i .nan

/-- An integer or a float operation on two elements, by the type (R213). -/
def vArith (ty : Ty) (md : Md) (fi : Int → Int → Int) (ff : FV → FV → FV) :
    BitVec 32 → List Val → BitVec 32 × Val :=
  if ty.isInt then vPure (intRes ty md.sat fi) else vFloat ty md (fun l => ff (fat l 0) (fat l 1))

/-- Minimum or maximum; a float one is rounded under MD as every float result is (R114, R158, R213). -/
def vPick (ty : Ty) (md : Md) (fi : Int → Int → Int) (ff : FV → FV → FV) : BitVec 32 → List Val → BitVec 32 × Val :=
  if ty.isInt then vPure (intRes ty false fi) else vFloat ty md (fun l => ff (fat l 0) (fat l 1))

/-- A one-source operation (R213). -/
def vOne (ty : Ty) (md : Md) (fi : Int → Int) (ff : FV → FV) : BitVec 32 → List Val → BitVec 32 × Val :=
  if ty.isInt then vPure (intRes ty md.sat (fun x _ => fi x)) else vFloat ty md (fun l => ff (fat l 0))

/-- VCMP (R214). -/
def vCmp (cc : Cc) (ty : Ty) : BitVec 32 → List Val → BitVec 32 × Val :=
  vPure (fun vs => ⟨boolWord (if ty.isInt then intCond cc (tyWidth ty) ty.signed (vat vs 0).v.toNat (vat vs 1).v.toNat
    else fvCond cc (fVal ty vs 0) (fVal ty vs 1)), anyP vs⟩)

/-- VSEL (R214): the bits of a or b, by the condition element. -/
def vSel : BitVec 32 → List Val → BitVec 32 × Val :=
  vPure (fun vs => let r := if (vat vs 2).v != 0 then vat vs 0 else vat vs 1; ⟨r.v, (vat vs 2).p || r.p⟩)

/-- VCVT from st to dt (R215, R159). -/
def vCvt (dt st : Ty) (md : Md) (l : BitVec 32) (vs : List Val) : BitVec 32 × Val :=
  let d := roundDraw dt (if dt.isInt && st.isInt then mdRne else md) l (decodeNum st (vat vs 0).v.toNat)
  (d.1, ⟨BitVec.ofNat 64 d.2, anyP vs⟩)

/-- VSFU (R219). -/
def vSfu (fn : SfuFn) (ty : Ty) (md : Md) (l : BitVec 32) (vs : List Val) : BitVec 32 × Val :=
  let d := sfuDraw fn ty md l (fVal ty vs 0)
  (d.1, ⟨BitVec.ofNat 64 d.2, anyP vs⟩)

/-! ## Reductions (R121, R218) -/

/-- A sum in 512 bits, as 16 words of 32 bits. -/
def intLanes (i : Int) : List Val :=
  let n := (i % 2 ^ 512).toNat
  (upto 16).map (fun k => ⟨BitVec.ofNat 64 (n / 2 ^ (32 * k) % 2 ^ 32), false⟩)
def lanesInt (l : List Val) : Int := intOf 512 true (l.foldr (fun v n => v.v.toNat % 2 ^ 32 + 2 ^ 32 * n) 0)

/-- One RNE addition of FP32 codes (R121). -/
def laneAdd (a : Val) (x : FV) (p : Bool) : Val :=
  ⟨BitVec.ofNat 64 (roundNum .f32 mdRne 0 (fvAdd mdRne (decodeNum .f32 a.v.toNat) x)), a.p || p⟩

/-- Element n joins lane n mod 16, or the exact sum. -/
def sumStep (ty : Ty) (a : VRun) (x : Val) : VRun :=
  if ty.isInt then
    { a with n := a.n + 1, run := ⟨0, a.run.p || x.p⟩
             lanes := intLanes (lanesInt a.lanes + intOf (tyWidth ty) ty.signed x.v.toNat) }
  else
    let l := (upto 16).map (fun i => a.lanes.getD i .zero)
    { a with n := a.n + 1, lanes := modNth (fun v => laneAdd v (decodeNum ty x.v.toNat) x.p) (a.n % 16) l }

/-- Adjacent pairs added. -/
def pairUp : List Val → List Val
  | a :: b :: l => laneAdd a (decodeNum .f32 b.v.toNat) b.p :: pairUp l
  | l => l

/-- The result of VSUM. -/
def sumEnd (ty : Ty) (sat : Bool) (a : VRun) : Val :=
  if ty.isInt then
    let i := lanesInt a.lanes
    ⟨BitVec.ofInt 64 (if sat then clampInt 64 ty.signed i else i), a.run.p⟩
  else vat (pairUp (pairUp (pairUp (pairUp ((upto 16).map (fun i => a.lanes.getD i .zero)))))) 0

/-- The least value of VRMAX. -/
def rmaxStart (ty : Ty) : Word :=
  if ty.isInt then BitVec.ofInt 64 (intMin (tyWidth ty) ty.signed)
  else BitVec.ofNat 64 (roundNum ty mdRne 0 (.inf true))

def rmaxStep (ty : Ty) (a : VRun) (x : Val) : VRun :=
  let r : Word :=
    if ty.isInt then
      let e := extOf (tyWidth ty) ty.signed x.v.toNat
      if a.n = 0 then e else if intOf 64 ty.signed a.run.v.toNat < intOf 64 ty.signed e.toNat then e else a.run.v
    else if a.n = 0 then BitVec.ofNat 64 (roundNum ty mdRne 0 (decodeNum ty x.v.toNat))
    else BitVec.ofNat 64 (roundNum ty mdRne 0 (fvMax (decodeNum ty a.run.v.toNat) (decodeNum ty x.v.toNat)))
  { a with n := a.n + 1, run := ⟨r, a.run.p || x.p⟩ }

def rmaxEnd (ty : Ty) (a : VRun) : Val := if a.n = 0 then ⟨rmaxStart ty, false⟩ else a.run

/-! ## Plans of the instructions (R201, R213 to R221) -/

def str (sh : BitVec 3) (ty : Ty) : VStream := ⟨sh.toNat, some ty, 1, false⟩
def strAny (sh : BitVec 3) : VStream := ⟨sh.toNat, none, 1, false⟩
def VStream.out (s : VStream) : VStream := { s with wr := true }
def VStream.each (s : VStream) (n : Nat) : VStream := { s with per := n }

/-- An elementwise plan: A, then B unless it is the scalar, then extra sources, then D, which drives. -/
def mapPlan (v : VecOp) (ty : Ty) (extra : List VStream) (d : VStream)
    (f : BitVec 32 → List Val → BitVec 32 × Val) : VPlan :=
  { v := v, drive := v.sd.toNat
    streams := str v.sa ty :: ((if v.sbf then [] else [str v.sb ty]) ++ extra ++ [d.out]), table := none
    scalar := v.sbf, line := false, sem := .map f }

/-- A plan with one source. -/
def unaryPlan (v : VecOp) (st : Ty) (d : VStream) (f : BitVec 32 → List Val → BitVec 32 × Val) : VPlan :=
  { v := v, drive := v.sd.toNat, streams := [str v.sa st, d.out], table := none, scalar := false, line := false
    sem := .map f }

/-- The source type of VCVT: IMM32<3:0> (R215). -/
def cvtSrc (v : VecOp) : Ty :=
  [Ty.i64, .i32, .i16, .ui16, .i8, .ui8, .f32, .f16, .bf16, .e4m3, .e5m2, .t8, .t6].getD (v.imm.toNat % 16) .t6

/-- The plan of a vector instruction. -/
def vecPlan : Instr → Option VPlan
  | .vadd ty md v => some (mapPlan v ty [] (str v.sd ty) (vArith ty md (· + ·) (fvAdd md)))
  | .vsub ty md v => some (mapPlan v ty [] (str v.sd ty) (vArith ty md (· - ·) (fun x y => fvAdd md x y.neg)))
  | .vmul ty md v => some (mapPlan v ty [] (str v.sd ty) (vArith ty md (· * ·) FV.mul))
  | .vfma ty md v => some (mapPlan v ty [str v.sc ty] (str v.sd ty)
      (vFloat ty md (fun l => fvAdd md ((fat l 0).mul (fat l 1)) (fat l 2))))
  | .vmin ty md v => some (mapPlan v ty [] (str v.sd ty) (vPick ty md (fun x y => if x ≤ y then x else y) fvMin))
  | .vmax ty md v => some (mapPlan v ty [] (str v.sd ty) (vPick ty md (fun x y => if x ≤ y then y else x) fvMax))
  | .vabs ty md v => some (unaryPlan v ty (str v.sd ty) (vOne ty md (fun x => x.natAbs) FV.abs))
  | .vneg ty md v => some (unaryPlan v ty (str v.sd ty) (vOne ty md (fun x => -x) FV.neg))
  | .vand ty v => some (mapPlan v ty [] (str v.sd ty) (vPure (logRes (· &&& ·))))
  | .vor ty v => some (mapPlan v ty [] (str v.sd ty) (vPure (logRes (· ||| ·))))
  | .vxor ty v => some (mapPlan v ty [] (str v.sd ty) (vPure (logRes (· ^^^ ·))))
  | .vshl ty v => some (mapPlan v ty [] (str v.sd ty) (vPure (natRes ty (shlF (tyWidth ty)))))
  | .vshr ty v => some (mapPlan v ty [] (str v.sd ty)
      (vPure (natRes ty (if ty.signed then sraF (tyWidth ty) else shrF (tyWidth ty)))))
  | .vcmp cc ty _ v => some (mapPlan v ty [] (strAny v.sd) (vCmp cc ty))
  | .vsel ty v => some (mapPlan v ty [strAny v.sc] (str v.sd ty) vSel)
  | .vcvt ty md v => some (unaryPlan v (cvtSrc v) (str v.sd ty) (vCvt ty (cvtSrc v) md))
  | .vcopy ty v =>
    let p := unaryPlan v ty (str v.sd ty) (vPure (vat · 0))
    some (if ty = .blk then { p with line := true, sem := .copyLine } else p)
  | .vbcst ty _ v => some { v := v, drive := v.sd.toNat, streams := [(str v.sd ty).out], table := none, scalar := true
                            line := false, sem := .map (vPure (vat · 0)) }
  | .vgath ty v => some { v := v, drive := v.sd.toNat, streams := [strAny v.sb, (str v.sd ty).out]
                          table := some (v.sa.toNat, ty, false), scalar := false, line := ty == .blk, sem := .gather }
  | .vscat ty v => some { v := v, drive := v.sb.toNat, streams := [strAny v.sb, str v.sa ty]
                          table := some (v.sd.toNat, ty, true), scalar := false, line := ty == .blk, sem := .scatter }
  | .vsum ty sat v => some { v := v, drive := v.sa.toNat, streams := [str v.sa ty], table := none, scalar := false
                             line := false, sem := .reduce (sumStep ty) (sumEnd ty sat) }
  | .vrmax ty v => some { v := v, drive := v.sa.toNat, streams := [str v.sa ty], table := none, scalar := false
                          line := false, sem := .reduce (rmaxStep ty) (rmaxEnd ty) }
  | .vsfu fn ty md v => some (unaryPlan v ty (str v.sd ty) (vSfu fn ty md))
  | .vqnt fmt md v => some { v := v, drive := v.sd.toNat, streams := [(str v.sa .f32).each 48, (str v.sd .blk).out]
                             table := none, scalar := false, line := true, sem := .quant fmt md v.imm.toNat }
  | .vdq fmt md v => some { v := v, drive := v.sa.toNat, streams := [str v.sa .blk, ((str v.sd .f32).each 48).out]
                            table := none, scalar := false, line := true, sem := .dequant fmt md }
  | .vpclr ty v => some { v := v, drive := v.sd.toNat, streams := [(str v.sd ty).out], table := none, scalar := false
                          line := ty == .blk, sem := .clear }
  | _ => none

/-- GS names the destination of a reduction. -/
def VPlan.red (p : VPlan) : Bool := match p.sem with | .reduce _ _ => true | _ => false

/-- Every shape named. -/
def VPlan.shapes (p : VPlan) : List Nat := p.streams.map (·.sh) ++ (match p.table with | some t => [t.1] | none => [])

/-! ## Quantising and expanding a block line (R220, R221) -/

/-- x exceeds y for the choice of outliers: NaN is largest. -/
def outMore (x y : FV) : Bool := if x.isNan then !y.isNan else if y.isNan then false else y.abs.lt x.abs

/-- Index of the largest of a list of (index, value), ties to the lower index. -/
def outPick : List (Nat × FV) → Option (Nat × FV)
  | [] => none
  | a :: l => match outPick l with
    | none => some a
    | some b => if outMore b.2 a.2 then some b else some a

/-- The k elements of largest magnitude. -/
def outliers : Nat → List (Nat × FV) → List Nat
  | 0, _ => []
  | k + 1, l => match outPick l with
    | none => []
    | some a => a.1 :: outliers k (l.filter (·.1 != a.1))

/-- Largest finite value of a format (R220). -/
def fmtMax (fmt : Ty) (tab : Nat → Int) : Nat :=
  match fmt with
  | .t8 => 4096 | .e4m3 => 448 | .t6 => 16
  | _ => (upto 16).foldl (fun m c => max m (tab c).natAbs) 0

/-- The least n from a start with a ≤ m × 2^n. -/
def leastPow (m : Nat) (num : Nat) (exp n : Int) : Nat → Int
  | 0 => n
  | f + 1 => if magLe num exp m n then n else leastPow m num exp (n + 1) f

/-- The scale of a line for its largest remaining magnitude (R220). -/
def pickScale (m : Nat) (amax : FV) : Nat :=
  match amax with
  | .fin _ num exp =>
    if m = 0 then 127 else (max 0 (min 0xFE (127 + leastPow m num exp (num.log2 + exp - m.log2 - 1) 4))).toNat
  | _ => 127

/-- The code of an element that stays in the line. -/
def restCode (fmt : Ty) (md : Md) (tab : Nat → Int) (e : Nat) (l : BitVec 32) (x : FV) : BitVec 32 × Nat :=
  let d := if md.rm = .sto then lfsrDraw l else (l, 0)
  let y := x.scale (127 - (e : Int))
  (d.1, if e = 255 then 0 else if fmt = .l4 then nearestCode tab y else roundNum fmt md d.2 y)

/-- A block line from 48 values: the LFSR and the 512 bits (R220). -/
def quantLine (fmt : Ty) (md : Md) (tab : Nat → Int) (k : Nat) (l : BitVec 32) (xs : List FV) : BitVec 32 × Nat :=
  let items := (upto 48).zip xs
  let out := outliers k items
  let rest := items.filter (fun a => !out.contains a.1)
  let bad := rest.any (fun a => match a.2 with | .nan => true | .inf _ => true | .zero _ => false | .fin _ _ _ => false)
  let amax := rest.foldl (fun m a => if m.lt a.2.abs then a.2.abs else m) (FV.zero false)
  let e := if bad then 255 else pickScale (fmtMax fmt tab) amax
  let r := rest.foldl (fun (x : BitVec 32 × Nat) a =>
    let c := restCode fmt md tab e x.1 a.2
    (c.1, x.2 + c.2 * 2 ^ (elemBits fmt a.1).1)) (l, 0)
  let slots := (items.filter (fun a => out.contains a.1)).map (fun a => a.1 + 64 + 256 * roundNum .bf16 mdRne 0 a.2)
  let body := ((upto slots.length).zip slots).foldl (fun n a => n + a.2 * 2 ^ (8 * slotByte fmt a.1))
    (r.2 + e * 2 ^ (8 * scaleByte fmt))
  (r.1, body)

/-- The 48 FP32 codes of a line, with their marks (R221). -/
def dequantLine (u : UnitSt) (fmt : Ty) (md : Md) (l : BitVec 32) (v : Nat) (marks : Nat → Bool) : BitVec 32 × List Val :=
  let tab (c : Nat) : Int := intOf 8 true (u.l4At c).v.toNat
  (upto 48).foldl (fun (x : BitVec 32 × List Val) i =>
    let d := roundDraw .f32 md x.1 (elemValue fmt tab v i)
    let byTable := fmt == .l4 && (outlierFor fmt v i).isNone && scaleOf fmt v != 255
    (d.1, x.2 ++ [⟨BitVec.ofNat 64 d.2, elemPoison fmt marks i || (byTable && (u.l4At (codeAt fmt v i)).p)⟩])) (l, [])

/-! ## One element of an instruction -/

/-- What an element writes. -/
inductive VWrite where
  | val (off n : Nat) (v : Val)
  | line (off : Nat) (bytes : List (Byte × Bool))
  | clear (off n : Nat)
deriving DecidableEq, Repr

/-- Bits of an element that count: bits 7:6 of a .t6 element are written as zero, by VCOPY too, whose rule speaks of the bytes of
the element (R198, R216; DESIGN CHOICE, log 92). -/
def elemMask (ty : Option Ty) (v : Word) : Word := if ty = some .t6 then v &&& 0x3F else v

/-- The accesses of one stream for element e of a chunk. -/
def VStream.accs (u : UnitSt) (e : Nat) (st : VStream) : List LsAcc :=
  let h := u.shape st.sh
  (upto st.per).map (fun j => ⟨h.offset (h.lin + e * st.per + j), h.bytes, h.bytes, st.wr⟩)

/-- The value read by an access. -/
def readElem (m : PMem) (ty : Option Ty) (a : LsAcc) : Val :=
  ⟨elemMask ty (BitVec.ofNat 64 (m.read a.off.toNat a.n)), m.anyPoison a.off.toNat a.n⟩

/-- The values of the streams that are read, in order. -/
def readStreams (u : UnitSt) (m : PMem) (e : Nat) (l : List VStream) : List Val :=
  l.flatMap (fun st => if st.wr then [] else (st.accs u e).map (readElem m st.ty))

/-- Where the streams that are written go. -/
def outAccs (u : UnitSt) (e : Nat) (l : List VStream) : List (LsAcc × Option Ty) :=
  l.flatMap (fun st => if st.wr then (st.accs u e).map (·, st.ty) else [])

/-- An element's access to the table, from its index; none with the exception of a bad index (R217). -/
def tableAcc (u : UnitSt) (m : PMem) (ip : Word) (e : Nat) (p : VPlan) : Except Exc (Option LsAcc) :=
  match p.table with
  | none => .ok none
  | some t =>
    let h := u.shape t.1
    match readStreams u m e (p.streams.take 1) with
    | i :: _ =>
      if i.p then .error (.consume (cz 0xA02) ip)
      else if h.count ≤ i.v.toNat then .error (.trap (cz 0x307) i.v)
      else .ok (some ⟨h.offset i.v.toNat, h.bytes, h.bytes, t.2.2⟩)
    | [] => .ok none

/-- Eight granule marks of a line at an offset. -/
def lineMarks (m : PMem) (off g : Nat) : Bool := m.poisoned (off / 8 + g)

/-- Compute element e of a chunk whose checks have passed. -/
def elemCompute (u : UnitSt) (m : PMem) (p : VPlan) (gs : Val) (e : Nat) (tab : Option LsAcc) (a : VRun) :
    VRun × List VWrite :=
  let vs := readStreams u m e p.streams
  let put (v : Val) : List VWrite := (outAccs u e p.streams).map (fun o => .val o.1.off.toNat o.1.n ⟨elemMask o.2 v.v, v.p⟩)
  match p.sem with
  | .map f =>
    let r := f a.lfsr (if p.scalar then vs.take 1 ++ [gs] ++ vs.drop 1 else vs)
    ({ a with lfsr := r.1 }, put r.2)
  | .gather => match tab, p.table with
    | some x, some t =>
      if p.line then (a, (outAccs u e p.streams).map (fun o => .line o.1.off.toNat (m.runAt x.off.toNat 64)))
      else (a, put (readElem m (some t.2.1) x))
    | _, _ => (a, [])
  | .scatter => match tab, p.table with
    | some x, some t =>
      if p.line then (a, ((p.streams.drop 1).flatMap (fun st => st.accs u e)).map (fun y => .line x.off.toNat (m.runAt y.off.toNat 64)))
      else (a, [.val x.off.toNat x.n ⟨elemMask (some t.2.1) (vat vs 1).v, (vat vs 1).p⟩])
    | _, _ => (a, [])
  | .reduce f _ => (f a (vat vs 0), [])
  | .copyLine =>
    let src := (p.streams.flatMap (fun st => if st.wr then [] else st.accs u e)).map (fun x => m.runAt x.off.toNat 64)
    (a, (outAccs u e p.streams).map (fun o => .line o.1.off.toNat (src.headD [])))
  | .clear => (a, (outAccs u e p.streams).map (fun o => .clear o.1.off.toNat o.1.n))
  | .quant fmt md k =>
    let tab (c : Nat) : Int := intOf 8 true (u.l4At c).v.toNat
    let bad := anyP vs || (fmt == .l4 && (upto 16).any (fun c => (u.l4At c).p))
    let r := quantLine fmt md tab k a.lfsr (vs.map (fun v => decodeNum .f32 v.v.toNat))
    ({ a with lfsr := r.1 }, (outAccs u e p.streams).map (fun o => .line o.1.off.toNat ((natLine 64 r.2).map (·, bad))))
  | .dequant fmt md =>
    match p.streams.flatMap (fun st => if st.wr then [] else st.accs u e) with
    | x :: _ =>
      let v := m.read x.off.toNat 64
      let r := dequantLine u fmt md a.lfsr v (lineMarks m x.off.toNat)
      let k := x.off.toNat
      ({ a with lfsr := r.1, seen := setIns k a.seen, fmtv := if a.seen.contains k then a.fmtv else a.fmtv + violations fmt v },
        ((outAccs u e p.streams).zip r.2).map (fun o => .val o.1.1.off.toNat o.1.1.n o.2))
    | [] => (a, [])

/-- The checks of element e, and what it does (R205, R222). An index that cannot be read counts with the other accesses. -/
def elemStep (s : State) (k t : Nat) (ip : Word) (p : VPlan) (gs : Val) (e : Nat) (a : VRun) :
    Except Exc (VRun × List VWrite) :=
  let u := s.unitAt t
  let m := s.lsOf k
  let accs := p.streams.flatMap (fun st => st.accs u e)
  let idxBad := p.table.isSome && (s.lsExc k t (accs.take 1)).isSome
  match (if idxBad then .ok none else tableAcc u m ip e p) with
  | .error x => .error x
  | .ok tab =>
    -- the table is A of VGATH, after the index, and D of VSCAT, last
    let all := match tab with
      | some x => if x.wr then accs ++ [x] else accs.take 1 ++ [x] ++ accs.drop 1
      | none => accs
    match s.lsExc k t all with
    | some x => .error x
    | none => .ok (elemCompute u m p gs e tab a)

/-- The elements e, e + 1, … of a chunk until one fails: accumulator, writes, elements done, exception. -/
def chunkElems (s : State) (k t : Nat) (ip : Word) (p : VPlan) (gs : Val) (a : VRun) (w : List VWrite) (e : Nat) :
    Nat → VRun × List VWrite × Nat × Option Exc
  | 0 => (a, w, e, none)
  | f + 1 =>
    match elemStep s k t ip p gs e a with
    | .error x => (a, w, e, some x)
    | .ok r => chunkElems s k t ip p gs r.1 (w ++ r.2) (e + 1) f

/-- Perform one write on the local store of core k; none when the snapshot log would overflow (R51). -/
def State.vput (s : State) (k : Nat) : VWrite → Option State
  | .val off n v => s.lsWrite k off n (fun m => m.write off n v.v.toNat v.p)
  | .line off l => s.lsWrite k off l.length (fun m => m.writeRun off l)
  | .clear off n => s.lsWrite k off n (fun m => (granules off n).foldl (fun m g => m.setPoison g false) m)

def State.vputs (s : State) (k : Nat) : List VWrite → Option State
  | [] => some s
  | w :: l => match s.vput k w with
    | some s => s.vputs k l
    | none => none

/-! ## Issue (R137, R201 to R203) -/

/-- A resume state is held for the vector instruction at this address (R207). -/
def Ctx.vecResumes (c : Ctx) : Bool := c.vres.kind == 1 && c.vres.addr == c.pc

/-- The count k (R202, R207). -/
def VPlan.count (p : VPlan) (u : UnitSt) (c : Ctx) : Nat :=
  if p.v.count = 0 then (u.shape p.drive).remain else if c.vecResumes then c.vres.cnt else p.v.count.toNat

/-- ESZ agrees with the type of a stream (R198). -/
def eszOk (h : Shape) (ty : Option Ty) : Bool := match ty with | some t => h.esz == tyEsz t | none => h.esz ≤ 3

/-- The shape checks of R202. The cursor of a table shape is ignored (R217). -/
def VPlan.exc (p : VPlan) (u : UnitSt) (c : Ctx) : Option Exc :=
  let k := p.count u c
  firstExc [
    (p.shapes.any (fun h => (u.shape h).p), .consume (cz 0xA07) c.pc),
    (p.streams.any (fun st => !(u.shape st.sh).ok || !eszOk (u.shape st.sh) st.ty) ||
      (match p.table with
        | some t => !(u.shape t.1).recOk || !eszOk (u.shape t.1) (some t.2.1)
        | none => false), .trap (cz 0x304) c.pc),
    (p.streams.any (fun st => (u.shape st.sh).remain < k * st.per), .trap (cz 0x305) c.pc)]

/-- The accumulator that an instruction starts from, or continues from (R207). -/
def Ctx.vecStart (c : Ctx) : VRun :=
  if c.vecResumes then { lfsr := 0, run := c.vres.run, lanes := c.vres.lanes, n := c.vres.next, fmtv := 0, seen := c.vres.seen }
  else { lfsr := 0, run := .zero, lanes := [], n := 0, fmtv := 0, seen := [] }

/-- The resume state of an instruction that has completed is discarded (R207). -/
def Ctx.dropRes (c : Ctx) (pc : Word) : Ctx := if c.vres.kind != 0 && c.vres.addr == pc then { c with vres := .none } else c

/-- A context's vector instruction completes: its result is written, it retires at the next address, and it is fed. -/
def State.vecDone (s : State) (k t c : Nat) (pc : Word) (ir : Parcel) (dst : Option (Opd × Val)) : State :=
  let x := ((s.unitAt t).ctxAt c).dropRes pc
  let x := match dst with
    | some (.g n, v) => x.setReg n.toNat ((x.reg n.toNat).write v)
    | some (.x n, v) => x.setX n.toNat v
    | some (.link _, _) => x
    | some (.imm, _) => x
    | some (.rsv _, _) => x
    | none => x
  let x := { x with pc := pc + 12, busy := .no, wait := .no, assay := x.assay.feed ir }
  (((s.modUnit t (fun u => u.setCtx c x))).pm t 1 x.priv).drain k

/-- Issue of a vector instruction. -/
def vecIssue (i : Instr) (s : State) : Out :=
  match vecPlan i with
  | none => .next s
  | some p =>
    let gs : List SrcOp := if p.scalar then [gsSrc p.v] else []
    if !s.runs then .fault .noContext
    else if !s.inOrder then .next (s.waits .hold)
    else if s.shapeBusy p.shapes then .next (s.waits .shape)
    else if drawsSto i && s.un.mq.any (fun j => drawsSto j.i) then .next (s.waits .unitIdle)
    else if p.red && !s.room [] p.v.gs then .next (s.waits .link)
    else if !s.linksOk (gs.map (·.1)) then .next (s.badLink (gsImm p.v) gs none)
    else match s.srcVals (gsImm p.v) [] gs with
      | none => .next (s.awaits (gsImm p.v) gs)
      | some vs => match p.exc s.un s.cx with
        | some e => .next (s.raise e)
        | none =>
          let a := s.cx.vecStart
          let k := p.count s.un s.cx
          let s' := s.takeAll gs
          if k = 0 then
            .next (s'.vecDone s.core s.th s.ctx s.cx.pc s.ir
              (match p.sem with | .reduce _ fin => some (p.v.gs, fin a) | _ => none))
          else
            let u := s'.un
            let j : VecJob := { ctx := s.ctx, pc := s.cx.pc, ir := s.ir, i := i, gs := vat vs 0, left := k
                                started := false, n := a.n, run := a.run, lanes := a.lanes, seen := a.seen }
            let s' := s'.setUn { u with vq := u.vq ++ [j] }
            .next (s'.setCx { s'.cx.noSpin with busy := .vector, wait := .no })

/-! ## A chunk (R204, R205, R207) -/

/-- What a stop of an instruction records in its context (R207). -/
def Ctx.keepVec (c : Ctx) (j : VecJob) : Ctx :=
  if c.vres.kind = 0 || (c.vres.addr == j.pc) then
    { c with vres := ⟨1, j.pc, j.left, j.n, j.run, j.lanes, j.seen⟩ }
  else c

/-- Streamed cursors advanced by n elements of the count, each shape once (R204). -/
def UnitSt.advance (u : UnitSt) (l : List VStream) (n : Nat) : UnitSt :=
  (l.foldl (fun (x : UnitSt × List Nat) st =>
    if x.2.contains st.sh then x
    else (x.1.setShape st.sh ((u.shape st.sh).setLin ((u.shape st.sh).lin + n * st.per)), st.sh :: x.2)) (u, [])).1

/-- The destination of the reduction at the head of the vector queue has room: R59 gives no case for a queue-mode register that landings have
filled since the issue, and the last chunk then waits for a free entry (DESIGN CHOICE, log 95). -/
def UnitSt.vecRoom (u : UnitSt) (j : VecJob) (p : VPlan) : Bool :=
  !p.red || match p.v.gs with
    | .g n => let r := (u.ctxAt j.ctx).reg n.toNat; r.depth == 0 || r.q.length < r.depth
    | .x _ => true | .link _ => true | .imm => true | .rsv _ => true

/-- Elements of the next chunk. -/
def VPlan.chunk (p : VPlan) (left : Nat) : Nat := min (if p.line then 1 else 16) left

/-- The instruction at the head of the queue of core k's unit performs its next chunk. One whose write would overflow the
snapshot log keeps no resume state (R51, R207; DESIGN CHOICE, log 92). -/
def State.vecChunk (s : State) (core : Nat) : State :=
  let t := (s.coreAt core).thread
  let u := s.unitAt t
  if (s.coreAt core).st != .running then s
  else match u.vq with
    | [] => s
    | j :: rest => match vecPlan j.i with
      | none => s.setUnit t { u with vq := rest }
      | some p =>
        let c := p.chunk j.left
        if c = j.left && !u.vecRoom j p then s
        else
          let a : VRun := { lfsr := u.lfsr, run := j.run, lanes := j.lanes, n := j.n, fmtv := 0, seen := j.seen }
          let r := chunkElems s core t j.pc p j.gs a [] 0 c
          match s.vputs core r.2.1 with
          | none => ((s.setUnit t { u with vq := rest }).modCtx t j.ctx (fun x => { x with busy := .no })).consumeAt
              t j.ctx (cz 0xD0A) j.pc j.pc
          | some s' =>
            let done := r.2.2.1
            let j' := { j with left := j.left - done, started := true, n := r.1.n, run := r.1.run, lanes := r.1.lanes, seen := r.1.seen }
            let u' := { ((s'.unitAt t).advance p.streams done) with lfsr := r.1.lfsr }
            let s' := (upto r.1.fmtv).foldl (fun s _ => s.bump u.part t u.key j.ctx .fmtv) (s'.setUnit t u')
            match r.2.2.2 with
            | some e =>
              let s' := s'.modUnit t (fun u => { u with vq := rest }.modCtx j.ctx (fun x =>
                { x.keepVec j' with busy := .no }))
              match e with
              | .trap k x => s'.trapAt t j.ctx k j.pc x
              | .consume k x => s'.consumeAt t j.ctx k j.pc x
            | none =>
              let s' := s'.pm t 8 (u.ctxAt j.ctx).priv
              if j'.left = 0 then
                (s'.modUnit t (fun u => { u with vq := rest })).vecDone core t j.ctx j.pc j.ir
                  (match p.sem with | .reduce _ fin => some (p.v.gs, fin r.1) | _ => none)
              else s'.modUnit t (fun u => { u with vq := j' :: rest })

/-- The function, type and rounding of a vector instruction that the SFU computes (R219). -/
def sfuOf : Instr → Option (SfuFn × Ty × Md)
  | .vsfu fn ty md _ => some (fn, ty, md)
  | _ => none

/-- A chunk of thread t's VSFU is in the SFU queue of core k (R219). -/
def State.chunkQueued (s : State) (k t : Nat) : Bool :=
  (s.coreAt k).sfu.any (fun q => q.vec && q.thread == t && q.key == (s.unitAt t).key)

/-- VECTOR_CHUNK: the next chunk of the instruction at the head of the queue of core k's unit; one of VSFU enters the SFU
queue as one request, and waits while that queue is full (R161, R204, R219). -/
def execVectorChunk (core : Nat) (s : State) : Out :=
  let t := (s.coreAt core).thread
  let u := s.unitAt t
  match u.vq with
  | [] => .next s
  | j :: _ => match sfuOf j.i with
    | none => .next (s.vecChunk core)
    | some f =>
      if (s.coreAt core).st != .running || s.chunkQueued core t || 8 ≤ (s.coreAt core).sfu.length then .next s
      else
        let q : SfuReq := { thread := t, key := u.key, ctx := j.ctx, reg := 0, fn := f.1, ty := f.2.1, md := f.2.2, a := .zero
                            code := 0, seq := s.nextReq, vec := true }
        let s := s.modCore core (fun c => { c with sfu := c.sfu ++ [q] })
        let s := s.modUnit t (fun u => { u with vq := modNth (fun j => { j with started := true }) 0 u.vq })
        .next (({ s with nextReq := s.nextReq + 1 } : State).pm t 10 (u.ctxAt j.ctx).priv)

/-! ## The instructions -/

def execVadd (ty : Ty) (md : Md) (v : VecOp) (s : State) : Out := vecIssue (.vadd ty md v) s
def execVsub (ty : Ty) (md : Md) (v : VecOp) (s : State) : Out := vecIssue (.vsub ty md v) s
def execVmul (ty : Ty) (md : Md) (v : VecOp) (s : State) : Out := vecIssue (.vmul ty md v) s
def execVfma (ty : Ty) (md : Md) (v : VecOp) (s : State) : Out := vecIssue (.vfma ty md v) s
def execVmin (ty : Ty) (md : Md) (v : VecOp) (s : State) : Out := vecIssue (.vmin ty md v) s
def execVmax (ty : Ty) (md : Md) (v : VecOp) (s : State) : Out := vecIssue (.vmax ty md v) s
def execVabs (ty : Ty) (md : Md) (v : VecOp) (s : State) : Out := vecIssue (.vabs ty md v) s
def execVneg (ty : Ty) (md : Md) (v : VecOp) (s : State) : Out := vecIssue (.vneg ty md v) s
def execVand (ty : Ty) (v : VecOp) (s : State) : Out := vecIssue (.vand ty v) s
def execVor (ty : Ty) (v : VecOp) (s : State) : Out := vecIssue (.vor ty v) s
def execVxor (ty : Ty) (v : VecOp) (s : State) : Out := vecIssue (.vxor ty v) s
def execVshl (ty : Ty) (v : VecOp) (s : State) : Out := vecIssue (.vshl ty v) s
def execVshr (ty : Ty) (v : VecOp) (s : State) : Out := vecIssue (.vshr ty v) s
def execVcmp (cc : Cc) (ty : Ty) (md : Md) (v : VecOp) (s : State) : Out := vecIssue (.vcmp cc ty md v) s
def execVsel (ty : Ty) (v : VecOp) (s : State) : Out := vecIssue (.vsel ty v) s
def execVcvt (ty : Ty) (md : Md) (v : VecOp) (s : State) : Out := vecIssue (.vcvt ty md v) s
def execVcopy (ty : Ty) (v : VecOp) (s : State) : Out := vecIssue (.vcopy ty v) s
def execVbcst (ty : Ty) (md : Md) (v : VecOp) (s : State) : Out := vecIssue (.vbcst ty md v) s
def execVgath (ty : Ty) (v : VecOp) (s : State) : Out := vecIssue (.vgath ty v) s
def execVscat (ty : Ty) (v : VecOp) (s : State) : Out := vecIssue (.vscat ty v) s
def execVsum (ty : Ty) (sat : Bool) (v : VecOp) (s : State) : Out := vecIssue (.vsum ty sat v) s
def execVrmax (ty : Ty) (v : VecOp) (s : State) : Out := vecIssue (.vrmax ty v) s
def execVsfu (fn : SfuFn) (ty : Ty) (md : Md) (v : VecOp) (s : State) : Out := vecIssue (.vsfu fn ty md v) s
def execVqnt (ty : Ty) (md : Md) (v : VecOp) (s : State) : Out := vecIssue (.vqnt ty md v) s
def execVdq (ty : Ty) (md : Md) (v : VecOp) (s : State) : Out := vecIssue (.vdq ty md v) s
def execVpclr (ty : Ty) (v : VecOp) (s : State) : Out := vecIssue (.vpclr ty v) s

end Sys2Proof.Machine
end

