-- ==== Sys2Proof/Machine/Matrix.lean ====
section
/-!
DEFINITION. The matrix instructions (R223 to R245): operands and their lines, the checks at issue, and the steps of an
operation of the matrix unit.
-/
namespace Sys2Proof.Machine

/-! ## Tiles (R138) -/

def UnitSt.accAt (u : UnitSt) (n i j : Nat) : Elem := u.acc.get .zero (256 * n + 16 * i + j)

/-- Tile n with element 16i + j given by f. -/
def UnitSt.setTile (u : UnitSt) (n : Nat) (f : Nat → Elem) : UnitSt :=
  { u with acc := u.acc.filter (fun e => e.1 < 256 * n) ++ (upto 256).map (fun x => (256 * n + x, f x)) ++
      u.acc.filter (fun e => 256 * (n + 1) ≤ e.1) }
/-- Tile n all zero and clean. -/
def UnitSt.zeroTile (u : UnitSt) (n : Nat) : UnitSt :=
  { u with acc := u.acc.filter (fun e => e.1 < 256 * n || 256 * (n + 1) ≤ e.1) }
def UnitSt.setSatf (u : UnitSt) (n : Nat) (b : Bool) : UnitSt := { u with satf := u.satf.set n b }

/-! ## Lines (R226) -/

/-- A line of an operand: 512 bits, and the marks of its eight granules. -/
structure MLine where
  v : Nat
  marks : List Bool
deriving DecidableEq, Repr

def MLine.ofVals (l : List Val) : MLine := ⟨l.foldr (fun x n => x.v.toNat + 2 ^ 64 * n) 0, l.map (·.p)⟩
/-- Granule marks. -/
def MLine.mark (l : MLine) (g : Nat) : Bool := l.marks.getD g false
/-- The line at an offset of a memory. -/
def MLine.at (m : PMem) (a : Nat) : MLine := ⟨m.read a 64, (upto 8).map (fun g => m.poisoned (a / 8 + g))⟩

/-- Elements in a line (R226). -/
def kPer (ty : Ty) : Nat := if ty = .bf16 || ty = .f16 then 32 else 64
/-- Code of element k. -/
def MLine.code (l : MLine) (ty : Ty) (k : Nat) : Nat :=
  match ty with
  | .l4 => fieldOf l.v (4 * k) 4
  | .t6 => fieldOf l.v (8 * k) 6
  | .bf16 => fieldOf l.v (16 * k) 16
  | .f16 => fieldOf l.v (16 * k) 16
  | _ => fieldOf l.v (8 * k) 8

def UnitSt.l4Int (u : UnitSt) (c : Nat) : Int := intOf 8 true (u.l4At c).v.toNat
/-- Integer element k (R237). -/
def UnitSt.mInt (u : UnitSt) (ty : Ty) (l : MLine) (k : Nat) : Int :=
  if ty = .l4 then u.l4Int (l.code ty k) else intOf (tyWidth ty) ty.signed (l.code ty k)
def UnitSt.mInts (u : UnitSt) (ty : Ty) (l : MLine) : List Int := (upto 64).map (u.mInt ty l)
/-- Float elements. -/
def MLine.floats (l : MLine) (ty : Ty) : List FV := (upto (kPer ty)).map (fun k => decodeNum ty (l.code ty k))

/-- Some element of the line is poisoned: its granule, or for L4 its table entry (R243). -/
def UnitSt.mPois (u : UnitSt) (ty : Ty) (l : MLine) : Bool :=
  if ty = .l4 then (upto 4).any l.mark || (upto 64).any (fun k => (u.l4At (l.code .l4 k)).p) else (upto 8).any l.mark

/-- Some element of a block line is poisoned (R112, R243). -/
def UnitSt.blkPois (u : UnitSt) (ty : Ty) (l : MLine) : Bool :=
  (upto 8).any l.mark ||
    (ty == .l4 && scaleOf ty l.v != 255 &&
      (upto 48).any (fun i => (outlierFor ty l.v i).isNone && (u.l4At (codeAt ty l.v i)).p))
def UnitSt.blkVals (u : UnitSt) (ty : Ty) (l : MLine) : List FV := (upto 48).map (elemValue ty u.l4Int l.v)

/-- A compressed line is poisoned: its values, or the indices (R243). -/
def MLine.cmpPois (l : MLine) : Bool := (upto 5).any l.mark
/-- Logical position of value n of a compressed line (R237). -/
def MLine.cmpPos (l : MLine) (n : Nat) : Nat := n / 2 * 4 + fieldOf l.v (256 + 2 * n) 2

/-! ## Plans -/

/-- An operand: where its register values stand among those read, its source (0 local store, 1 registers, 2 global), the
size of its rows, whether successive k-tiles move, and whether it is written. -/
structure MOper where
  at_ : Nat
  src : Nat
  size : Nat
  tp : Bool
  wr : Bool
deriving DecidableEq, Repr

/-- A matrix instruction as the unit sees it. -/
structure MPlan where
  t : TOp
  srcs : List SrcOp
  pairs : List MOper
  blk : Option (Nat × Nat × Nat)   -- a parameter offset: its value's place, its alignment, its bytes
  steps : Nat
  rows : Nat                       -- rows of one step

/-- The registers of an operand field. -/
def operRegs (src : Nat) (o : Opd) : List SrcOp :=
  ((upto (if src = 1 then 8 else 2)).map (fun n => (upto n).foldl (fun o _ => nextOpd o) o)).map (·, false)

/-- MMA, MMB and MMS. -/
def mulPlan (t : TOp) : MPlan :=
  let a := t.osrc.toNat % 4
  let b := t.osrc.toNat / 4
  let ra := operRegs a t.ga
  { t := t, srcs := ra ++ operRegs b t.gb, pairs := [⟨0, a, 64, true, false⟩, ⟨ra.length, b, 64, true, false⟩], blk := none
    steps := t.kcnt.toNat, rows := 16 }

/-- Bytes of an output element of MDRN (R240). -/
def drnBytes (ty : Ty) : Nat := (tyWidth ty + 7) / 8

/-- The plan of a matrix instruction that runs in steps. MDRN has no k-tiles and uses no TP: whatever it is, it is not checked (R240;
DESIGN CHOICE, log 92). -/
def matPlan : Instr → Option MPlan
  | .mma t => some (mulPlan t)
  | .mmb t => some (mulPlan t)
  | .mms t => some (mulPlan t)
  | .mcmp t => some { t := t, srcs := operRegs 0 t.ga ++ operRegs 0 t.gb
                      pairs := [⟨0, 0, 64, true, true⟩, ⟨2, 0, 64, true, false⟩], blk := none, steps := t.kcnt.toNat
                      rows := 16 }
  | .mrsum t => some { t := t, srcs := operRegs 0 t.ga ++ [(t.gc, false)], pairs := [⟨0, 0, 64, true, false⟩], blk := none
                       steps := t.kcnt.toNat, rows := 16 }
  | .mcsum t => some { t := t, srcs := operRegs 0 t.ga ++ [(t.gc, false)], pairs := [⟨0, 0, 64, true, false⟩], blk := none
                       steps := t.kcnt.toNat, rows := 16 }
  | .mdrn t =>
    let rq := t.fn.getLsbD 5
    some { t := t, srcs := operRegs 0 t.ga ++ (if rq then [(t.gb, false), (t.gc, false)] else [])
           pairs := [⟨0, 0, 16 * drnBytes t.tya, false, true⟩], blk := if rq then some (2, 64, 80) else none, steps := 4
           rows := 4 }
  | .mlda t => some { t := t, srcs := operRegs 0 t.ga, pairs := [⟨0, 0, 64, false, false⟩], blk := none, steps := 1, rows := 16 }
  | .msta t => some { t := t, srcs := operRegs 0 t.ga, pairs := [⟨0, 0, 64, false, true⟩], blk := none, steps := 1, rows := 16 }
  | .mtbl t => some { t := t, srcs := [(t.ga, false)], pairs := [], blk := some (0, 16, 16), steps := 1, rows := 0 }
  | _ => none

/-! ## Addresses and checks (R224, R225, R233, R244, R245) -/

def geoRp (g : Nat) : Nat := fieldOf g 0 18
def geoTp (g : Nat) : Nat := fieldOf g 18 18
def geoRot (g : Nat) : Nat := fieldOf g 36 2
def geoBad (g : Nat) : Bool := g / 2 ^ 38 != 0 || geoRot g == 3

/-- Base and geometry of an operand. -/
def MOper.base (o : MOper) (vs : List Val) : Nat := (vat vs o.at_).v.toNat
def MOper.geo (o : MOper) (vs : List Val) : Nat := (vat vs (o.at_ + 1)).v.toNat

/-- Address of line r of k-tile t, exactly (R225). -/
def MOper.addr (o : MOper) (vs : List Val) (t r : Nat) : Nat :=
  let g := o.geo vs
  o.base vs + (if o.tp then t * geoTp g else 0) + r * geoRp g + 64 * (r * geoRot g % 3)

/-- The lines of steps from the starting step on, in ascending step and line. -/
def MPlan.lines (p : MPlan) (o : MOper) (vs : List Val) (start : Nat) : List Nat :=
  ((upto p.steps).filter (start ≤ ·)).flatMap (fun t =>
    (upto p.rows).map (fun r => if o.tp then o.addr vs t r else o.addr vs 0 (p.rows * t + r)))

/-- The value of a number as an address. -/
def bv (n : Nat) : Word := BitVec.ofNat 64 n

/-- An address of a line reaches the canonical range (403); an exact address past 2^64 does not. -/
def lineCanon (a : Nat) : Bool := a < 2 ^ 64 && canonical (bv a)

/-- The checks at issue for every line of every step from start on (R233, R244, R245). A global operand in a compute span gives D08 (R47),
which R245 does not list and which comes before the others, as R397 has it of a cause that no group's table lists (DESIGN CHOICE, log 88).
TADDR of a 303 is the start of the line or block that touches the tile buffer, not the byte (DESIGN CHOICE, log 92). -/
def State.matExc (s : State) (p : MPlan) (vs : List Val) (start : Nat) : Option Exc :=
  let reg := p.pairs.filter (·.src != 1)
  let ls := reg.filter (·.src == 0)
  let blk := p.blk.toList
  let a03 : Bool := reg.any (fun o => (vat vs o.at_).p || (vat vs (o.at_ + 1)).p) || blk.any (fun b => (vat vs b.1).p)
  let trap (b : Bool) (c : Nat) (v : Word) : Bool × Exc := (b, .trap (cz c) v)
  let overs (o : MOper) (c : Nat) (f : Nat → Bool) : List (Bool × Exc) := (p.lines o vs start).map (fun a => trap (f a) c (bv a))
  firstExc (
    (s.inCompute && p.pairs.any (·.src == 2), .trap (cz 0xD08) s.ip) ::
    (a03, .consume (cz 0xA03) s.ip) :: reg.map (fun o => trap (geoBad (o.geo vs)) 0x308 (bv (o.geo vs))) ++
    reg.flatMap (fun o =>
      [trap (o.base vs % o.size != 0) 0x407 (bv (o.base vs)),
       trap (geoRp (o.geo vs) % o.size != 0) 0x407 (bv (geoRp (o.geo vs))),
       trap (o.tp && geoTp (o.geo vs) % o.size != 0) 0x407 (bv (geoTp (o.geo vs)))]) ++
    blk.map (fun b => trap ((vat vs b.1).v.toNat % b.2.1 != 0) 0x407 (vat vs b.1).v) ++
    ls.flatMap (fun o => trap (2 ^ 32 ≤ o.base vs) 0x301 (bv (o.base vs)) :: overs o 0x301 (fun a => 0x30000 < a + o.size)) ++
    blk.map (fun b => trap (0x30000 < (vat vs b.1).v.toNat + b.2.2) 0x301 (vat vs b.1).v) ++
    (reg.filter (·.src == 2)).flatMap (fun o => overs o 0x403 (fun a => !lineCanon a)) ++
    ls.flatMap (fun o => overs o 0x303 (fun a => !s.lsPermits s.core s.th a o.size o.wr)) ++
    blk.map (fun b => trap (!s.lsPermits s.core s.th (vat vs b.1).v.toNat b.2.2 false) 0x303 (vat vs b.1).v))

/-! ## Sums (R118 to R120) -/

/-- The exact sum of a list of products. -/
def dotF : List (FV × FV) → FV
  | [] => .zero false
  | p :: l => l.foldl (fun a q => a.add false (q.1.mul q.2)) (p.1.mul p.2)

def dotI (l : List (Int × Int)) : Int := l.foldl (fun a q => a + q.1 * q.2) 0

/-- A list cut into groups of n. -/
def groupsOf {α : Type} (n : Nat) (l : List α) : List (List α) :=
  (upto ((l.length + n - 1) / n)).map (fun g => (l.drop (n * g)).take n)

/-- The products of a row and a column, in their groups: dense, or compressed with the omitted positions an exact zero, of
positive sign (R118; the sign is a DESIGN CHOICE, log 92). -/
def denseGroups {α : Type} (a b : List α) : List (List (α × α)) := groupsOf 16 (a.zip b)
def sparseGroups {α : Type} (zero : α) (a : MLine) (val : Nat → α) (b : List α) : List (List (α × α)) :=
  (groupsOf 8 (upto 32)).map (fun g => g.map (fun n => (val n, b.getD (a.cmpPos n) zero)) ++ [(zero, zero)])

/-- Float accumulation of the groups of one step. -/
def accF (old : BitVec 32) (gs : List (List (FV × FV))) : BitVec 32 :=
  BitVec.ofNat 32 (gs.foldl (fun a g => roundNum .f32 mdRne 0 (fvAdd mdRne (decodeNum .f32 a) (rneF32 (dotF g)))) old.toNat)

/-- One integer addition into an element: wrapping, or saturating with a flag (R120). -/
def addI (sat : Bool) (x : BitVec 32 × Bool) (n : Int) : BitVec 32 × Bool :=
  let i := intOf 32 true x.1.toNat + n
  if sat then (BitVec.ofInt 32 (clampInt 32 true i), x.2 || clampInt 32 true i != i) else (BitVec.ofInt 32 i, x.2)

/-- Integer accumulation of the groups of one step. -/
def accI (sat : Bool) (old : BitVec 32) (gs : List (List (Int × Int))) : BitVec 32 × Bool :=
  gs.foldl (fun x g => addI sat x (dotI g)) (old, false)

/-! ## Steps -/

/-- The lines of an operand in one step. -/
def State.operLines (s : State) (core : Nat) (p : MPlan) (o : MOper) (vs buf : List Val) (t : Nat) : List MLine :=
  match o.src with
  | 0 => (upto p.rows).map (fun r => MLine.at (s.lsOf core) (o.addr vs t r))
  | 1 => let l := MLine.ofVals ((vs.drop o.at_).take 8); (upto 16).map (fun _ => l)
  | _ => (upto 16).map (fun r => MLine.ofVals ((buf.drop (8 * r)).take 8))

/-- A tile updated by f of row and column, which answers the new element and a clamp. -/
def UnitSt.accumulate (u : UnitSt) (n : Nat) (f : Nat → Nat → Elem → Elem × Bool) : UnitSt :=
  let r := (upto 256).map (fun x => f (x / 16) (x % 16) (u.accAt n (x / 16) (x % 16)))
  let u' := u.setTile n (fun x => (r.getD x (.zero, false)).1)
  if r.any (·.2) then u'.setSatf n true else u'

/-- How a multiplication reads its rows and columns. -/
inductive MulKind where
  | dense | block | sparse
deriving DecidableEq, Repr

/-- Item i of a list. -/
def nth {α : Type} (d : α) (l : List α) (i : Nat) : α := l.getD i d

/-- One step of MMA, MMB or MMS on given lines (R237). -/
def UnitSt.mulStep (u : UnitSt) (k : MulKind) (t : TOp) (la lb : List MLine) : UnitSt :=
  let n := t.acc.toNat
  let z : MLine := ⟨0, []⟩
  let pa := la.map (fun l => match k with | .dense => u.mPois t.tya l | .block => u.blkPois t.tya l | .sparse => l.cmpPois)
  let pb := lb.map (fun l => match k with | .block => u.blkPois t.tyb l | .dense => u.mPois t.tyb l
                                          | .sparse => u.mPois t.tyb l)
  let pois (i j : Nat) (e : Elem) : Bool := e.p || nth false pa i || nth false pb j
  if t.accmode.toNat % 4 = 0 then
    let fa := la.map (fun l => match k with | .block => u.blkVals t.tya l | .dense => l.floats t.tya | .sparse => l.floats t.tya)
    let fb := lb.map (fun l => match k with | .block => u.blkVals t.tyb l | .dense => l.floats t.tyb | .sparse => l.floats t.tyb)
    u.accumulate n (fun i j e =>
      let a := nth [] fa i
      let b := nth [] fb j
      let gs := match k with
        | .dense => denseGroups a b
        | .block => [a.zip b]
        | .sparse => sparseGroups (.zero false) (nth z la i) (fun n => a.getD n .nan) b
      (⟨accF e.v gs, pois i j e⟩, false))
  else
    let ia := la.map (u.mInts t.tya)
    let ib := lb.map (u.mInts t.tyb)
    u.accumulate n (fun i j e =>
      let a := nth [] ia i
      let b := nth [] ib j
      let gs := match k with
        | .sparse => sparseGroups 0 (nth z la i) (fun n => a.getD n 0) b
        | .dense => denseGroups a b
        | .block => denseGroups a b
      let r := accI (t.accmode.toNat % 4 == 2) e.v gs
      (⟨r.1, pois i j e⟩, r.2))

/-- One step of MRSUM or MCSUM (R241). -/
def UnitSt.sumLines (u : UnitSt) (t : TOp) (col : Bool) (c : Val) (ls : List MLine) : UnitSt :=
  let sums := ls.map (fun l => ((u.mInts t.tya l).foldl (· + ·) 0, u.mPois t.tya l))
  u.accumulate t.acc.toNat (fun i j e =>
    let r := nth (0, false) sums (if col then j else i)
    let x := addI (t.accmode.toNat % 4 == 2) (e.v, false) (intOf 32 true c.v.toNat * r.1)
    (⟨x.1, e.p || r.2 || c.p⟩, x.2))

/-- The zero-first start (R237). -/
def UnitSt.startMul (u : UnitSt) (t : TOp) (step : Nat) : UnitSt :=
  if step = 0 && t.accmode.getLsbD 3 then (u.zeroTile t.acc.toNat).setSatf t.acc.toNat false else u

/-- A compressed line: bits 7:6 of a .t6 byte are copied with it (R237, R238; DESIGN CHOICE, log 92). -/
def compressLine (ty : Ty) (l : MLine) : List (Byte × Bool) :=
  let pick (g : Nat) : List Nat :=
    let c := outliers 2 ((upto 4).map (fun i => (i, decodeNum ty (l.code ty (4 * g + i)))))
    (upto 4).filter (c.contains ·)
  let idx := (upto 16).foldl (fun n g => n + (nth 0 (pick g) 0 + 4 * nth 0 (pick g) 1) * 16 ^ g) 0
  let p := (upto 8).any l.mark
  let val (n : Nat) : Nat := fieldOf l.v (8 * (n / 2 * 4 + nth 0 (pick (n / 2)) (n % 2))) 8
  (upto 32).map (fun n => (BitVec.ofNat 8 (val n), p)) ++ (natLine 8 idx).map (·, p) ++ (upto 24).map (fun _ => (0#8, false))

/-- RoundShift: half away from zero (R240). -/
def roundShift (y : Int) (n : Nat) : Int :=
  let m : Int := (2 * y.natAbs + 2 ^ n) / (2 ^ (n + 1))
  if y < 0 then -m else m

/-- The granules of a local store from an offset on. -/
def lsGranules (m : PMem) (a n : Nat) : List Val := (upto n).map (fun g => ⟨bv (m.read (a + 8 * g) 8), m.poisoned (a / 8 + g)⟩)

/-- Parameters of requantisation for column j, from the ten granules of the block: the multiplier, the shift, their
poison (R240). -/
def drnParam (blk : List Val) (j : Nat) : Int × Int × Bool :=
  let x := vat blk (j / 2)
  let y := vat blk (8 + j / 8)
  (intOf 32 true (fieldOf x.v.toNat (32 * (j % 2)) 32), max (-31) (min 31 (intOf 8 true (fieldOf y.v.toNat (8 * (j % 8)) 8))),
    x.p || y.p)

/-- One output element of MDRN: the LFSR, the code and its poison (R240). -/
def drnElem (t : TOp) (blk : List Val) (gz : Val) (j : Nat) (e : Elem) (l : BitVec 32) : BitVec 32 × Nat × Bool :=
  let ty := t.tya
  let md : Md := ⟨[Rm.rne, .rtz, .rdn, .rup, .rna, .sto].getD (t.fn.toNat % 8) .rne, t.fn.getLsbD 3⟩
  if t.fn.getLsbD 5 then
    let q := drnParam blk j
    let v := intOf 32 true gz.v.toNat + roundShift (intOf 32 true e.v.toNat * q.1) (31 + q.2.1).toNat
    (l, (clampInt (tyWidth ty) ty.signed v % 2 ^ tyWidth ty).toNat, e.p || q.2.2 || gz.p)
  else if t.accmode.toNat % 4 = 1 && ty.isInt then
    (l, (clampInt (tyWidth ty) ty.signed (intOf 32 true e.v.toNat) % 2 ^ tyWidth ty).toNat, e.p)
  else
    let x := if t.accmode.toNat % 4 = 1 then FV.ofInt (intOf 32 true e.v.toNat) else decodeNum .f32 e.v.toNat
    let d := roundDraw ty md l x
    (d.1, d.2, e.p)

/-- The bytes of one output row. -/
def drnRow (u : UnitSt) (t : TOp) (blk : List Val) (gz : Val) (i : Nat) (l : BitVec 32) :
    BitVec 32 × List (Byte × Bool) :=
  (upto 16).foldl (fun (x : BitVec 32 × List (Byte × Bool)) j =>
    let r := drnElem t blk gz j (u.accAt t.acc.toNat i j) x.1
    (r.1, x.2 ++ (natLine (drnBytes t.tya) r.2.1).map (·, r.2.2))) (l, [])

/-- Step k of MDRN: the unit after it, and its rows. -/
def UnitSt.drain (u : UnitSt) (t : TOp) (blk : List Val) (gz : Val) (k : Nat) : UnitSt × List (List (Byte × Bool)) :=
  let r := (upto 4).foldl (fun (x : BitVec 32 × List (List (Byte × Bool))) i =>
    let d := drnRow u t blk gz (4 * k + i) x.1
    (d.1, x.2 ++ [d.2])) (u.lfsr, [])
  let n := t.acc.toNat
  let clr := t.fn.getLsbD 4
  let u : UnitSt := { u with lfsr := r.1 }
  let u := if clr then u.setTile n (fun x => if x / 64 = k then .zero else u.accAt n (x / 16) (x % 16)) else u
  (if clr && k == 3 then u.setSatf n false else u, r.2)

/-- Lines written to the local store, the first line first, so that of overlapping ones the later keeps its bytes (R225;
DESIGN CHOICE, log 92); none when the snapshot log would overflow (R51). -/
def State.lsLines (s : State) (core : Nat) : List (Nat × List (Byte × Bool)) → Option State
  | [] => some s
  | e :: l => match s.lsWrite core e.1 e.2.length (fun m => m.writeRun e.1 e.2) with
    | some s => s.lsLines core l
    | none => none

/-- The names under which the block lines that an operand reads in step t in a format are counted: by offset in the local store, by the first
register of a group from 2^18 on, by address in global memory from 2^20 on. One line read in two formats is counted in each (R111, R237). -/
def MOper.keys (o : MOper) (ty : Ty) (reg : Opd) (vs : List Val) (t : Nat) : List Nat :=
  (upto 16).map (fun r => 16 * (match o.src with
    | 0 => o.addr vs t r
    | 1 => 2 ^ 18 + (match reg with | .g n => n.toNat | .x _ => 0 | .link _ => 0 | .imm => 0 | .rsv _ => 0)
    | _ => 2 ^ 20 + o.addr vs t r) + ty.code.toNat)

/-- Format violations of block lines that the instruction has not read before: the count, and the lines read (R111, R389). -/
def newViolations (ty : Ty) (ls : List (Nat × MLine)) (x : Nat × List Nat) : Nat × List Nat :=
  ls.foldl (fun x l => if x.2.contains l.1 then x else (x.1 + violations ty l.2.v, setIns l.1 x.2)) x

/-- One step of a job: the state after it, its format violations and the lines counted; none when the snapshot log would
overflow. -/
def State.matPerform (s : State) (core th : Nat) (j : MatJob) (p : MPlan) : Option (State × Nat × List Nat) :=
  let u := s.unitAt th
  let t := p.t
  let vs := j.regs
  let a := p.pairs.headD ⟨0, 0, 64, false, false⟩
  let b := p.pairs.getD 1 ⟨0, 0, 64, false, false⟩
  let la := s.operLines core p a vs j.bufA j.step
  let lb := s.operLines core p b vs j.bufB j.step
  let none_ (s : State) : State × Nat × List Nat := (s, 0, j.seen)
  let mul (k : MulKind) : Option (State × Nat × List Nat) :=
    some (s.setUnit th ((u.startMul t j.step).mulStep k t la lb),
      if k = .block then
        newViolations t.tyb ((b.keys t.tyb t.gb vs j.step).zip lb) (newViolations t.tya ((a.keys t.tya t.ga vs j.step).zip la) (0, j.seen))
      else (0, j.seen))
  match j.i with
  | .mma _ => mul .dense
  | .mmb _ => mul .block
  | .mms _ => mul .sparse
  | .mrsum _ => some (none_ (s.setUnit th (u.sumLines t false (vat vs 2) la)))
  | .mcsum _ => some (none_ (s.setUnit th (u.sumLines t true (vat vs 2) la)))
  | .mcmp _ => (s.lsLines core (((upto 16).map (a.addr vs j.step)).zip (lb.map (compressLine t.tya)))).map none_
  | .mdrn _ =>
    let r := u.drain t j.bufB (vat vs 3) j.step
    (s.lsLines core (((upto 4).map (fun i => a.addr vs 0 (4 * j.step + i))).zip r.2)).map (fun s => none_ (s.setUnit th r.1))
  | _ => some (none_ s)

/-! ## Issue (R232, R233, R235) -/

/-- The matrix unit of the acting unit holds an operation (R232). -/
def State.matBusy (s : State) : Bool := !s.un.mq.isEmpty

/-- Accesses of the thread, whatever its context, that are still to be performed: what a release waits for (R252). -/
def State.owesAll (s : State) : Bool := s.threadOwes s.th

/-- The lines that a resume state held for this address has counted (R111). -/
def Ctx.matSeen (c : Ctx) : List Nat := if c.vres.kind == 2 && c.vres.addr == c.pc then c.vres.seen else []

/-- The starting step: STEP, or the step of a resume state held for this address (R235). -/
def Ctx.matStart (c : Ctx) (t : TOp) : Nat := if c.vres.kind == 2 && c.vres.addr == c.pc then c.vres.cnt else t.step.toNat

/-- A matrix instruction of one step that is performed as it issues. -/
def matNow (s : State) (i : Instr) (act : State → List Val → Option State) : Out :=
  match matPlan i with
  | none => .next s
  | some p =>
    if s.runs && s.matBusy then .next (s.waits .unitIdle)
    else if s.runs && !s.inOrder then .next (s.waits .hold)
    else control s ⟨p.srcs, 0, fun vs => s.matExc p vs 0, fun s vs =>
      match act (s.setCx s.cx.noSpin) vs with
      | some s => (s.pm s.th 9 s.cx.priv).retire
      | none => s.snapOverflow s.core⟩

/-- A matrix instruction of several steps enters the matrix unit. -/
def matIssue (i : Instr) (s : State) : Out :=
  match matPlan i with
  | none => .next s
  | some p =>
    let t := p.t
    if s.runs && (s.matBusy || (drawsSto i && s.drawBusy)) then .next (s.waits .unitIdle)
    else if s.runs && t.tle && (s.owesAll || s.opsFull) then .next (s.waits .engines)
    else if s.runs && !t.tle && !s.inOrder then .next (s.waits .hold)
    else control s ⟨p.srcs, 0, fun vs => s.matExc p vs (s.cx.matStart t), fun s vs =>
      let start := s.cx.matStart t
      let j : MatJob := { ctx := s.ctx, pc := s.cx.pc, ir := s.ir, i := i, regs := vs, step := start, no := 0, bufA := []
                          bufB := [], subbed := false, seen := s.cx.matSeen
                          tl := t.tl.toNat, seq := s.nextReq }
      let s := s.setCx s.cx.noSpin
      if t.tle then
        let o := s.newOp s.th s.ctx t.tl.toNat .mat false false
        let s := o.1.retire
        if o.2.2 then s.modUnit s.th (fun u => { u with mq := [{ j with no := o.2.1 }] }) else s
      else
        let s := s.modUnit s.th (fun u => { u with mq := [j] })
        s.setCx { s.cx with busy := .matrix, wait := .no }⟩

/-! ## The matrix unit's steps -/

/-- The job's plan has operands in global memory whose lines are not all read. -/
def MatJob.needs (j : MatJob) (p : MPlan) : Option (Bool × MOper) :=
  match p.pairs with
  | a :: b :: _ =>
    if a.src == 2 && j.bufA.length < 128 then some (true, a)
    else if b.src == 2 && j.bufB.length < 128 then some (false, b) else none
  | _ => none

/-- Granules join the operand buffer. -/
def MatJob.fill (j : MatJob) (isA : Bool) (l : List Val) : MatJob :=
  if isA then { j with bufA := j.bufA ++ l } else { j with bufB := j.bufB ++ l }

/-- The job's timeline. -/
def MPlan.tl (p : MPlan) : Nat := p.t.tl.toNat

/-- A job ends with no status but its own: a context goes on, or a timeline operation completes. -/
def State.matDone (s : State) (core th : Nat) (j : MatJob) (p : MPlan) (status : Nat) (addr : Word) : State :=
  let s := s.modUnit th (fun u => { u with mq := [] })
  if p.t.tle then s.opDone th p.tl j.no status addr (if status = 0 then 0 else j.step)
  else
    let x := ((s.unitAt th).ctxAt j.ctx).dropRes j.pc
    let s := s.modUnit th (fun u => u.setCtx j.ctx { x with
      pc := j.pc + 16, busy := .no, wait := .no, assay := x.assay.feed j.ir })
    (s.pm th 1 x.priv).drain core

/-- MATRIX_STEP: the operation of core k's matrix unit performs its next step. -/
def execMatrixStep (core : Nat) (s : State) : Out :=
  let th := (s.coreAt core).thread
  let u := s.unitAt th
  if (s.coreAt core).st != .running then .next s
  else match u.mq with
    | [] => .next s
    | j :: _ => match matPlan j.i with
      | none => .next s
      | some p =>
        if (j.needs p).isSome then .next s
        else
        let j := if p.blk.isSome && j.bufB = [] then { j with bufB := lsGranules (s.lsOf core) (vat j.regs 2).v.toNat 10 } else j
        match s.matPerform core th j p with
          | none =>
            if p.t.tle then .next ((s.snapOverflow core).matDone core th j p 0x0A 0)
            else .next ((s.modUnit th (fun u => { u with mq := [] }.modCtx j.ctx (fun x => { x with busy := .no }))).consumeAt
              th j.ctx (cz 0xD0A) j.pc j.pc)
          | some r =>
            let j' := { j with step := j.step + 1, bufA := [], bufB := if p.blk.isSome then j.bufB else [], seen := r.2.2 }
            let s := (upto r.2.1).foldl (fun s _ => s.bump u.part th u.key j.ctx .fmtv j.seq) r.1
            let s := s.pm th 9 (u.ctxAt j.ctx).priv
            if p.steps ≤ j'.step then .next (s.matDone core th j p 0 0)
            else .next (s.modUnit th (fun u => { u with mq := [j'] }))

/-- The granules of a line as values, with zeros for poisoned granules on an error-tolerant page (R180). -/
def lineVals (run : List (Byte × Bool)) (et : Bool) : List Val :=
  (upto 8).map (fun g =>
    let l := (run.drop (8 * g)).take 8
    let p := l.any (·.2)
    if et && p then ⟨0, false⟩ else ⟨BitVec.ofNat 64 (lineNat (l.map (·.1))), p⟩)

/-- The 64 bytes at pa as the matrix unit reads them: of a gang unit, with the stores over them that it held before the operation
(R49). -/
def State.matRun (s : State) (th : Nat) (j : MatJob) (b : Bulk) (run : List (Byte × Bool)) : List (Byte × Bool) :=
  let u := s.unitAt th
  if !u.gang then run
  else match b with
    | .dev _ pa => (s.heldView th u.key j.seq).runAt pa 64
    | .host _ pa => (s.heldHost th u.key j.seq).runAt pa 64
    | .remote _ => run | .fail _ => run

/-- A line comes into the operand buffer; the first granule of an instruction for which zeros are substituted counts (R180, R389). -/
def State.matLine (s : State) (th : Nat) (j : MatJob) (isA : Bool) (va : Word) (b : Bulk) (et : Bool) : State :=
  let u := s.unitAt th
  let r := s.bulkRead u.asid u.part va 64 false b
  let run := r.1.matRun th j b r.2
  let sub := et && run.any (·.2)
  let s := r.1.modUnit th (fun u => { u with mq := [{ j.fill isA (lineVals run et) with subbed := j.subbed || sub }] })
  if sub && !j.subbed then s.bump u.part th u.key j.ctx .subst j.seq else s

/-- MATRIX_GLOBAL_READ: the next line of the next step, or of another chip its next granule, comes into the operand
buffer; a failure ends the operation (R228). -/
def execMatrixGlobalRead (core : Nat) (ans : HostAns) (s : State) : Out :=
  let th := (s.coreAt core).thread
  let u := s.unitAt th
  if (s.coreAt core).st != .running then .next s
  else match u.mq with
    | [] => .next s
    | j :: _ => match matPlan j.i with
      | none => .next s
      | some p => match j.needs p with
        | none => .next s
        | some o =>
          let done := if o.1 then j.bufA.length else j.bufB.length
          let va := bv (o.2.addr j.regs j.step (done / 8) + 8 * (done % 8))
          if s.reqs.any (fun r => r.k == .rdMat && r.thread == th && r.tag == none && r.key == u.key) then .next s
          else
            let s := s.sigWalk u.asid va.toNat
            match s.bulkAt u.part u.asid va false ans with
            | .fail st => .next ((s.logWalk u.part u.asid va.toNat).matDone core th j p st va)
            | .remote peer =>
              let r : Req := { s.newReq .rdMat va .d .plain with
                thread := th, key := u.key, ctx := j.ctx, asid := u.asid, part := u.part, core := core, no := j.no
                lo := ⟨false, true, p.t.tl⟩ }
              .next ((s.pushReq r).sendReq r peer)
            | .dev t pa => .next (s.matLine th j o.1 va (.dev t pa) t.et)
            | .host t pa => .next (s.matLine th j o.1 va (.host t pa) t.et)

/-! ## The instructions -/

def execMma (t : TOp) (s : State) : Out := matIssue (.mma t) s
def execMmb (t : TOp) (s : State) : Out := matIssue (.mmb t) s
def execMms (t : TOp) (s : State) : Out := matIssue (.mms t) s
def execMcmp (t : TOp) (s : State) : Out := matIssue (.mcmp t) s
def execMdrn (t : TOp) (s : State) : Out := matIssue (.mdrn t) s
def execMrsum (t : TOp) (s : State) : Out := matIssue (.mrsum t) s
def execMcsum (t : TOp) (s : State) : Out := matIssue (.mcsum t) s

/-- MZERO. -/
def execMzero (t : TOp) (s : State) : Out :=
  if s.runs && s.matBusy then .next (s.waits .unitIdle)
  else control s ⟨[], 0, fun _ => none, fun s _ =>
    let s := s.setUn ((s.un.zeroTile t.acc.toNat).setSatf t.acc.toNat false)
    (s.pm s.th 9 s.cx.priv).retire⟩

/-- MLDA. -/
def execMlda (t : TOp) (s : State) : Out :=
  matNow s (.mlda t) (fun s vs =>
    let o : MOper := ⟨0, 0, 64, false, false⟩
    let m := s.lsOf s.core
    some (s.setUn ((s.un.setTile t.acc.toNat (fun x =>
      let a := o.addr vs 0 (x / 16) + 4 * (x % 16)
      ⟨BitVec.ofNat 32 (m.read a 4), m.poisoned (a / 8)⟩)).setSatf t.acc.toNat false)))

/-- MSTA. -/
def execMsta (t : TOp) (s : State) : Out :=
  matNow s (.msta t) (fun s vs =>
    let o : MOper := ⟨0, 0, 64, false, true⟩
    let u := s.un
    s.lsLines s.core ((upto 16).map (fun i => (o.addr vs 0 i, (upto 16).flatMap (fun j =>
      (natLine 4 (u.accAt t.acc.toNat i j).v.toNat).map (·, (u.accAt t.acc.toNat i j).p))))))

/-- MTBL. -/
def execMtbl (t : TOp) (s : State) : Out :=
  matNow s (.mtbl t) (fun s vs =>
    let a := (vat vs 0).v.toNat
    let m := s.lsOf s.core
    some (s.setUn { s.un with l4 := (upto 16).map (fun i =>
      (i, ⟨BitVec.ofNat 64 (Memory.byte m.bytes (a + i)).toNat, m.poisoned ((a + i) / 8)⟩)) }))

/-- A code is an FP32 NaN. -/
def isNan32 (v : BitVec 32) : Bool := (decodeNum .f32 v.toNat).isNan

/-- The word of MSTAT (R242). -/
def UnitSt.mstat (u : UnitSt) (n : Nat) : Word :=
  let es := (upto 256).map (fun x => u.accAt n (x / 16) (x % 16))
  bv ((es.filter (·.p)).length + 512 * (es.filter (fun e => isNan32 e.v)).length + (if u.satf.get false n then 2 ^ 24 else 0))

/-- MSTAT. -/
def execMstat (t : TOp) (s : State) : Out :=
  if s.runs && s.matBusy then .next (s.waits .unitIdle)
  else
    let n := t.acc.toNat
    let w := s.un.mstat n
    scalarE s ⟨[], some t.ga, 0, noChk, fun _ => ⟨w, false⟩⟩
      (fun _ s =>
        let s := if t.fn.getLsbD 0 then s.setUn (s.un.setSatf n false) else s
        s.pm s.th 9 s.cx.priv)

end Sys2Proof.Machine
end

