-- ==== Sys2Proof/Machine/Engine.lean ====
section
/-!
DEFINITION. Engine commands, collectives, timeline instructions, and the steps of the engines (R246 to R261).
-/
namespace Sys2Proof.Machine

/-! ## Issue (R246, R247) -/

/-- A space code of an engine operand. -/
def engSpace (c : Nat) : ESpace := if c = 0 then .glob else if c = 1 then .ls else if c = 2 then .cl else .mra

/-- 301 and 302 for a range of n bytes; of an empty one only the window's upper bits are judged (R247 check 3). -/
def spanChk (sp : ESpace) (a : Word) (n : Nat) : List (Bool × Exc) :=
  match sp with
  | .ls => [(n != 0 && 0x30000 < a.toNat + n, .trap (cz 0x301) a)]
  | .cl => [(a.toNat / 2 ^ 24 != 0 || (n != 0 && 0x30000 < a.toNat % 2 ^ 18 + n), .trap (cz 0x302) a)]
  | .glob => []
  | .mra => []

/-- 403 for the first and the last of n bytes (R247 check 4). -/
def canonChk (sp : ESpace) (a : Word) (n : Nat) : List (Bool × Exc) :=
  if sp == .glob && n != 0 then
    [(!canonical a, .trap (cz 0x403) a),
     (!lineCanon (a.toNat + n - 1), .trap (cz 0x403) (bv (a.toNat + n - 1)))] else []

/-- D08: an operand outside the core's own local store in a compute span, when the operation touches any byte (R47; its rank is a
DESIGN CHOICE, log 88). -/
def State.engComputeChk (s : State) (sps : List ESpace) (n : Nat) : Bool × Exc :=
  (s.inCompute && n != 0 && sps.any (fun sp => sp == .glob || sp == .cl), .trap (cz 0xD08) s.ip)

/-- The operation goes outside the unit in a gang superstep: it is held until the GBAR (R49, R254). -/
def State.engHeld (s : State) (dsp : ESpace) (dst : Word) : Bool :=
  s.un.gang && (dsp == .glob || (dsp == .mra && !(mraThread dst == s.th && mraChip dst == s.peer)))

/-- Issue of an engine command: number into GA, operation outstanding (R247). -/
def engIssue (s : State) (t : TOp) (srcs : List SrcOp) (imm : Word) (chk : List Val → Option Exc)
    (k : List Val → OpKind) (dsp : ESpace) (total : List Val → Nat) (more : List Val → State → State := fun _ s => s) : Out :=
  if s.runs && (s.owesAll || s.opsFull) then .next (s.waits .engines)
  else
    let no := (s.tlAt s.th t.tl.toNat).iss + 1
    scalarE s ⟨srcs, some t.ga, imm, chk, fun _ => ⟨bv no, false⟩⟩ (fun vs s =>
      let o := s.newOp s.th s.ctx t.tl.toNat (k vs) (t.notify.getLsbD 0) (s.engHeld dsp (vat vs 0).v)
      more vs (if o.2.2 && total vs = 0 then o.1.opDone s.th t.tl.toNat o.2.1 0 0 0 else o.1))

/-- CPY. -/
def execCpy (t : TOp) (s : State) : Out :=
  let dsp := engSpace (t.osrc.toNat % 4)
  let ssp := engSpace (t.osrc.toNat / 4)
  let len (vs : List Val) : Nat := (vat vs 2).v.toNat
  engIssue s t [(t.gb, false), (t.gc, false), (t.gd, false)] (t.kcnt.zeroExtend 64)
    (fun vs =>
      let n := len vs
      let some_ := n != 0
      firstExc ([((vat vs 0).p, .consume (cz (if dsp == .mra then 0xA04 else 0xA03)) s.ip),
        ((vat vs 1).p || (vat vs 2).p, .consume (cz 0xA03) s.ip), s.engComputeChk [dsp, ssp] n,
        (2 ^ 32 < n || (dsp == .mra && n != 8), .trap (cz 0xC02) (vat vs 2).v)] ++
        (if some_ then spanChk dsp (vat vs 0).v n ++ spanChk ssp (vat vs 1).v n ++ canonChk dsp (vat vs 0).v n ++
          canonChk ssp (vat vs 1).v n ++
          [(dsp == .mra && (vat vs 1).v.toNat % 8 != 0, .trap (cz 0x407) (vat vs 1).v)] else []) ++
        (if dsp == .mra then [mraChk (vat vs 0).v, s.chipChk (vat vs 0).v] else [])))
    (fun vs => .cpy dsp ssp (vat vs 0).v (vat vs 1).v (len vs)) dsp len

/-- GATH and SCAT share their checks: the contiguous side, the index list, and of the table its base, since R248 judges its
rows (R247). -/
def rowChk (s : State) (dsp ssp : ESpace) (scat : Bool) (bytes rows : Nat) (vs : List Val) : Option Exc :=
  let base := min 1 rows
  let dn := if scat then base else bytes
  let sn := if scat then bytes else base
  firstExc ([(anyP vs, .consume (cz 0xA03) s.ip), s.engComputeChk [dsp, ssp] bytes] ++
    spanChk dsp (vat vs 0).v dn ++ spanChk ssp (vat vs 1).v sn ++
    spanChk .ls (vat vs 2).v (4 * rows) ++ canonChk dsp (vat vs 0).v dn ++ canonChk ssp (vat vs 1).v sn ++
    [((vat vs 2).v.toNat % 4 != 0, .trap (cz 0x407) (vat vs 2).v)])

/-- GATH. -/
def execGath (t : TOp) (s : State) : Out :=
  let dsp := engSpace (t.osrc.toNat % 4)
  let ssp := engSpace (t.osrc.toNat / 4)
  let row := 2 ^ (t.fn.toNat % 16)
  let rows := t.kcnt.toNat
  engIssue s t [(t.gb, false), (t.gc, false), (t.gd, false)] 0 (rowChk s dsp ssp false (row * rows) rows)
    (fun vs => .gath dsp ssp (vat vs 0).v (vat vs 1).v (vat vs 2).v row rows) dsp (fun _ => row * rows)

/-- SCAT. -/
def execScat (t : TOp) (s : State) : Out :=
  let dsp := engSpace (t.osrc.toNat % 4)
  let ssp := engSpace (t.osrc.toNat / 4)
  let row := 2 ^ (t.fn.toNat % 16)
  let rows := t.kcnt.toNat
  engIssue s t [(t.gb, false), (t.gc, false), (t.gd, false)] 0 (rowChk s dsp ssp true (row * rows) rows)
    (fun vs => .scat dsp ssp (vat vs 0).v (vat vs 1).v (vat vs 2).v row rows) dsp (fun _ => row * rows)

/-! ## Collectives (R256) -/

/-- The descriptor at an offset of a local store, when it and its member list keep the limits. -/
def collDesc (m : PMem) (off : Nat) (self : Word) : Option CollDesc :=
  if 0x30000 < off + 64 then none else
  let v := m.read off 64
  let n := fieldOf v 64 16
  let list := fieldOf v 192 32
  let d : CollDesc := { tag := bv (fieldOf v 0 64), count := fieldOf v 128 64, n := n, rank := fieldOf v 80 16
                        root := fieldOf v 96 16, members := (upto n).map (fun r => bv (m.read (list + 8 * r) 8)) }
  if fieldOf v 224 288 != 0 || fieldOf v 112 16 != 0 || n < 2 || 1024 < n || d.count = 0 || 2 ^ 32 < d.count ||
    n ≤ d.rank || n ≤ d.root || list % 8 != 0 || 0x30000 < list + 8 * n || d.members.getD d.rank 0 != self then none else some d

/-- Elements of a member's source and destination (R256). -/
def collSrc (op : CollOp) (d : CollDesc) : Nat :=
  match op with
  | .bcast => d.count | .allred => d.count | .allmax => d.count | .allgath => d.count
  | .redscat => d.n * d.count | .alltoall => d.n * d.count
def collDst (op : CollOp) (d : CollDesc) : Nat :=
  match op with
  | .bcast => d.count | .allred => d.count | .allmax => d.count | .redscat => d.count
  | .allgath => d.n * d.count | .alltoall => d.n * d.count

/-- Operations of a thread with a TAG, which the next one follows (R256). -/
def Thread.collNo (e : Thread) (tag : Word) : Nat := match e.colls.find? (·.1 == tag) with | some x => x.2 | none => 0
def Thread.collNext (e : Thread) (tag : Word) : Thread :=
  { e with colls := e.colls.filter (·.1 != tag) ++ [(tag, e.collNo tag + 1)] }

/-- COLL: class C comes before the ranges (R280). -/
def execColl (op : CollOp) (t : TOp) (s : State) : Out :=
  let dsp := engSpace (t.osrc.toNat % 4)
  let ssp := engSpace (t.osrc.toNat / 4)
  let w := tyWidth t.tya / 8
  let desc (vs : List Val) : Option CollDesc :=
    collDesc (s.lsOf s.core) (vat vs 2).v.toNat (handle s.peer s.th s.un.key)
  engIssue s t [(t.gb, false), (t.gc, false), (t.gd, false)] 0
    (fun vs =>
      let d := desc vs
      let dn := match d with | some d => w * collDst op d | none => 0
      let sn := match d with | some d => w * collSrc op d | none => 0
      firstExc ([(anyP vs, .consume (cz 0xA03) s.ip), s.engComputeChk [dsp, ssp] 1, (d.isNone, .trap (cz 0xC03) (vat vs 2).v)] ++
        spanChk dsp (vat vs 0).v dn ++ spanChk ssp (vat vs 1).v sn ++ canonChk dsp (vat vs 0).v dn ++ canonChk ssp (vat vs 1).v sn ++
        [((vat vs 2).v.toNat % 64 != 0, .trap (cz 0x407) (vat vs 2).v)]))
    (fun vs => match desc vs with
      | some d => .coll op t.tya dsp ssp (vat vs 0).v (vat vs 1).v d ((s.thr s.th).collNo d.tag) 0
      | none => .land)
    dsp (fun _ => 1)
    (fun vs s' => match desc vs with
      | some d => s'.modThr s.th (·.collNext d.tag)
      | none => s')

/-! ## Timeline instructions (R257 to R261) -/

/-- An operation numbered n or below on timeline tl is held to the next GBAR (R254). -/
def State.heldBelow (s : State) (tl n : Nat) : Bool :=
  (s.thr s.th).ops.any (fun o => o.tl == tl && o.no ≤ n && o.heldGang)

/-- TLWAIT. -/
def execTlwait (tl : BitVec 3) (a : Src) (s : State) : Out :=
  let x := s.tlAt s.th tl.toNat
  let wait := match s.srcVals (sx16 a.imm) [] [(a.a, a.ta)] with
    | some vs => (vat vs 0).v.toNat ≤ x.iss && x.comp < (vat vs 0).v.toNat && !s.heldBelow tl.toNat (vat vs 0).v.toNat
    | none => false
  if s.runs && s.linksOk [a.a] && wait then .next (s.waits .tlwait)
  else control s ⟨[(a.a, a.ta)], sx16 a.imm,
    fun vs => firstExc [(x.iss < (vat vs 0).v.toNat, .trap (cz 0xC01) (vat vs 0).v),
      (x.comp < (vat vs 0).v.toNat && s.heldBelow tl.toNat (vat vs 0).v.toNat, .trap (cz 0xC04) (vat vs 0).v)],
    fun s _ => s.retire⟩

/-- TLREAD. -/
def execTlread (d : Opd) (tl : BitVec 3) (fld : BitVec 3) (s : State) : Out :=
  scalar s ⟨[], some d, 0, noChk, fun _ => ⟨(s.tlAt s.th tl.toNat).field fld.toNat, false⟩⟩

/-- TLNOTE: its landing stands after every access that the thread has made (R312). -/
def execTlnote (d a : Opd) (ta : Bool) (imm : BitVec 16) (tl : BitVec 3) (s : State) : Out :=
  if s.runs && (s.opsFull || s.threadOwes s.th) then .next (s.waits .engines)
  else control s ⟨[(d, false), (a, ta)], sx16 imm,
    fun vs => firstExc [((vat vs 0).p, .consume (cz 0xA04) s.ip), mraChk (vat vs 0).v, s.chipChk (vat vs 0).v],
    fun s vs => (s.newOp s.th s.ctx tl.toNat (.note (vat vs 0).v (vat vs 1)) false
      (s.engHeld .mra (vat vs 0).v)).1.retire⟩

/-- FQPRST. -/
def execFqprst (tl : BitVec 3) (s : State) : Out :=
  if s.runs && (s.thr s.th).ops.any (·.tl == tl.toNat) then .next (s.waits .fqprst)
  else control s ⟨[], 0, fun _ => none, fun s _ =>
    let x := s.tlAt s.th tl.toNat
    (s.setTl s.th tl.toNat { x with status := 0, errNo := 0, errAddr := 0, errStep := 0, qpErr := false }).retire⟩

/-! ## What an operation touches next (R248) -/

/-- Bytes that an operation moves; of a collective, the bytes of its present phase. -/
def OpKind.total : OpKind → Nat
  | .cpy _ _ _ _ len => len
  | .gath _ _ _ _ _ row rows => row * rows
  | .scat _ _ _ _ _ row rows => row * rows
  | .coll op ty _ _ _ _ d _ ph =>
    let w := tyWidth ty / 8
    if ph = 1 then if op == .bcast && d.rank != d.root then 0 else w * collSrc op d
    else if ph = 2 then w * collDst op d else 0
  | .flagf _ _ _ => 0 | .note _ _ => 0 | .land => 0 | .mat => 0

/-- An engine moves this operation's bytes. -/
def OpKind.moves : OpKind → Bool
  | .cpy _ _ _ _ _ => true | .gath _ _ _ _ _ _ _ => true | .scat _ _ _ _ _ _ _ => true
  | .coll _ _ _ _ _ _ _ _ ph => ph != 0
  | .flagf _ _ _ => false | .note _ _ => false | .land => false | .mat => false

/-- Row size of a row operation, and the offset of its index list. -/
def OpKind.rowOf : OpKind → Option (Nat × Word)
  | .gath _ _ _ _ idx row _ => some (row, idx)
  | .scat _ _ _ _ idx row _ => some (row, idx)
  | .cpy _ _ _ _ _ => none | .coll _ _ _ _ _ _ _ _ _ => none | .flagf _ _ _ => none | .note _ _ => none | .land => none
  | .mat => none

/-- The table side of a row operation: its space and base. -/
def OpKind.tableOf : OpKind → ESpace × Word
  | .gath _ ssp _ table _ _ _ => (ssp, table)
  | .scat dsp _ table _ _ _ _ => (dsp, table)
  | _ => (.glob, 0)

/-- Source of the next byte to fetch, and how many bytes follow it without a break. -/
def EngOp.source (o : EngOp) : ESpace × Word × Nat :=
  let at_ (b : Word) (n : Nat) : Word := b + bv n
  match o.k with
  | .cpy _ ssp _ src len => (ssp, at_ src (o.pos + o.buf.length), len - o.pos - o.buf.length)
  | .gath _ ssp _ table _ row _ =>
    let q := o.pos + o.buf.length
    (ssp, at_ table (o.idx.getD 0 * row + q % row), if q < o.k.total then row - q % row else 0)
  | .scat _ ssp _ src _ row _ => (ssp, at_ src (o.pos + o.buf.length), row - o.pos % row - o.buf.length)
  | .coll _ _ _ ssp _ src _ _ _ => (ssp, at_ src o.pos, o.k.total - o.pos)
  | _ => (.glob, 0, 0)

/-- Destination of the byte at pos. -/
def EngOp.target (o : EngOp) : ESpace × Word :=
  let at_ (b : Word) (n : Nat) : Word := b + bv n
  match o.k with
  | .cpy dsp _ dst _ _ => (dsp, at_ dst o.pos)
  | .gath dsp _ dst _ _ _ _ => (dsp, at_ dst o.pos)
  | .scat dsp _ table _ _ row _ => (dsp, at_ table (o.idx.getD 0 * row + o.pos % row))
  | .coll _ _ dsp _ dst _ _ _ _ => (dsp, at_ dst o.pos)
  | _ => (.glob, 0)

/-- Bytes that the next access writes: what has been fetched, within one line of the destination. A granule that the destination covers whole
is written in one access, so bytes of one wait for the rest of it (R180, R249, R252). -/
def EngOp.writeLen (o : EngOp) : Nat :=
  let a := o.target.2.toNat
  let coll := match o.k with | .coll _ _ _ _ _ _ _ _ _ => true | _ => false
  let have_ := if coll then min o.buf.length (o.k.total - o.pos) else o.buf.length
  let n := min have_ (64 - a % 64)
  if coll || o.target.1 == .mra || o.source.2.2 = 0 then (if o.target.1 == .mra then have_ else n) else n - (a + n) % 8

/-- The next access reads: nothing that can be written is waiting. -/
def EngOp.reads (o : EngOp) : Bool :=
  match o.k with
  | .coll _ _ _ _ _ _ _ _ ph => ph == 1
  | _ => o.writeLen == 0

/-- The next access is to the index list: a row is due, and its index has not been read. -/
def EngOp.wantsIndex (o : EngOp) : Bool :=
  match o.k with
  | .gath _ _ _ _ _ _ _ => o.idx.isNone && o.reads
  | .scat _ _ _ _ _ _ _ => o.idx.isNone
  | _ => false

/-- Core and offset of a local-store address of an operation: its own core's store goes with the unit (R253). -/
def State.engCore (s : State) (t : Nat) (o : EngOp) (sp : ESpace) (a : Nat) : Nat × Nat :=
  match sp with
  | .cl =>
    let k := o.core / 64 * 64 + a / 2 ^ 18 % 64
    (if k = o.core then (s.thr t).loc else k, a % 2 ^ 18)
  | _ => ((s.thr t).loc, a)

/-- The unit's own local store is not there: it is halted, saved or suspended (R253). -/
def State.engAway (s : State) (t : Nat) : Bool :=
  let e := s.thr t
  e.st != .closed && (e.st != .resident || (s.coreAt e.loc).st != .running)

/-- An access needs the local store of the unit's own core. -/
def State.engOwn (s : State) (t : Nat) (o : EngOp) (sp : ESpace) (a : Nat) : Bool :=
  sp == .ls || (sp == .cl && (s.engCore t o sp a).1 == (s.thr t).loc)

/-- The operation of an index, changed by f; nothing else of the thread. -/
def State.modOp (s : State) (t : Nat) (o : EngOp) (f : EngOp → EngOp) : State :=
  s.modThr t (fun e => { e with ops := modFirst (·.is o.tl o.no) f e.ops })

/-- The local-store access is out of bounds, not bound, or forbidden by a tile buffer: status 0x0A (R250, R320, R352). -/
def State.engLsBad (s : State) (t k off n : Nat) (write : Bool) : Bool :=
  0x30000 < off + n || (k != (s.thr t).loc && !s.boundTo k (s.thr t).part) || !s.lsPermits k t off n write

/-- An access in flight of an engine, for another chip. -/
def State.engReq (s : State) (t : Nat) (o : EngOp) (k : AKind) (ea : Word) (line : List (Byte × Bool)) : Req :=
  let e := s.thr t
  let sz : Sz := if line.length = 1 then .b else if line.length = 2 then .h else if line.length = 4 then .w else .d
  { s.newReq k ea sz .plain with
    thread := t, key := e.key, ctx := o.ctx, asid := e.asid, part := e.part, core := o.core, no := o.no, line := line
    d := ⟨bv (lineNat (line.map (·.1))), line.any (·.2)⟩, lo := ⟨false, true, BitVec.ofNat 3 o.tl⟩ }

/-- An engine's request packet leaves. -/
def State.sendEng (s : State) (t : Nat) (o : EngOp) (r : Req) (peer : Nat) : State :=
  ((s.modOp t o (fun o => { o with sent := true })).pushReq r).sendReq r peer

/-- Bytes join the buffer of an operation; of a collective they are bytes done. -/
def EngOp.fetched (o : EngOp) (l : List (Byte × Bool)) (hm : Option (BitVec 16)) : EngOp :=
  match o.k with
  | .coll _ _ _ _ _ _ _ _ _ => { o with buf := o.buf ++ l, pos := o.pos + l.length, sent := false }
  | .gath _ _ _ _ _ row _ =>
    { o with buf := o.buf ++ l, hm := hm, sent := false, idx := if (o.pos + o.buf.length + l.length) % row = 0 then none else o.idx }
  | _ => { o with buf := o.buf ++ l, hm := hm, sent := false }

/-- Bytes of an operation have been written; at the end of a row of SCAT the next index is due. -/
def EngOp.written (o : EngOp) (n : Nat) : EngOp :=
  let pos := o.pos + n
  let row := match o.k with | .scat _ _ _ _ _ row _ => pos % row == 0 | _ => false
  { o with buf := o.buf.drop n, pos := pos, sent := false, idx := if row then none else o.idx, hm := none }

/-- The engine reads the index of the next row (R248). -/
def State.engIndex (s : State) (t : Nat) (o : EngOp) (row : Nat) (list : Word) : State :=
  let a := list.toNat + 4 * ((o.pos + o.buf.length) / row)
  let k := (s.thr t).loc
  let m := s.lsOf k
  let end_ (st : Nat) (addr : Word) : State := s.opDone t o.tl o.no st addr 0
  if s.engLsBad t k a 4 false then end_ 0x0A (bv a)
  else if m.anyPoison a 4 then end_ 0x0D (bv a)
  else
    let i := m.read a 4
    let tab := o.k.tableOf
    let lo := tab.2.toNat + i * row
    let bad : Nat := match tab.1 with
      | .glob => if !lineCanon lo || !lineCanon (lo + row - 1) then 0x0C else 0
      | .ls => if 0x30000 < lo + row then 0x0A else 0
      | .cl => if 0x30000 < tab.2.toNat % 2 ^ 18 + i * row + row then 0x0A else 0
      | .mra => 0
    if bad != 0 then end_ bad (bv lo) else s.modOp t o (fun o => { o with idx := some i })

/-- The engine reads the next bytes of the source. -/
def State.engRead (s : State) (t : Nat) (o : EngOp) (ans : HostAns) : State :=
  let e := s.thr t
  let src := o.source
  let va := src.2.1
  let n := min src.2.2 (64 - va.toNat % 64)
  match src.1 with
  | .glob =>
    let s := s.sigWalk e.asid va.toNat
    let b := s.bulkAt e.part e.asid va false ans
    match b with
    | .fail st => (s.logWalk e.part e.asid va.toNat).opDone t o.tl o.no st va 0
    | .remote peer => s.sendEng t o (s.engReq t o .rdLine (va &&& ~~~(63#64)) []) peer
    | .dev tr pa =>
      let r := s.bulkRead e.asid e.part va n true (.dev tr pa)
      let hm := if n = 64 && o.buf.isEmpty && r.1.mem.hall.any (·.1 == pa / 64) then some (r.1.mem.lineMark (pa / 64)) else none
      r.1.modOp t o (·.fetched r.2 hm)
    | .host tr pa => let r := s.bulkRead e.asid e.part va n true (.host tr pa); r.1.modOp t o (·.fetched r.2 none)
  | sp =>
    let c := s.engCore t o sp va.toNat
    if s.engLsBad t c.1 c.2 n false then s.opDone t o.tl o.no 0x0A va 0
    else s.modOp t o (·.fetched ((s.lsOf c.1).runAt c.2 n) none)

/-- Bytes of the next write to another chip: a whole line, or a naturally aligned 8, 4, 2 or 1 (R416). -/
def remotePiece (a n : Nat) : Nat :=
  if a % 64 = 0 && 64 ≤ n then 64 else if a % 8 = 0 && 8 ≤ n then 8 else if a % 4 = 0 && 4 ≤ n then 4
  else if a % 2 = 0 && 2 ≤ n then 2 else 1

/-- The engine writes bytes that it has fetched. -/
def State.engWrite (s : State) (t : Nat) (o : EngOp) (ans : HostAns) : State :=
  let e := s.thr t
  let dst := o.target
  let va := dst.2
  let n := o.writeLen
  let l := o.buf.take n
  match dst.1 with
  | .glob =>
    let s := s.sigWalk e.asid va.toNat
    match s.bulkAt e.part e.asid va true ans with
    | .fail st => (s.logWalk e.part e.asid va.toNat).opDone t o.tl o.no st va 0
    | .remote peer =>
      s.sendEng t o (s.engReq t o .wrLine va (o.buf.take (remotePiece va.toNat n))) peer
    | .dev tr pa =>
      let s := s.bulkWrite e.asid e.part va l (.dev tr pa)
      let s : State := match o.hm with
        | some h => if n = 64 then { s with mem := { s.mem with hall := s.mem.hall.set (pa / 64) h } } else s
        | none => s
      s.modOp t o (·.written n)
    | .host tr pa => (s.bulkWrite e.asid e.part va l (.host tr pa)).modOp t o (·.written n)
  | .mra =>
    let v : Val := ⟨bv (lineNat (l.map (·.1))), l.any (·.2)⟩
    let g : Landing := { schip := s.peer, sthread := t, skey := e.key, sctx := o.ctx, sasid := e.asid, spart := e.part
                         mra := va, val := v, tl := some (o.tl, o.no), urj := false, refusedAt := none, via := none
                         bounces := 0, own := false, tag := none, core := o.core }
    (s.modOp t o (fun o => { o with sent := true })).sendLanding g
  | sp =>
    let c := s.engCore t o sp va.toNat
    if s.engLsBad t c.1 c.2 n true then s.opDone t o.tl o.no 0x0A va 0
    else match s.lsWrite c.1 c.2 n (fun m => m.writeRun c.2 l) with
      | some s => s.modOp t o (·.written n)
      | none => (s.snapOverflow c.1).opDone t o.tl o.no 0x0A va 0

/-- The operation can make its next access now. -/
def State.engReady (s : State) (t : Nat) (o : EngOp) : Bool :=
  let a := if o.reads then (o.source.1, o.source.2.1) else (o.target.1, o.target.2)
  o.k.moves && !o.heldGang && !o.sent && o.pos < o.k.total && !s.threadBefore t o.seq &&
  !(s.engAway t && (o.k.rowOf.isSome || s.engOwn t o a.1 a.2.toNat))

/-- ENGINE_ACCESS: the next access of an operation (R248 to R253). -/
def execEngineAccess (thread op : Nat) (ans : HostAns) (s : State) : Out :=
  match (s.thr thread).ops[op]? with
  | none => .next s
  | some o =>
    if !s.engReady thread o then .next s
    else match (if o.wantsIndex then o.k.rowOf else none) with
      | some r => .next (s.engIndex thread o r.1 r.2)
      | none => .next (if o.reads then s.engRead thread o ans else s.engWrite thread o ans)

/-- All bytes of an operation have been moved. -/
def EngOp.allMoved (o : EngOp) : Bool :=
  o.k.moves && !o.heldGang && !o.sent && o.pos == o.k.total &&
  (match o.k with | .coll _ _ _ _ _ _ _ _ ph => ph == 2 | _ => true)

/-- ENGINE_OP_COMPLETE (R250, R251). -/
def execEngineOpComplete (thread op : Nat) (s : State) : Out :=
  match (s.thr thread).ops[op]? with
  | none => .next s
  | some o => .next (if o.allMoved then s.opDone thread o.tl o.no 0 0 0 else s)

/-- TLNOTE_LAND: every lower-numbered operation of the timeline has completed (R260), and every access that the thread made before it is
performed, one that the same GBAR has released among them (R312). -/
def execTlnoteLand (thread op : Nat) (s : State) : Out :=
  let e := s.thr thread
  match e.ops[op]? with
  | none => .next s
  | some o => match o.k with
    | .note m v =>
      if o.heldGang || o.sent || (s.tlAt thread o.tl).comp + 1 != o.no || s.threadBefore thread o.seq then .next s
      else
        let g : Landing := { schip := s.peer, sthread := thread, skey := e.key, sctx := o.ctx, sasid := e.asid
                             spart := e.part, mra := m, val := v, tl := some (o.tl, o.no), urj := false
                             refusedAt := none, via := none, bounces := 0, own := false, tag := none, core := o.core }
        .next ((s.modOp thread o (fun o => { o with sent := true })).sendLanding g)
    | _ => .next s

/-! ## Matching a collective (R256) -/

/-- The operation of a member with a tag and a turn, outstanding or held to a GBAR. -/
def State.collAny (s : State) (t : Nat) (tag : Word) (turn : Nat) : Option EngOp :=
  (s.thr t).ops.find? (fun o => match o.k with | .coll _ _ _ _ _ _ d n _ => d.tag == tag && n == turn | _ => false)

/-- The outstanding one. -/
def State.collOf (s : State) (t : Nat) (tag : Word) (turn : Nat) : Option EngOp := (s.collAny t tag turn).filter (!·.heldGang)

/-- A member is lost: its chip is not reachable, its thread has ended, or it has gone past this turn without an operation. -/
def State.collLost (s : State) (m : Word) (tag : Word) (turn : Nat) : Bool :=
  if mraChip m == s.peer then
    let e := s.thr (mraThread m)
    e.st == .closed || e.key != mraKey m || ((s.collAny (mraThread m) tag turn).isNone && turn < e.collNo tag)
  else s.peerSt (mraChip m) != .present

/-- The parts of an operation that every member must agree on. -/
def collSame (a b : OpKind) : Bool :=
  match a, b with
  | .coll o1 t1 _ _ _ _ d1 _ _, .coll o2 t2 _ _ _ _ d2 _ _ =>
    o1 == o2 && t1 == t2 && d1.count == d2.count && d1.n == d2.n && d1.root == d2.root && d1.members == d2.members
  | _, _ => false

/-- Element e of a run of elements of w bytes: its code and its poison. -/
def runElem (l : List (Byte × Bool)) (w e : Nat) : Nat × Bool :=
  let x := (l.drop (w * e)).take w
  (lineNat (x.map (·.1)), x.any (·.2))

/-- One element combined over the members, in the order given (R256). -/
def collElem (op : CollOp) (ty : Ty) (xs : List (Nat × Bool)) : Nat × Bool :=
  let w := tyWidth ty
  let p := xs.any (·.2)
  match op with
  | .allmax =>
    if ty.isInt then
      ((match xs with
        | [] => 0
        | x :: l => (l.foldl (fun m y => max m (intOf w true y.1)) (intOf w true x.1) % 2 ^ w).toNat), p)
    else ((match xs with
      | [] => 0
      | x :: l => roundNum ty mdRne 0 (l.foldl (fun m y => fvMax m (decodeNum ty y.1)) (decodeNum ty x.1))), p)
  | _ =>
    if ty.isInt then ((xs.foldl (fun n y => n + y.1) 0) % 2 ^ w, p)
    else ((match xs with
      | [] => 0
      | x :: l => roundNum ty mdRne 0 (l.foldl (fun m y => rneF32 (fvAdd mdRne m (decodeNum ty y.1))) (decodeNum ty x.1))), p)

/-- The destination of rank r, from the sources by rank. -/
def collResult (op : CollOp) (ty : Ty) (d : CollDesc) (order : List Nat) (srcs : List (List (Byte × Bool))) (r : Nat) :
    List (Byte × Bool) :=
  let w := tyWidth ty / 8
  let block (l : List (Byte × Bool)) (b : Nat) : List (Byte × Bool) := (l.drop (w * d.count * b)).take (w * d.count)
  let combine (base : Nat) : List (Byte × Bool) := (upto d.count).flatMap (fun e =>
    let c := collElem op ty (order.map (fun k => runElem (srcs.getD k []) w (base + e)))
    (natLine w c.1).map (·, c.2))
  match op with
  | .bcast => srcs.getD d.root []
  | .allred => combine 0
  | .allmax => combine 0
  | .allgath => srcs.flatMap (fun l => l)
  | .redscat => combine (r * d.count)
  | .alltoall => srcs.flatMap (fun l => block l r)

/-- A collective moves on: to reading its source, or to writing its destination. -/
def OpKind.phase (k : OpKind) (n : Nat) : OpKind :=
  match k with
  | .coll op ty dsp ssp dst src d turn _ => .coll op ty dsp ssp dst src d turn n
  | k => k

/-- The phase of a collective. -/
def OpKind.ph : OpKind → Nat
  | .coll _ _ _ _ _ _ _ _ ph => ph
  | _ => 0

/-- Bytes that rank r brings to a collective. -/
def collBytes (op : CollOp) (ty : Ty) (d : CollDesc) (r : Nat) : Nat :=
  if op == .bcast && r != d.root then 0 else tyWidth ty / 8 * collSrc op d

/-- What the engines of other chips bring, by rank: a source of another length is a member that disagrees (R256; log 27). -/
abbrev Away := List (Nat × List (Byte × Bool))
def Away.of (l : Away) (r : Nat) : Option (List (Byte × Bool)) := (l.find? (·.1 == r)).map (·.2)

/-- What a member here has read goes to a peer as collective fragments of four lines or less (R417; ADDR holds the group's TAG: DESIGN
CHOICE, log 27). -/
def State.sendFragments (s : State) (t : Nat) (o : EngOp) (tag : Word) (peer : Nat) : State :=
  let e := s.thr t
  (upto ((o.buf.length + 255) / 256)).foldl (fun s i =>
    let l := (o.buf.drop (256 * i)).take 256
    s.sendPacket peer
      { pmask := runMask l, status := 0, tag := o.no % 65536, nl := (l.length + 63) / 64, sz := 4, sm := 0, aop := 0, lo := 0
        sh := false, typ := 7, asid := e.asid, tenant := (s.part e.part).tenant, src := s.peer * 4096 + o.core, dst := peer * 4096
        addr := tag, payload := runWords l }) s

/-- The members' operations of one turn: all end with 0x09 when one is lost or they disagree; they start to read when all
are there; and when all have read, what they have read goes to the members' other chips, and the results to their buffers. -/
def State.collTurn (s : State) (d : CollDesc) (k : OpKind) (turn : Nat) (order : List Nat) (away : Away) : State :=
  match k with
  | .coll op ty _ _ _ _ _ _ _ =>
    let ranks := d.members.zip (upto d.n)
    let ops := ranks.filterMap (fun m =>
      if mraChip m.1 == s.peer then (s.collOf (mraThread m.1) d.tag turn).map (mraThread m.1, m.2, ·) else none)
    let far := (ranks.filter (fun m => mraChip m.1 != s.peer)).map (·.2)
    let odd := far.any (fun r => (away.of r).any (·.length != collBytes op ty d r))
    if d.members.any (fun m => s.collLost m d.tag turn) || ops.any (fun o => !collSame o.2.2.k k) || odd then
      if ops.all (fun o => o.2.2.k.ph != 2) then
        ops.foldl (fun s o => s.opDone o.1 o.2.2.tl o.2.2.no 9 0 0) s else s
    else if ops.length + far.length != d.n || far.any (fun r => (away.of r).isNone) then s
    else if ops.all (fun o => o.2.2.k.ph == 0) then
      ops.foldl (fun s o => s.modOp o.1 o.2.2 (fun o => { o with k := o.k.phase 1, pos := 0, buf := [] })) s
    else if ops.all (fun o => o.2.2.k.ph == 1 && !o.2.2.sent && o.2.2.pos == o.2.2.k.total) then
      let srcs := (upto d.n).map (fun r => match ops.find? (·.2.1 == r) with
        | some o => o.2.2.buf
        | none => (away.of r).getD [])
      let chips := (d.members.map mraChip).eraseDups.filter (· != s.peer)
      let s := chips.foldl (fun s c => ops.foldl (fun s o => s.sendFragments o.1 o.2.2 d.tag c) s) s
      ops.foldl (fun s o => s.modOp o.1 o.2.2 (fun e =>
        { e with k := e.k.phase 2, pos := 0, buf := collResult op ty d order srcs o.2.1 })) s
    else s
  | _ => s

/-- COLL_MATCH: the outstanding collectives of a tag move on; the order of the additions is the engine's, and the sources of members
on other chips come from theirs (R256; log 27). -/
def execCollMatch (tag : Word) (q : List Nat × List (Nat × List (Byte × Bool))) (s : State) : Out :=
  let order := q.1
  let away := q.2
  let ops := s.threads.flatMap (fun e => e.2.ops.filterMap (fun o => match o.k with
    | .coll _ _ _ _ _ _ d turn _ => if d.tag == tag && !o.heldGang then some (o.k, d, turn) else none
    | _ => none))
  .next (ops.foldl (fun s o =>
    if (upto o.2.1.n).all (order.contains ·) && order.length == o.2.1.n then s.collTurn o.2.1 o.1 o.2.2 order away else s) s)

end Sys2Proof.Machine
end

