-- ==== Sys2Proof/Machine/Fetch.lean ====
section
/-!
DEFINITION. Fetching an instruction's bytes, and what stops it: translation, poison and the decode causes (R79, R80, R94, R95,
R166, R167, R338 to R341, R398, R402, R428).
-/
namespace Sys2Proof.Machine

/-! ## Fetch (R79, R167, R402) -/

/-- What the bytes at the acting context's pc give. -/
inductive Fetched where
  | fault (k : FetchCause) (pte : Nat)
  | reject (cause : Cause) (taddr : Word)
  | pad
  | instr (i : Instr) (ir : Parcel) (len : Nat)
deriving DecidableEq, Repr

/-- An operand names a shadow register. -/
def Instr.namesShadow (i : Instr) : Bool :=
  i.opds.any (fun o => match o.1 with | .x _ => true | .g _ => false | .link _ => false | .imm => false | .rsv _ => false)
/-- An operand names a mesh link. -/
def Instr.namesLink (i : Instr) : Bool :=
  i.opds.any (fun o => match o.1 with | .link _ => true | .g _ => false | .x _ => false | .imm => false | .rsv _ => false)

/-- Causes 102, 108 and 006, which follow the others of decode (R95). -/
def lateCause (uact exchange : Bool) (i : Instr) : Option Cause :=
  if Instr.namesShadow i && !uact then some (cz 0x102)
  else if Instr.namesLink i && !exchange then some (cz 0x108)
  else if !i.combo then some (cz 0x006)
  else none

/-- The parcels from pa to the end of their fetch block. -/
def blockParcels (m : PMem) (pa : Nat) : List Parcel :=
  (upto ((32 - pa % 32) / 4)).map (fun i => BitVec.ofNat 32 (m.read (pa + 4 * i) 4))

/-- TADDR of a decode cause (R94). -/
def rejectAddr (e : Reject) (pc : Word) : Word :=
  if e = .crosses then BitVec.ofNat 64 (pc.toNat / 32 * 32 + 32) else pc

/-- Decode what lies at pa for a pc: poison first, then the causes in their order (R95, R402). -/
def fetchIn (m : PMem) (pa : Nat) (pc : Word) (uact exchange : Bool) : Fetched :=
  let ps := blockParcels m pa
  let p0 := ps.headD 0
  let n := if p0.extractLsb' 0 2 = 3#2 then 4 else min (lenOf p0) (32 - pa % 32)
  if m.anyPoison pa 4 || m.anyPoison pa n then .fault .poisoned 0
  else match decodeParcels (pa % 32) ps with
    | .ok i => match lateCause uact exchange i with
      | some c => .reject c pc
      | none => .instr i p0 (lenOf p0)
    | .error e => match e.cause with
      | some c => .reject c (rejectAddr e pc)
      | none => .pad

/-- The fetch block from pa comes through the caches, its translation kept; a fetch reads no byte beyond the block (R80, R322, R332). -/
def State.fetchBlock (s : State) (asid va : Nat) (t : Trans) (tgt : Tgt) (pa : Nat) : State :=
  (s.keepTrans asid va t).cacheAt t.part asid va tgt t.mt (32 - pa % 32) false false .normal

/-- Fetch at the acting context's pc (R167): the state after the line has come, and what was found. -/
def State.fetchAt (s : State) : State × Fetched :=
  let c := s.cx
  let va := c.pc.toNat
  let u := s.un
  let s := s.sigWalk u.asid va
  let ex := u.phased && u.exchange
  match s.translate u.asid va with
  | .invalid => (s, .fault .entryInvalid 0)
  | .notValid pte => (s, .fault .notValid pte)
  | .hostPage t => (s, .fault (if !t.x then .noExecute else if s.hostRefused u.part u.asid va then .hostDenies else .hostNotPresent) 0)
  | .page t =>
    if !t.x || 2 ≤ t.aper then (s, .fault .noExecute 0)
    else
      let pa := t.pa va
      if t.aper = 1 then
        let s' := (s.fetchBlock u.asid va t (.host pa) pa).track (pa / 64)
        (s', fetchIn s'.hostMem pa c.pc c.uact ex)
      else
        let s' := s.fetchBlock u.asid va t (.dev pa) pa
        (s', fetchIn s'.mem pa c.pc c.uact ex)

/-- The instruction at the boundary stops at its fetch or its decode (R398). -/
def Fetched.stops : Fetched → Bool
  | .fault _ _ => true
  | .reject _ _ => true
  | .pad => false
  | .instr _ _ _ => false

/-- Context c of core k stands at a boundary where its fetch or its decode stops, which comes before a halt; one that a trap has
just brought to TVEC stops there (R398). -/
def State.boundaryStop (s : State) (k c : Nat) : Bool :=
  let t : State := { s with core := k, ctx := c }
  let x := t.cx
  x.live && x.wait == .no && x.busy == .no && !(x.priv && x.tpcSame && x.pc == (s.part t.un.part).tvec) && t.fetchAt.2.stops

end Sys2Proof.Machine
end

