-- ==== Sys2Proof/Machine/Sched.lean ====
section
/-!
DEFINITION. The scheduler's shared operations: records and their frames, eligibility, the levels of work, the selection
rule, placement, and the binding of a unit (R24 to R33, R54, R356 to R369).
-/
namespace Sys2Proof.Machine

/-! ## Records as bytes (R30, R31, R360) -/

/-- The live registers of a mask, ascending. -/
def liveList (m : BitVec 32) : List Nat := (upto 32).filter (fun n => m.getLsbD n)

/-- A list of words from bit lo, 64 bits each. -/
def wordsNat (lo : Nat) (l : List Nat) : Nat :=
  (l.foldl (fun (x : Nat × Nat) v => (x.1 + v % 2 ^ 64 * 2 ^ x.2, x.2 + 64)) (0, lo)).1

/-- The 256 bytes of a posted or suspended record, as a number; THREAD and KEY are 0 in a posted one (R30). -/
def Rec.nat (r : Rec) : Nat :=
  let i := r.img
  let susp := r.k == .suspended
  i.pc.toNat + i.live.toNat * 2 ^ 64 + i.full.toNat * 2 ^ 96 + i.pois.toNat * 2 ^ 112 + i.prio % 128 * 2 ^ 128 +
  i.ntb % 8 * 2 ^ 136 + (if susp then 2 ^ 139 else 0) + r.launch % 2 ^ 32 * 2 ^ 160 + i.aff.toNat * 2 ^ 192 +
  (if susp then r.thread % 2 ^ 24 * 2 ^ 256 + r.key % 2 ^ 16 * 2 ^ 280 else 0) + i.uidx % 2 ^ 24 * 2 ^ 296 +
  wordsNat 320 (i.tbreq.map (·.toNat)) + wordsNat 1024 (i.vals.map (·.toNat))

/-- The fields that every record shares, from its 256 bytes (R30). -/
def RecImg.ofNat (n : Nat) : RecImg :=
  let live := BitVec.ofNat 32 (fieldOf n 64 32)
  { pc := BitVec.ofNat 64 (fieldOf n 0 64), live := live, full := BitVec.ofNat 16 (fieldOf n 96 16)
    pois := BitVec.ofNat 16 (fieldOf n 112 16), prio := fieldOf n 128 7, ntb := fieldOf n 136 3
    aff := BitVec.ofNat 64 (fieldOf n 192 64), uidx := fieldOf n 296 24
    tbreq := (upto 4).map (fun i => BitVec.ofNat 64 (fieldOf n (320 + 64 * i) 64))
    vals := (upto (liveList live).length).map (fun i => BitVec.ofNat 64 (fieldOf n (1024 + 64 * i) 64)) }

/-- ROLE, BUF and core of a requirement (R31). -/
def tbRole (q : BitVec 64) : Nat := fieldOf q.toNat 17 2
def tbBuf (q : BitVec 64) : Nat := fieldOf q.toNat 12 5
def tbCore (q : BitVec 64) : Nat := fieldOf q.toNat 0 12

/-- The limits of R30 and R31, with the reserved fields of R4. -/
def RecImg.ok (n : Nat) : Bool :=
  let i := RecImg.ofNat n
  let k := (liveList i.live).length
  targetOk i.pc && !i.live.getLsbD 0 && k ≤ 16 && fieldOf n 135 1 == 0 && i.ntb ≤ 4 && fieldOf n 140 20 == 0 &&
  canonical i.aff && i.tbreq.all (fun q => fieldOf q.toNat 19 45 == 0 && tbRole q != 3) &&
  fieldOf n (1024 + 64 * k) (64 * (16 - k)) == 0

/-- A partition's clusters. -/
def State.clusterCount (s : State) (p : Nat) : Nat := (s.clustersOf p).length

/-- Affinity of unit u of a launch (R360). -/
def affOf (img : RecImg) (affstr : Word) (u : Nat) : Word := img.aff + affstr * BitVec.ofNat 64 u

/-- A launch record is valid (R4, R30, R360). -/
def State.launchOk (s : State) (p n : Nat) : Bool :=
  let count := fieldOf n 576 32
  let gang := n.testBit 616
  let phased := n.testBit 617
  RecImg.ok n && fieldOf n 139 1 == 0 && fieldOf n 256 64 == 0 && fieldOf n 864 96 == 0 && fieldOf n 624 4 ≤ 4 &&
  fieldOf n 628 12 == 0 && fieldOf n 622 2 == 0 && fieldOf n 620 2 != 3 && 1 ≤ count && count ≤ 2 ^ 24 &&
  !(gang && phased) && !(phased && (count % 64 != 0 || 64 * s.clusterCount p < count)) &&
  !(gang && 64 * s.clusterCount p < count) &&
  (upto count).all (fun u => canonical (affOf (RecImg.ofNat n) (BitVec.ofNat 64 (fieldOf n 960 64)) u))

/-- A launch as its record names it, priorities clamped (R360). -/
def State.launchOf (s : State) (p asid n : Nat) : Launch :=
  let e := s.part p
  let ceil := max e.plo (min e.phi (fieldOf n 608 7))
  let img := RecImg.ofNat n
  { Launch.reset with
    known := true, count := fieldOf n 576 32, units := fieldOf n 576 32
    img := { img with prio := e.clamp ceil img.prio }, asid := asid, part := p
    affstr := BitVec.ofNat 64 (fieldOf n 960 64)
    preds := (upto (fieldOf n 624 4)).map (fun i => fieldOf n (736 + 32 * i) 32)
    job := fieldOf n 704 32, phase := fieldOf n 672 32, graph := fieldOf n 640 32, ceil := ceil, ord := n.testBit 615
    gang := n.testBit 616, phased := n.testBit 617, arena := fieldOf n 618 2, logsz := fieldOf n 620 2 }

/-! ## Frames of the record pool (R356, R361) -/

/-- Records of a partition that hold a frame. -/
def State.framed (s : State) (p : Nat) : List Rec := s.recs.filter (fun r => r.part == p && r.k != .saved)

/-- The lowest free frame of a partition's pool. -/
def State.freeFrame (s : State) (p : Nat) : Option Nat :=
  let e := s.part p
  let l := s.framed p
  if e.pool ≤ l.length then none
  else ((upto (l.length + 1)).map (fun i => e.poolBase + 256 * i)).find? (fun a => !l.any (·.frame == a))

/-- The 256 bytes of a record go to its frame. -/
def State.writeFrame (s : State) (r : Rec) (n : Nat) : State := { s with mem := s.mem.write r.frame 256 n false }

/-! ## Eligibility and places (R32, R360, R364) -/

/-- A requirement is met: the buffer of the unit on that core is full, or empty. -/
def State.tbMet (s : State) (q : BitVec 64) : Bool :=
  let c := s.coreAt (tbCore q)
  let b := (s.unitAt c.thread).bufs.get .reset (tbBuf q)
  let has (st : BufState) : Bool := c.st != .idle && b.v && b.st == st
  match tbRole q with
  | 1 => has .full
  | 2 => has .empty
  | _ => true

/-- The first requirement in use that is not met. -/
def State.tbUnmet (s : State) (i : RecImg) : Option (BitVec 64) := (i.tbreq.take i.ntb).find? (fun q => !s.tbMet q)

/-- Every live register of the record is full. -/
def RecImg.allFull (i : RecImg) : Bool := (upto (liveList i.live).length).all (fun k => i.full.getLsbD k)

/-- A launch has completed (R24). -/
def State.launchDone (s : State) (p l : Nat) : Bool :=
  let e := s.launchAt (inPart p l)
  e.known && e.count == 0

/-- Predecessors and earlier phases of the job have completed (R24, R360). -/
def State.mayStart (s : State) (p : Nat) (l : Launch) : Bool :=
  let f := s.phases.get .reset (inPart p l.phase)
  l.preds.all (s.launchDone p) &&
  !s.phases.any (fun e => e.1 / 2 ^ 32 == p && e.2.up == f.up && e.2.seq < f.seq && e.2.count != 0)

/-- The logical cluster beside a slice. -/
def State.clusterBeside (s : State) (slice : Nat) : Nat :=
  ((upto s.nclus).find? (fun n => s.physCluster n == slice / 4)).getD 0

/-- Where a record belongs now. -/
def State.placeOf (s : State) (r : Rec) : RPlace :=
  let b := s.sliceOf r.part r.asid r.img.aff.toNat
  let l := s.launchAt (inPart r.part r.launch)
  match r.k with
  | .saved => .bucket b
  | .source => if s.mayStart r.part l && (s.tbUnmet r.img).isNone then .bucket b else .gateway (s.clusterBeside b)
  | .posted => match s.tbUnmet r.img with
    | some q => .gateway (tbCore q / 64)
    | none => .bucket b
  | .suspended => match s.tbUnmet r.img with
    | some q => .gateway (tbCore q / 64)
    | none => if r.img.allFull then .bucket b else .gateway (r.thread % s.nclus)

/-- A new record takes a frame and its place. -/
def State.addRec (s : State) (r : Rec) : State :=
  let r := { r with id := s.nextRec, enq := s.clk }
  let r := { r with place := if r.place == .held then .held else s.placeOf r }
  { s with recs := s.recs ++ [r], nextRec := s.nextRec + 1 }

def State.rec? (s : State) (id : Nat) : Option Rec := s.recs.find? (·.id == id)
def State.dropRec (s : State) (id : Nat) : State := { s with recs := dropFirst (·.id == id) s.recs }
def State.modRec (s : State) (id : Nat) (f : Rec → Rec) : State := { s with recs := modFirst (·.id == id) f s.recs }
/-- A record goes to the tail of its list. -/
def State.toTail (s : State) (r : Rec) : State := { s with recs := dropFirst (·.id == r.id) s.recs ++ [{ r with enq := s.clk }] }

/-! ## Levels of work (R24, R26, R27) -/

/-- A level whose counter is zero starts anew, under the level above it. -/
def Level.begin (l : Level) (up seq : Nat) : Level :=
  if l.known && l.count != 0 then { l with count := l.count + 1 } else ⟨true, 1, false, up, seq⟩

def State.jobInc (s : State) (p j : Nat) : State :=
  { s with jobs := s.jobs.set (inPart p j) ((s.jobs.get .reset (inPart p j)).begin 0 0) }

def State.phaseInc (s : State) (p f j : Nat) : State :=
  let l := s.phases.get .reset (inPart p f)
  let seq := (s.phases.foldl (fun n e => max n e.2.seq) 0) + 1
  let s' : State := { s with phases := s.phases.set (inPart p f) (l.begin j seq) }
  if l.known && l.count != 0 then s' else s'.jobInc p j

def State.graphInc (s : State) (p g f j : Nat) : State :=
  let l := s.graphs.get .reset (inPart p g)
  let s' : State := { s with graphs := s.graphs.set (inPart p g) (l.begin f 0) }
  if l.known && l.count != 0 then s' else s'.phaseInc p f j

/-- A core is asked to halt its unit (R38); a discard is not turned into a save. -/
def State.askHalt (s : State) (k : Nat) (why : HaltWhy) : State :=
  let c := s.coreAt k
  let keep := c.halt == some .cancel || c.halt == some .reset
  if c.st == .idle || keep then s
  else (({ s with haltCtr := s.haltCtr + 1 } : State).setCore k { c with
    halt := some why, haltNo := if c.halt.isSome then c.haltNo else s.haltCtr + 1 })

/-- A unit that a CANCEL or a reset reaches: running, it is halted and then discarded; away, it is discarded (R26, R42). -/
def State.endThread (s : State) (t : Nat) (why : HaltWhy) (status : Nat) : State :=
  let e := s.thr t
  let s := s.setThr t { e with counted := false }
  match e.st with
  | .closed => s
  | .saved => s.discard t status
  | .suspended => s.discard t status
  | .resident => s.askHalt e.loc why
  | .beingSaved => s.askHalt e.loc why
  | .moved => s.askHalt e.loc why

/-- Threads of a launch. -/
def State.threadsOf (s : State) (p l : Nat) : List Nat :=
  (s.threads.filter (fun e => e.2.part == p && e.2.launch == l && e.2.st != .closed)).map (·.1)

/-- Everything of one launch is discarded; of a record that a core has selected, the selected units are bound first (R26, R364). -/
def State.endLaunch (s : State) (p l : Nat) : State :=
  let mine (r : Rec) : Bool := r.part == p && r.launch == l && (r.k == .source || r.k == .posted)
  let n := (s.launchAt (inPart p l)).units
  let s : State := { s with recs := (s.recs.filter (fun r => !mine r || s.committed r.id)).map (fun (r : Rec) =>
    if mine r then { r with cut := true, next := max r.next n } else r) }
  (s.threadsOf p l).foldl (fun s t => s.endThread t .cancel 8) s

/-- A launch is cancelled: counter zero, flag set. -/
def State.cancelLaunch (s : State) (p l : Nat) : State :=
  let e := s.launchAt (inPart p l)
  if e.count == 0 then s
  else (s.setLaunch (inPart p l) { e with count := 0, canc := true, cut := true }).endLaunch p l

/-- A table of levels in which those that f picks are cancelled. -/
def cancelLevels (t : Tab Level) (f : Nat → Level → Bool) : Tab Level :=
  t.map (fun e => if e.2.count != 0 && f e.1 e.2 then (e.1, { e.2 with count := 0, canc := true }) else e)

/-- CANCEL on a level: launch, graph, phase, job (R26, R27). -/
def State.cancel (s : State) (p lvl id : Nat) : State :=
  let inP (k : Nat) : Bool := k / 2 ^ 32 == p
  let graphsOf (f : Nat) : List Nat := (s.graphs.filter (fun e => inP e.1 && e.2.up == f)).map (·.1 % 2 ^ 32)
  let phasesOf (j : Nat) : List Nat := (s.phases.filter (fun e => inP e.1 && e.2.up == j)).map (·.1 % 2 ^ 32)
  let fs := if lvl = 3 then phasesOf id else if lvl = 2 then [id] else []
  let gs := if lvl = 1 then [id] else fs.flatMap graphsOf
  let ls := if lvl = 0 then [id]
    else (s.launches.filter (fun e => inP e.1 && e.2.known && gs.contains e.2.graph)).map (·.1 % 2 ^ 32)
  let own : Nat := match lvl with
    | 0 => (s.launchAt (inPart p id)).count
    | 1 => (s.graphs.get .reset (inPart p id)).count
    | 2 => (s.phases.get .reset (inPart p id)).count
    | _ => (s.jobs.get .reset (inPart p id)).count
  if own == 0 then s
  else
    let graph := (s.launchAt (inPart p id)).graph
    let gUp := (s.graphs.get .reset (inPart p id)).up
    let fUp := (s.phases.get .reset (inPart p id)).up
    let s : State := { s with
      graphs := cancelLevels s.graphs (fun k _ => inP k && gs.contains (k % 2 ^ 32))
      phases := cancelLevels s.phases (fun k _ => inP k && fs.contains (k % 2 ^ 32))
      jobs := if lvl = 3 then cancelLevels s.jobs (fun k _ => k == inPart p id) else s.jobs }
    let s := ls.foldl (fun s l => s.cancelLaunch p l) s
    match lvl with
    | 0 => s.graphDec p graph
    | 1 => s.phaseDec p gUp
    | 2 => s.jobDec p fUp
    | _ => s.modPart p (fun e => { e with jobsDone := e.jobsDone ++ [(id, true)] })

/-! ## The selection rule (R54, R363, R364) -/

/-- A core serves bucket b (R349). -/
def slotServes (c : Slot) (b : Nat) : Bool :=
  if c.blo ≤ c.bhi then c.blo ≤ b && b ≤ c.bhi else c.blo ≤ b || b ≤ c.bhi

/-- Pre-empted units of an ordered launch, in the order of R54: UIDX, order of the halt, and the saved entry if complete. -/
def State.preempted (s : State) (p l : Nat) : List (Nat × Nat × Option Nat) :=
  let run := (s.cores.filter (fun e => e.2.st != .idle && e.2.st != .restoring && e.2.halt.isSome && e.2.halt != some .spin &&
    (s.unitAt e.2.thread).part == p && (s.unitAt e.2.thread).launch == l)).map
    (fun e => ((s.unitAt e.2.thread).uidx, e.2.haltNo, (none : Option Nat)))
  let saved := (s.recs.filter (fun r => r.k == .saved && !r.spun && r.part == p && r.launch == l)).map
    (fun r => (r.img.uidx, r.haltNo, some r.id))
  run ++ saved

/-- The pre-empted unit that goes first. -/
def firstPre (l : List (Nat × Nat × Option Nat)) : Option (Nat × Nat × Option Nat) :=
  l.foldl (fun (m : Option (Nat × Nat × Option Nat)) e => match m with
    | none => some e
    | some x => if e.1 < x.1 || (e.1 == x.1 && e.2.1 < x.2.1) then some e else some x) none

/-- Its launch lets a record be selected alone: it is neither gang nor phased, and not ordered with pre-empted units waiting,
unless the record is the first of those units or one descheduled for spinning (R54, R363). What R366 binds as a group is the launch and
its saved units: a record POSTed in a gang is selected alone (log 90). -/
def State.unheld (s : State) (r : Rec) : Bool :=
  let l := s.launchAt (inPart r.part r.launch)
  let pre := if l.ord then s.preempted r.part r.launch else []
  ((!l.gang && !l.phased) || r.k == .posted) && !(s.part r.part).inReset &&
  ((r.k == .saved && r.spun) || pre.isEmpty || (r.k == .saved && (firstPre pre).map (·.2.2) == some (some r.id)))

/-- Power packing and a cluster remap tie the resume of a unit: to another core, and to its own logical one (R38, R43). -/
def State.fits (s : State) (k : Nat) (r : Rec) : Bool :=
  r.notCore != some (s.physCore k) && r.onCore.all (· == k)

/-- A record is a candidate for core k, whether or not the core is free (R363); none is in a partition under reset (R432). -/
def State.candidate (s : State) (k : Nat) (r : Rec) : Bool :=
  let c := s.slotOf k
  k / 64 < s.nclus && c.v && !c.mode && c.part == r.part && c.floor ≤ r.level &&
  (match r.place with | .bucket b => slotServes c b | .gateway _ => false | .held => false) &&
  s.unheld r && !s.selected r.id && (s.instOf r.thread).isNone && s.fits k r &&
  (match (s.coreAt k).rsvFor with
    | some id => match s.rec? id with | some q => q.level < r.level | none => true
    | none => true)

def Rec.bucket (r : Rec) : Nat := match r.place with | .bucket b => b | .gateway _ => 0 | .held => 0

/-- A saved entry of an ordered launch counts as first in its list (R363). -/
def State.jumps (s : State) (r : Rec) : Bool :=
  r.k == .saved && !r.spun && (s.launchAt (inPart r.part r.launch)).ord

/-- Distance of a bucket from the first one that a core serves, upward and wrapping. -/
def bucketDist (lo b : Nat) : Nat := (b + 256 - lo) % 256

/-- The record that core k would select now (R363). -/
def State.choose (s : State) (k : Nat) : Option Rec :=
  let c := s.recs.filter (s.candidate k)
  let top := c.foldl (fun m r => max m r.level) 0
  let lvl := c.filter (fun r => r.level == top)
  let heads := (lvl.foldl (fun (x : List Rec × List Nat) r =>
    if s.jumps r then (x.1 ++ [r], x.2) else if x.2.contains r.bucket then x else (x.1 ++ [r], x.2 ++ [r.bucket])) ([], [])).1
  let lo := (s.slotOf k).blo
  heads.foldl (fun (m : Option Rec) r => match m with
    | none => some r
    | some x => if r.enq < x.enq || (r.enq == x.enq && bucketDist lo r.bucket < bucketDist lo x.bucket) then some r
      else some x) none

/-- Core k can take a record: bound, idle, awake, not yet committed, not in a gated island (R363, R373, R440). -/
def State.free (s : State) (k : Nat) : Bool :=
  let c := s.coreAt k
  c.st == .idle && !c.gated && c.sel.isNone && (s.slotOf k).v && k / 64 < s.nclus &&
  !s.gated.contains (s.physCore k / 16) && !s.clusOff.contains (s.physCore k / 64)

/-- Logical core of a physical one. -/
def State.logCore (s : State) (c : Nat) : Option Nat :=
  ((upto s.nclus).find? (fun n => s.physCluster n == c / 64)).map (fun n => 64 * n + c % 64)

/-- Logical cores whose slot is bound, by ascending physical number. -/
def State.boundCores (s : State) : List Nat := s.slots.filterMap (fun e => if e.2.v then s.logCore e.1 else none)

/-- Free cores that would select from a bucket now, in ascending physical order. -/
def State.asking (s : State) (b : Nat) : List Nat :=
  s.boundCores.filter (fun k => s.free k && (match s.choose k with | some r => r.bucket == b | none => false))

/-- The core that a bucket grants: the first that asks after the core granted last (R364). -/
def State.granted (s : State) (b : Nat) : Option Nat :=
  let l := s.asking b
  let last := s.grants.get 0 b
  match l.find? (fun k => last < s.physCore k + 1 && s.grants.any (·.1 == b) && last != s.physCore k) with
  | some k => some k
  | none => l.head?

/-! ## Placement (R366, R368) -/

/-- Busy cores of the quadrant of core k. -/
def State.quadBusy (s : State) (k : Nat) : Nat :=
  (s.cores.filter (fun e => e.1 / 64 == k / 64 && e.1 % 64 / 16 == k % 64 / 16 && e.2.st != .idle)).length

/-- Mesh hops between physical clusters: within a die's 4 by 4 grid; another die counts eight hops more (DESIGN CHOICE). -/
def meshHops (a b : Nat) : Nat :=
  let d (x y : Nat) : Nat := (x - y) + (y - x)
  d (a % 16 / 4) (b % 16 / 4) + d (a % 4) (b % 4) + 8 * d (a / 16) (b / 16)

/-- Cost of giving core k a record of a level, or none when it cannot take it (R368). -/
def State.placeCost (s : State) (k level : Nat) : Option Nat :=
  let c := s.coreAt k
  let ph := s.physCore k
  let pwr := (s.slotOf k).pwr
  if s.clusOff.contains (ph / 64) then if pwr = 3 then some 45000 else none
  else if s.gated.contains (ph / 16) then
    if 2 ≤ pwr then some (3600 + 2048 * (s.frames.filter (fun e => e.2.used && e.1 / 48 == ph / 16)).length) else none
  else if c.sel.isSome then none
  else if c.st == .idle then if !c.gated then some 0 else if 1 ≤ pwr then some 20 else none
  else if c.st == .running && c.halt.isNone && (s.unitAt c.thread).prio < level then some 284
  else none

/-- What placement compares, the smaller first: cost, then the ties of R368. -/
def State.costKey (s : State) (k bucket n : Nat) : List Nat :=
  let u := s.unitAt (s.coreAt k).thread
  [n, if n = 284 then u.prio else 0, if n = 284 then 2 ^ 64 - u.bindClk else 0, if n = 0 then 64 - s.quadBusy k else 0,
   meshHops (s.physCore k / 64) (bucket / 4), s.physCore k]

/-- Lexicographic order. -/
def lexLt : List Nat → List Nat → Bool
  | [], _ => false
  | _, [] => false
  | a :: l, b :: m => a < b || (a == b && lexLt l m)

/-- The least of the cores at a cost each, by the ties of R368, with that cost; one without a cost is none. -/
def State.leastBy (s : State) (l : List Nat) (bucket : Nat) (cost : Nat → Option Nat) : Option (Nat × Nat) :=
  (l.foldl (fun (m : Option (Nat × List Nat)) k => match (cost k).map (s.costKey k bucket), m with
    | none, m => m
    | some x, none => some (k, x)
    | some x, some y => if lexLt x y.2 then some (k, x) else some y) none).map (fun e => (e.1, e.2.headD 0))

/-- The least of the cores for a record of a level (R368). -/
def State.leastCore (s : State) (l : List Nat) (level bucket : Nat) : Option (Nat × Nat) :=
  s.leastBy l bucket (s.placeCost · level)

/-- The record is first in its list among those that can be selected or placed (R363, R366, R368). -/
def State.firstInList (s : State) (r : Rec) : Bool :=
  let group (q : Rec) : Bool :=
    let l := s.launchAt (inPart q.part q.launch)
    (l.gang || l.phased) && q.k == .source && q.id == r.id
  s.jumps r || (s.recs.find? (fun q => q.part == r.part && q.level == r.level && q.place == r.place &&
    (s.unheld q || group q))).map (·.id) == some r.id

/-- The core that placement would direct, wake or pre-empt for a record, with its cost: the record is first in its list, and no
core asks its bucket for it, nor is one being emptied for it (R368). -/
def State.placement (s : State) (q : Rec) : Option (Nat × Nat) :=
  let pending := q.placed.any (fun k => (s.coreAt k).halt.isSome && s.candidate k q)
  if !s.unheld q || !s.firstInList q || s.selected q.id || pending ||
      (s.asking q.bucket).any (fun k => (s.choose k).map (·.id) == some q.id) then
    none
  else s.leastCore (s.boundCores.filter (fun k => s.candidate k q)) q.level q.bucket

/-! ## Asking for a halt (R21, R38, R45, R48, R367, R461) -/

/-- Units that are pre-empted together: a gang, or the units of a phased launch in one cluster. -/
def State.haltGroup (s : State) (k : Nat) : List Nat :=
  let u := s.unitAt (s.coreAt k).thread
  let all := (s.cores.filter (fun e => e.2.st != .idle && (s.unitAt e.2.thread).part == u.part &&
    (s.unitAt e.2.thread).launch == u.launch)).map (·.1)
  if u.gang then all else if u.phased then all.filter (fun j => j / 64 == k / 64) else [k]

def State.preempt (s : State) (k : Nat) (why : HaltWhy) : State := (s.haltGroup k).foldl (fun s j => s.askHalt j why) s

/-- The governor drops what it kept of the slot of core k, which the instance's unit there leaves for power packing or a slot
write; away says that the unit is to resume on another core (R38, R461). -/
def State.dropKept (s : State) (away : Bool) (k : Nat) : State :=
  match s.instOf (s.coreAt k).thread with
  | some (g, i) => s.modInst g i (fun x => { x with slotKept := none, tied := false, left := if away then some (s.physCore k) else none })
  | none => s

/-- The unit of core k, and what is pre-empted with it, leaves for power packing (R38, R350, R461). -/
def State.pack (s : State) (k : Nat) (away : Bool) : State :=
  (s.haltGroup k).foldl (State.dropKept · away) (if (s.coreAt k).halt.isNone then s.preempt k .packing else s)

/-! ## Binding a unit (R28, R32, R33, R126, R319, R344) -/

/-- The context that starts from a record's image; POIS counts only where FULL is set, since no register rests empty and
poisoned (R125, R126; log 52). -/
def RecImg.ctx (i : RecImg) : Ctx :=
  let regs := (liveList i.live).zip (upto 16)
  { Ctx.reset with
    live := true, pc := i.pc
    g := regs.foldl (fun g e => g.set e.1 { GReg.empty with
      v := i.vals.getD e.2 0, f := i.full.getLsbD e.2, p := i.full.getLsbD e.2 && i.pois.getLsbD e.2 }) [] }

/-- A free thread number (R28, R267). -/
def State.threadFree (s : State) (t : Nat) : Bool :=
  t != 0 && t < 2 ^ s.tltLog && (s.thr t).st == .closed && !(s.thr t).freed

/-- The next landing key for thread t (R28). -/
def State.nextKey (s : State) (t : Nat) : Nat :=
  let k := (s.keyCtr + 1) % 65536
  if s.threads.any (·.1 == t) && (s.thr t).key == k then (k + 1) % 65536 else k

/-- Core k is bound to a partition: a partition other than the last finds the local store and ASERR cleared (R319, R388). -/
def Core.forPart (c : Core) (p : Nat) : Core :=
  if c.lastPart == none || c.lastPart == some p then { c with lastPart := some p }
  else { c with ls := .blank, aserr := 0, lastPart := some p }

/-- The arena of a unit, wholly free: blocks of 64 KiB from the base that the launch names (R273, R360). -/
def arenaFree (code : Nat) : List Blk := (upto (3 - code)).map (fun i => ⟨0x10000 * (code + i), 16, false⟩)

/-- The unit that a launch starts: unit index and affinity given. -/
def Launch.unit (l : Launch) (asid part launch uidx prio : Nat) (aff : Word) (key : Nat) (c : Ctx) (clk : Nat) : UnitSt :=
  { UnitSt.reset with
    key := key, asid := asid, part := part, launch := launch, uidx := uidx, prio := prio, ord := l.ord, gang := l.gang
    phased := l.phased, aff := aff, ctxs := [(0, c)], arena := l.arena, alloc := arenaFree l.arena, bindClk := clk }

/-- A unit starts on core k under thread t: key, TLT entry Resident, core running (R28). -/
def State.startUnit (s : State) (k t : Nat) (asid part launch uidx prio : Nat) (aff : Word) (c : Ctx) : State :=
  let key := s.nextKey t
  let l := s.launchAt (inPart part launch)
  let u := l.unit asid part launch uidx prio aff key { c with born := s.nextReq } s.clk
  let s : State := { s with keyCtr := key }
  let s := s.setThr t { Thread.reset with
    st := .resident, launch := launch, asid := asid, key := key, loc := k, part := part, counted := true
    gimg := if l.gang then u.ctxs else [] }
  let s := s.setUnit t u
  s.modCore k (fun x => { x.forPart part with
    st := .running, thread := t, links := [], halt := none, gated := false, sel := none, rsvFor := none, rsvd := 0 })

/-- A unit whose address space is not in use is refused and counted as cancelled (R337). -/
def State.refuseUnit (s : State) (p l : Nat) : State :=
  (s.modLaunch (inPart p l) (fun e => { e with canc := true })).launchDec p l 1

end Sys2Proof.Machine
end

