-- ==== Sys2Proof/Machine/Work.lean ====
section
/-!
DEFINITION. Helpers, tasks, tile buffers, spans, barriers and levels (R262 to R267, R272 to R278).
-/
namespace Sys2Proof.Machine

/-- A trap with TADDR the first parcel. -/
def State.ipTrap (s : State) (b : Bool) (c : Nat) : Bool × Exc := (b, .trap (cz c) s.ip)

/-- The acting context is a helper. -/
def State.helper (s : State) : Bool := s.ctx != 0
/-- A helper of the unit is live. -/
def UnitSt.helpers (u : UnitSt) : Bool := u.ctxs.any (fun e => e.1 != 0 && e.2.live)

/-- Running signature of a UEXIT or HEXIT, compared as it issues (R286, R287): none when it is wrong. -/
def State.endSig (s : State) : Bool :=
  let a := s.cx.assay
  !a.armed || (a.feed s.ir).c == a.e

/-! ## Helpers (R262) -/

/-- START: a helper's life begins; what an earlier one of its slot has issued is none of its own (R23, R389). -/
def execStart (a : Src) (off : BitVec 32) (s : State) : Out :=
  control s ⟨[(a.a, a.ta)], sx16 a.imm,
    fun vs => firstExc [((vat vs 0).p, .consume (cz 0xA08) s.ip),
      s.ipTrap ((vat vs 0).v.toNat < 1 || 10 < (vat vs 0).v.toNat) 0xD01,
      s.ipTrap (s.un.ctxAt (vat vs 0).v.toNat).live 0xD02],
    fun t vs =>
      ((({ t with nextReq := t.nextReq + 1 } : State).orphanInvs s.th (· == (vat vs 0).v.toNat)).modCtx s.th (vat vs 0).v.toNat (fun _ => { Ctx.reset with
        born := t.nextReq + 1, live := true, pc := s.cx.pc + off32 off, uvec := (s.un.ctxAt 0).uvec })).retire⟩

/-- HJOIN. -/
def execHjoin (a : Src) (s : State) : Out :=
  let h (vs : List Val) : Nat := (vat vs 0).v.toNat
  match s.srcVals (sx16 a.imm) [] [(a.a, a.ta)] with
  | some [v] =>
    if s.runs && !v.p && 1 ≤ v.v.toNat && v.v.toNat ≤ 10 && v.v.toNat != s.ctx && (s.un.ctxAt v.v.toNat).live then
      .next (s.waits .hjoin)
    else control s ⟨[(a.a, a.ta)], sx16 a.imm,
      fun vs => firstExc [((vat vs 0).p, .consume (cz 0xA02) s.ip), s.ipTrap (h vs < 1 || 10 < h vs) 0xD01,
        s.ipTrap (h vs == s.ctx) 0xD06],
      fun t _ => t.retire⟩
  | _ => control s ⟨[(a.a, a.ta)], sx16 a.imm, fun _ => none, fun t _ => t.retire⟩

/-- A helper ends: landings held for it are rejected, its notices discarded (R23, R130, R262, R294). -/
def State.endHelper (s : State) (t c : Nat) : State :=
  let e := s.thr t
  let mine (l : Landing) : Bool := mraThread l.mra == t && mraCtx l.mra == c
  let held := (s.coreAt e.loc).lbuf.filter mine
  let s := s.modCore e.loc (fun k => { k with lbuf := k.lbuf.filter (!mine ·) })
  let s := s.modCtx t c (fun _ => .reset)
  let s := s.setThr t { e with notices := e.notices.del c }
  held.foldl (fun s l => s.reject l) s

/-- HEXIT. -/
def execHexit (s : State) : Out :=
  control s ⟨[], 0, fun _ => firstExc [s.ipTrap (!s.helper) 0xD05],
    fun s _ =>
      if !s.endSig then s.sigFault s.cx.pc s.cx.pc
      else (s.pm s.th 1 s.cx.priv).endHelper s.th s.ctx⟩

/-! ## Tasks (R263 to R267) -/

/-- The operand i places after the mask. -/
def reqOpd : Opd → Nat → Opd
  | .g n, i => .g (n + BitVec.ofNat 5 i)
  | .x k, i => .x (k + BitVec.ofNat 3 i)
  | .link d, _ => .link d
  | .imm, _ => .imm
  | .rsv c, _ => .rsv c

/-- The requirements run beyond the end of the mask's register file (R263). -/
def reqBeyond (a : Opd) (ntb : Nat) : Bool :=
  match a with
  | .g n => 31 < n.toNat + ntb
  | .x k => 7 < k.toNat + ntb
  | .link _ => false | .imm => false | .rsv _ => false

/-- Requirement registers that exist. -/
def reqSrcs (p : PostOp) : List SrcOp :=
  let n := match p.mask with
    | .g n => min p.ntb.toNat (31 - n.toNat)
    | .x k => min p.ntb.toNat (7 - k.toNat)
    | .link _ => 0 | .imm => 0 | .rsv _ => 0
  (upto n).map (fun i => (reqOpd p.mask (i + 1), false))

/-- How many bits of a mask are set. -/
def popCount (v : Nat) (w : Nat) : Nat := ((upto w).filter (fun i => v.testBit i)).length

/-- POST and SUSP as one plan: the operands, then the checks of R263 in their order. -/
def postExc (s : State) (p : PostOp) (susp : Bool) (vs : List Val) : Option Exc :=
  let m := (vat vs 1).v.toNat
  let reqs := vs.drop 2
  let live := liveList (BitVec.ofNat 32 m)
  firstExc
    [s.ipTrap (susp && s.helper) 0xD05, s.ipTrap (s.un.phased || (susp && s.un.gang)) 0xD0F,
     ((vat vs 0).p, .consume (cz 0xA08) s.ip), ((vat vs 1).p, .consume (cz 0xA02) s.ip),
     (anyP reqs, .consume (cz 0xA03) s.ip),
     s.ipTrap (m % 2 == 1 || m / 2 ^ 32 != 0 || 16 < popCount m 64 || reqs.any (fun q => tbRole q.v == 3) ||
       reqBeyond p.mask p.ntb.toNat || (susp && live.any (fun n => (s.cx.reg n).depth != 0))) 0xD04,
     (!canonical (vat vs 0).v, .trap (cz 0x403) (vat vs 0).v), s.ipTrap (susp && s.un.helpers) 0xD03]

/-- The image of a record that the acting context writes. -/
def State.postImg (s : State) (p : PostOp) (vs : List Val) (susp : Bool) : RecImg :=
  let u := s.un
  let live := BitVec.ofNat 32 (vat vs 1).v.toNat
  let regs := (liveList live).map (fun n => s.cx.reg n)
  let bits (f : GReg → Bool) : BitVec 16 := BitVec.ofNat 16 ((regs.zip (upto 16)).foldl (fun n e => if f e.1 then n + 2 ^ e.2 else n) 0)
  let l := s.launchAt (inPart u.part u.launch)
  { pc := s.cx.pc + off32 p.off, live := live
    full := bits (fun r => !susp || r.f), pois := bits (fun r => match r.head with | some v => v.p | none => false)
    prio := (s.part u.part).clamp l.ceil (if p.prioSet then p.prio.toNat else u.prio), ntb := p.ntb.toNat
    aff := (vat vs 0).v, uidx := u.uidx, tbreq := (vs.drop 2).map (·.v)
    vals := regs.map (fun r => match r.head with | some v => v.v | none => r.v) }

/-- The record of a POST or a SUSP. -/
def State.postRec (s : State) (i : RecImg) (k : RKind) (frame : Nat) : Rec :=
  let u := s.un
  { id := 0, part := u.part, asid := u.asid, launch := u.launch, k := k
    place := if k == .posted && u.gang then .held else .bucket 0, level := i.prio, enq := 0, frame := frame, img := i
    thread := if k == .suspended || u.gang then s.th else 0, key := if k == .suspended || u.gang then u.key else 0, next := 0
    haltNo := 0, spun := false }

/-- Operands of POST and SUSP. -/
def postSrcs (p : PostOp) : List SrcOp := [(p.aff, false), (p.mask, false)] ++ reqSrcs p

/-- POST (R264): a record into a launch on which a CANCEL has acted is dropped (R27). -/
def execPost (p : PostOp) (s : State) : Out :=
  control s ⟨postSrcs p, p.imm.zeroExtend 64, fun vs => postExc s p false vs,
    fun t vs =>
      let u := t.un
      let live := liveList (BitVec.ofNat 32 (vat vs 1).v.toNat)
      let l := t.launchAt (inPart u.part u.launch)
      if live.any (fun n => (t.cx.reg n).head.isNone) then s.waits .reg
      else if l.cut then t.retire
      else match t.freeFrame u.part with
        | none => s.waits .frame
        | some a =>
          let r := t.postRec (t.postImg p vs false) .posted a
          let t := t.setLaunch (inPart u.part u.launch) { l with count := l.count + 1 }
          ((t.addRec r).writeFrame r r.nat).retire⟩

/-- Place n in a record's live registers. -/
def RecImg.slot (i : RecImg) (n : Nat) : Option Nat := indexOf (· == n) (liveList i.live)

/-- A landing meets a suspended record: written, refused, or rejected (R34). -/
def State.landRec (s : State) (r : Rec) (l : Landing) : State :=
  match r.img.slot (mraReg l.mra) with
  | none => s.reject l
  | some k =>
    if mraCtx l.mra != 0 then s.reject l
    else if r.img.full.getLsbD k then { s with flight := s.flight ++ [{ l with refusedAt := some s.clk }] }
    else
      let i := { r.img with
        full := r.img.full ||| (1#16 <<< k), pois := if l.val.p then r.img.pois ||| (1#16 <<< k) else r.img.pois
        vals := modNth (fun _ => l.val.v) k r.img.vals }
      let r' := { r with img := i }
      ((s.modRec r.id (fun _ => r')).writeFrame r' r'.nat).landed l

/-- The unit leaves its core for a record: held landings resolve by R34, the core is released (R265). -/
def State.suspend (s : State) (r : Rec) : State :=
  let t := s.th
  let k := s.core
  let held := (s.coreAt k).lbuf
  let s := (s.modThr t (fun e => { e with st := .suspended, addr := r.frame, liveh := [] })).orphanInvs t (fun _ => true)
  let s := s.addRec r
  let s := s.modCore k (fun c => { c with st := .idle, thread := 0, lbuf := [], halt := none, gated := false, idleSince := s.clk })
  let s : State := { s with units := s.units.del t }
  held.foldl (fun s l => match s.recs.find? (fun q => q.thread == t && q.k == .suspended) with
    | some q => s.landRec q l
    | none => s.reject l) s

/-- SUSP (R265). -/
def execSusp (p : PostOp) (s : State) : Out :=
  control s ⟨postSrcs p, p.imm.zeroExtend 64, fun vs => postExc s p true vs,
    fun t vs =>
      if !t.un.vq.isEmpty || !t.un.mq.isEmpty then s.waits .unitIdle
      else match t.freeFrame t.un.part with
        | none => s.waits .frame
        | some a =>
          let r := t.postRec (t.postImg p vs true) .suspended a
          (t.retire.writeFrame r r.nat).suspend r⟩

/-- YIELD (R266). -/
def execYield (s : State) : Out :=
  control s ⟨[], 0, fun _ => firstExc [s.ipTrap s.helper 0xD05, s.ipTrap (s.un.gang || s.un.phased) 0xD0F],
    fun s _ =>
      let t := s.retire
      if t.recs.any (t.candidate t.core) then t.askHalt t.core .slice else t⟩

/-- The matrix operations of a unit that ends can go no further: status 0x08 (DESIGN CHOICE, log 92). -/
def State.endMat (s : State) (t : Nat) : State :=
  ((s.thr t).ops.filter (·.k == .mat)).foldl (fun s o => s.opEnd t o.tl o.no 8 0 0) s

/-- A unit ends as UEXIT has it: its entry closes, its engine operations run on (R253, R267). -/
def State.exitUnit (s : State) (t : Nat) : State :=
  let e := s.thr t
  ((s.endMat t).closeThread t).gangGone e.part e.launch

/-- UEXIT (R22, R267): it is compared and unarmed as it issues, before it waits for helpers (R286, R287). -/
def execUexit (s : State) : Out :=
  control s ⟨[], 0, fun _ => firstExc [s.ipTrap s.helper 0xD05],
    fun s _ =>
      if !s.endSig then s.sigFault s.cx.pc s.cx.pc
      else if s.un.helpers then (s.setCx { s.cx with assay := s.cx.assay.disarm }).waits .uexit
      else ((s.pm s.th 1 s.cx.priv).exitUnit s.th).loseInst (s.instOf s.th)⟩

/-! ## Tile buffers (R272 to R275) -/

/-- log2 of a TBALLOC size, when it is a power of two from 256 B to 64 KiB. -/
def allocLog (v : Nat) : Option Nat := ((upto 9).map (· + 8)).find? (fun k => 2 ^ k == v)

/-- The smallest sufficient free block at the lowest offset. -/
def findBlk (l : List Blk) (lg : Nat) : Option Blk :=
  l.foldl (fun (m : Option Blk) b =>
    if b.used || b.lg < lg then m
    else match m with
      | none => some b
      | some x => if b.lg < x.lg || (b.lg == x.lg && b.off < x.off) then some b else some x) none

/-- The pieces of a block split down to lg, the allocated one first. -/
def splitBlk (off lg : Nat) : Nat → List Blk
  | 0 => [⟨off, lg, true⟩]
  | n + 1 => splitBlk off lg n ++ [⟨off + 2 ^ (lg + n), lg + n, false⟩]

/-- Allocate: the new list and the offset. -/
def allocBlk (l : List Blk) (lg : Nat) : Option (List Blk × Nat) :=
  (findBlk l lg).map (fun b => (l.flatMap (fun x => if x == b then splitBlk b.off lg (b.lg - lg) else [x]), b.off))

/-- Merge the free block at off with its free buddy, up to 64 KiB. -/
def mergeBlk (l : List Blk) (off lg : Nat) : Nat → List Blk
  | 0 => l
  | n + 1 =>
    let bud := off ^^^ 2 ^ lg
    if lg < 16 && l.any (fun x => x.off == bud && x.lg == lg && !x.used) then
      let lo := min off bud
      let l := l.filterMap (fun x => if x.lg == lg && (x.off == off || x.off == bud) then
        (if x.off == lo then some ⟨lo, lg + 1, false⟩ else none) else some x)
      mergeBlk l lo (lg + 1) n
    else l

/-- Free the block at off. -/
def freeBlk (l : List Blk) (off : Nat) : List Blk :=
  match l.find? (fun x => x.off == off && x.used) with
  | some b => mergeBlk (l.map (fun x => if x == b then { b with used := false } else x)) off b.lg 8
  | none => l

/-- The allocated block that starts at off. -/
def UnitSt.blockAt (u : UnitSt) (off : Nat) : Option Blk := u.alloc.find? (fun x => x.off == off && x.used)

/-- TBALLOC. -/
def execTballoc (o : Un) (s : State) : Out :=
  let got (vs : List Val) : Option (List Blk × Nat) := match allocLog (vat vs 0).v.toNat with
    | some lg => allocBlk s.un.alloc lg
    | none => none
  scalarE s ⟨[(o.a, o.ta)], some o.d, sx16 o.imm,
    fun vs => firstExc [((vat vs 0).p, .consume (cz 0xA03) s.ip),
      ((allocLog (vat vs 0).v.toNat).isNone, .trap (cz 0x309) (vat vs 0).v)],
    fun vs => match got vs with | some r => ⟨bv r.2, false⟩ | none => ⟨BitVec.allOnes 64, false⟩⟩
    (fun vs t => match got vs with | some r => t.setUn { t.un with alloc := r.1 } | none => t)

/-- TBFREE. -/
def execTbfree (a : Src) (s : State) : Out :=
  control s ⟨[(a.a, a.ta)], sx16 a.imm,
    fun vs =>
      let off := (vat vs 0).v.toNat
      firstExc [((vat vs 0).p, .consume (cz 0xA03) s.ip),
        ((s.un.blockAt off).isNone || s.un.bufs.any (fun e => e.2.v && e.2.base == off && e.2.st != .empty),
          .trap (cz 0x30A) (vat vs 0).v)],
    fun t vs =>
      let off := (vat vs 0).v.toNat
      let u := t.un
      (t.setUn { u with
        alloc := freeBlk u.alloc off
        bufs := u.bufs.map (fun e => if e.2.v && e.2.base == off then (e.1, Buf.reset) else e) }).retire⟩

/-- A change of state that R274 permits. -/
def bufChange (b : Buf) (st : BufState) : Bool :=
  if !b.v then st != .draining
  else match b.st, st with
    | .empty, .draining => false
    | .empty, _ => true
    | .filling, .draining => false
    | .filling, _ => true
    | .full, .filling => false
    | .full, _ => true
    | .draining, .filling => false
    | .draining, .full => false
    | .draining, _ => true

/-- TBSET. Setting a valid empty descriptor empty has no effect, whatever block the base names: base and size stay (R274's table; DESIGN
CHOICE, log 92). -/
def execTbset (st : BufState) (a : Opd) (ta : Bool) (b : Opd) (tb : Bool) (imm : BitVec 16) (s : State) : Out :=
  let old (vs : List Val) : Buf := s.un.bufs.get .reset (vat vs 0).v.toNat
  let fresh (vs : List Val) : Bool := !(old vs).v || (old vs).st == .empty
  control s ⟨[(a, ta), (b, tb)], sx16 imm,
    fun vs => firstExc
      [((vat vs 0).p, .consume (cz 0xA02) s.ip), ((vat vs 1).p, .consume (cz 0xA03) s.ip),
       (31 < (vat vs 0).v.toNat, .trap (cz 0x30C) (vat vs 0).v),
       (fresh vs && (s.un.blockAt (vat vs 1).v.toNat).isNone, .trap (cz 0x30A) (vat vs 1).v),
       (!fresh vs && (old vs).base != (vat vs 1).v.toNat, .trap (cz 0x30B) (vat vs 1).v),
       (!bufChange (old vs) st, .trap (cz 0x30B) (vat vs 1).v)],
    fun t vs =>
      let b := old vs
      let new : Buf := if fresh vs then
          ⟨true, st, match s.un.blockAt (vat vs 1).v.toNat with | some x => x.lg - 8 | none => 0, (vat vs 1).v.toNat⟩
        else { b with st := st }
      let keep := b.v && b.st == .empty && st == .empty
      (if keep then t else t.setUn { t.un with bufs := t.un.bufs.set (vat vs 0).v.toNat new }).retire⟩

/-- TBSTAT. -/
def execTbstat (o : Un) (s : State) : Out :=
  scalar s ⟨[(o.a, o.ta)], some o.d, sx16 o.imm,
    fun vs => firstExc [(31 < (vat vs 0).v.toNat, .trap (cz 0x30C) (vat vs 0).v)],
    fun vs => ⟨bv (s.un.bufs.get .reset (vat vs 0).v.toNat).word, false⟩⟩

/-! ## Spans, barriers and levels (R276 to R278) -/

/-- SPANX. -/
def execSpanx (s : State) : Out :=
  control s ⟨[], 0, fun _ => firstExc [s.ipTrap (!s.un.phased || s.un.exchange) 0xD0E],
    fun s _ => (s.setUn { s.un with exchange := true }).retire⟩

/-- SPANC. -/
def execSpanc (s : State) : Out :=
  control s ⟨[], 0, fun _ => firstExc [s.ipTrap (!s.un.phased || !s.un.exchange) 0xD0E],
    fun s _ => (s.setUn { s.un with exchange := false }).retire⟩

/-- GBAR: the unit arrives and waits; GBAR_COMPLETE lets the gang go on (R277). -/
def execGbar (s : State) : Out :=
  control s ⟨[], 0,
    fun _ => firstExc [s.ipTrap s.helper 0xD05, s.ipTrap (!s.un.gang) 0xD0C, s.ipTrap s.un.helpers 0xD03],
    fun s _ => (s.setUn { s.un with arrived := true }).waits .gbar⟩

/-- LCNT. -/
def execLcnt (d : Opd) (lvl : BitVec 16) (s : State) : Out :=
  scalar s ⟨[], some d, 0, fun _ => firstExc [s.ipTrap (3 < lvl.toNat) 0xD0F], fun _ => ⟨s.levelCount lvl.toNat, false⟩⟩

/-- CANCEL. -/
def execCancel (lvl : BitVec 16) (s : State) : Out :=
  control s ⟨[], 0, fun _ => firstExc [s.ipTrap (3 < lvl.toNat) 0xD0F],
    fun s _ => s.retire.cancel s.un.part lvl.toNat (s.levelId lvl.toNat)⟩

end Sys2Proof.Machine
end

