-- ==== Sys2Proof/Machine/Stage.lean ====
section
/-!
DEFINITION. Stages: the stage table, key-range tables and lanes in memory, the stage instructions, and the governor's
steps (R268 to R271, R347, R348, R370, R371, R374 to R387, R456 to R458, R461, R462).
-/
namespace Sys2Proof.Machine

/-! ## The stage table (R374) -/

/-- Address of the entry of a stage. -/
def State.stageVa (s : State) (asid st : Nat) : Nat := s.asStgt asid + 64 * st
/-- The entry, when it can be read and is not poisoned. -/
def State.stageEnt (s : State) (asid st : Nat) : Option Nat :=
  match s.vread asid (s.stageVa asid st) 64 with
  | some (e, false) => some e
  | some (_, true) => none
  | none => none

/-- The fields of a stage-table entry. -/
structure StageEnt where
  handler : Word
  split : Word
  merge : Word
  high : Nat
  low : Nat
  up : Nat
  down : Nat
  maxi : Nat
  sper : Nat
  lg : Nat        -- log2 of the state buffer's size
  prio : Nat
  krt : Nat
  xfer : Nat
  launch : Nat
deriving DecidableEq, Repr

def StageEnt.ofNat (e : Nat) : StageEnt :=
  { handler := bv (fieldOf e 0 64), split := bv (fieldOf e 64 64), merge := bv (fieldOf e 128 64), high := fieldOf e 192 32
    low := fieldOf e 224 32, up := fieldOf e 256 8, down := fieldOf e 264 8, maxi := fieldOf e 272 8, sper := fieldOf e 280 5
    lg := fieldOf e 285 4 + 8, prio := fieldOf e 289 7, krt := fieldOf e 320 64, xfer := fieldOf e 384 64
    launch := fieldOf e 448 32 }

/-- A reserved bit of an entry is set (R4, R374). -/
def stageRsv (n : Nat) : Bool := fieldOf n 480 32 != 0 || fieldOf n 296 23 != 0

/-- An entry keeps the limits of R374 and R375. -/
def stageEntOk (n : Nat) : Bool :=
  let e := StageEnt.ofNat n
  !stageRsv n && canonical (bv e.xfer) && e.xfer % 2 ^ e.lg == 0 && e.krt % 512 == 0 &&
  inCarve e.krt && e.lg ≤ 16 && 10 ≤ e.sper && e.sper ≤ 20 && 1 ≤ e.maxi && e.maxi ≤ 16 && 1 ≤ e.down && 1 ≤ e.up &&
  1 ≤ e.high && e.high ≤ 2 ^ 20 + 4096 && e.low < e.high && targetOk e.handler && targetOk e.split && targetOk e.merge

/-- The entry of a stage, or zeros. -/
def State.stage (s : State) (asid st : Nat) : StageEnt := .ofNat ((s.stageEnt asid st).getD 0)

/-! ## Key-range tables (R347, R348) -/

/-- A KRT entry. -/
structure Krt where
  hi : Nat
  lo : Nat
  ring : Nat
  thread : Nat
  key : Nat
  orig : Nat
  twin : Nat
  ov : Bool
  tv : Bool
  st : Nat
deriving DecidableEq, Repr

def Krt.ofNat (e : Nat) : Krt :=
  { hi := fieldOf e 192 64, lo := fieldOf e 128 64, ring := fieldOf e 64 64, thread := fieldOf e 40 24, key := fieldOf e 24 16
    orig := fieldOf e 20 4, twin := fieldOf e 16 4, ov := e.testBit 15, tv := e.testBit 14, st := fieldOf e 0 4 }

def Krt.nat (k : Krt) : Nat :=
  k.hi % 2 ^ 64 * 2 ^ 192 + k.lo % 2 ^ 64 * 2 ^ 128 + k.ring % 2 ^ 64 * 2 ^ 64 + k.thread % 2 ^ 24 * 2 ^ 40 +
  k.key % 2 ^ 16 * 2 ^ 24 + k.orig % 16 * 2 ^ 20 + k.twin % 16 * 2 ^ 16 + (if k.ov then 2 ^ 15 else 0) +
  (if k.tv then 2 ^ 14 else 0) + k.st % 16

def State.krt (s : State) (base i : Nat) : Krt := .ofNat (s.mem.read (base + 32 * i) 32)
def State.setKrt (s : State) (base i : Nat) (k : Krt) : State := { s with mem := s.mem.write (base + 32 * i) 32 k.nat false }
/-- Exclusive upper end of an entry's range. -/
def Krt.top (k : Krt) : Nat := if k.hi = 0 then 2 ^ 64 else k.hi
/-- The entry takes keys: neither Free nor Quiescing. -/
def Krt.routes (k : Krt) : Bool := k.st != 0 && k.st != 5
def Krt.holds (k : Krt) (v : Nat) : Bool := k.lo ≤ v && v < k.top

/-- The ranges of the routing entries are a partition of the keys: each start is 0 or another's end, none overlap. -/
def rangesOk (l : List Krt) : Bool :=
  l.all (fun k => k.lo < k.top) && l.any (·.lo == 0) && l.any (·.top == 2 ^ 64) &&
  (l.foldl (fun n k => n + (k.top - k.lo)) 0) == 2 ^ 64 &&
  l.all (fun k => (l.filter (fun m => m.lo < k.top && k.lo < m.top)).length == 1)

/-! ## Lanes (R370, R371) -/

/-- Address of lane l (0 direct, 1 forward, 2 held) of KRT entry i (R457). -/
def laneAt (krt i l : Nat) : Nat := krt + 512 + 192 * i + 64 * l

/-- A lane header. -/
structure Lane where
  bbase : Nat
  fbase : Nat
  bcnt : Nat
  bhead : Nat
  blog : Nat
  fcnt : Nat
  fhead : Nat
deriving DecidableEq, Repr

def Lane.ofNat (h : Nat) : Lane :=
  { bbase := fieldOf h 192 64, fbase := fieldOf h 128 64, bcnt := fieldOf h 107 21, bhead := fieldOf h 87 20
    blog := fieldOf h 82 5, fcnt := fieldOf h 69 13, fhead := fieldOf h 57 12 }

def Lane.nat (l : Lane) : Nat :=
  l.bbase * 2 ^ 192 + l.fbase * 2 ^ 128 + l.bcnt * 2 ^ 107 + l.bhead * 2 ^ 87 + l.blog * 2 ^ 82 + l.fcnt * 2 ^ 69 +
  l.fhead * 2 ^ 57

/-- A lane header is valid (R370). -/
def laneOk (h : Nat) : Bool :=
  let l := Lane.ofNat h
  fieldOf h 256 256 == 0 && fieldOf h 0 57 == 0 && l.bbase % 4096 == 0 && l.fbase % 0x40000 == 0 && inCarve l.fbase &&
  (l.blog == 0 || (10 ≤ l.blog && l.blog ≤ 20)) && l.fcnt ≤ 4096 && l.bcnt ≤ (if l.blog = 0 then 0 else 2 ^ l.blog)

def State.lane (s : State) (a : Nat) : Lane := .ofNat (s.mem.read a 64)
def State.setLane (s : State) (a : Nat) (l : Lane) : State := { s with mem := s.mem.write a 64 l.nat false }
def Lane.count (l : Lane) : Nat := l.fcnt + l.bcnt
def Lane.brim (l : Lane) : Nat := if l.blog = 0 then 0 else 2 ^ l.blog
def Lane.full (l : Lane) : Bool := l.fcnt == 4096 && l.bcnt == l.brim

/-- Eight doublewords with their poison, at an address. -/
def State.putRecord (s : State) (a : Nat) (r : List Val) : State :=
  { s with mem := (r.foldl (fun (x : PMem × Nat) v => (x.1.write x.2 8 v.v.toNat v.p, x.2 + 8)) (s.mem, a)).1 }
def State.getRecord (s : State) (a : Nat) : List Val :=
  (upto 8).map (fun i => ⟨bv (s.mem.read (a + 8 * i) 8), s.mem.anyPoison (a + 8 * i) 8⟩)

/-- The brim's oldest record moves to the fast part's tail (R371). -/
def State.brimMove (s : State) (a : Nat) : State :=
  let l := s.lane a
  if l.bcnt = 0 || 4096 ≤ l.fcnt then s
  else (s.putRecord (l.fbase + 64 * ((l.fhead + l.fcnt) % 4096)) (s.getRecord (l.bbase + 64 * l.bhead))).setLane a
    { l with fcnt := l.fcnt + 1, bcnt := l.bcnt - 1, bhead := (l.bhead + 1) % l.brim }

/-- A record enters a lane, or finds it full. -/
def State.pushLane (s : State) (a : Nat) (r : List Val) : Option State :=
  let s := if (s.lane a).bcnt = (s.lane a).brim then s.brimMove a else s
  let l := s.lane a
  if l.bcnt = 0 && l.fcnt < 4096 then
    some ((s.putRecord (l.fbase + 64 * ((l.fhead + l.fcnt) % 4096)) r).setLane a { l with fcnt := l.fcnt + 1 })
  else if l.bcnt < l.brim then
    some ((s.putRecord (l.bbase + 64 * ((l.bhead + l.bcnt) % l.brim)) r).setLane a { l with bcnt := l.bcnt + 1 })
  else none

/-- The record at the head of a lane's fast part. -/
def State.headOf (s : State) (a : Nat) : Option (List Val) :=
  let l := s.lane a
  if l.fcnt = 0 then none else some (s.getRecord (l.fbase + 64 * l.fhead))

/-- The head record leaves lane l of instance i; markers behind it come one nearer. -/
def State.popLane (s : State) (k krt i l : Nat) : State :=
  let a := laneAt krt i l
  let h := s.lane a
  (s.setLane a { h with fcnt := h.fcnt - 1, fhead := (h.fhead + 1) % 4096 }).modStage k (fun r =>
    { r with markers := r.markers.map (fun m => if m.1 == i && m.2.1 == l then (i, l, m.2.2 - 1) else m) })

/-- Records ahead of the marker in lane l of instance i. -/
def StageRt.marker (r : StageRt) (i l : Nat) : Option Nat :=
  (r.markers.find? (fun m => m.1 == i && m.2.1 == l)).map (·.2.2)
def StageRt.dropMarker (r : StageRt) (i l : Nat) : StageRt :=
  { r with markers := r.markers.filter (fun m => !(m.1 == i && m.2.1 == l)) }

/-! ## A stage as a whole -/

def State.krts (s : State) (base : Nat) : List Krt := (upto 16).map (s.krt base)
/-- Bytes of a KRT and its lane headers are poisoned (R404). -/
def State.krtPoison (s : State) (base : Nat) : Bool := s.mem.anyPoison base (512 + 192 * 16)

/-- KRT and lane headers are sound (R347, R370). -/
def State.krtOk (s : State) (base : Nat) : Bool :=
  let l := s.krts base
  !s.krtPoison base && (upto 16).all (fun i => fieldOf (s.mem.read (base + 32 * i) 32) 4 10 == 0) &&
  l.all (fun k => k.st < 7) && rangesOk (l.filter (·.routes)) &&
  (upto 48).all (fun n => laneOk (s.mem.read (laneAt base (n / 3) (n % 3)) 64))

/-- A stage's records can be routed: its entry is there with no reserved bit set, and its KRT and lane headers are sound (R4, R347,
R370). -/
def State.routable (s : State) (asid st : Nat) : Bool :=
  (match s.stageEnt asid st with | some n => !stageRsv n | none => false) && s.krtOk (s.stage asid st).krt

/-- A slot is written: its generation advances; with PWR 0 its core is awake; a unit that loses its binding is pre-empted, and what is
pre-empted with it (R349, R350, R461). -/
def State.putSlot (s : State) (c : Nat) (v : Slot) : State :=
  let old := s.slots.get slotBlank c
  let s : State := { s with slots := s.slots.set c v, gens := s.gens.set c ((s.gens.get 0 c + 1) % 256) }
  match s.logCore c with
  | none => s
  | some k =>
    let s := if v.pwr = 0 && (s.coreAt k).gated then s.modCore k (fun c => { c with gated := false, idleSince := s.clk }) else s
    if (s.coreAt k).st != .idle && (!v.v || v.part != old.part || v.mode != old.mode) then s.pack k false else s

/-- The governor has bound core k for an instance that is yet to come to it. -/
def State.bespoke (s : State) (k : Nat) : Bool :=
  let here (t : Nat) : Bool := t != 0 && (s.coreAt k).st != .idle && (s.coreAt k).thread == t
  s.stages.any (fun e => e.2.inst && e.2.insts.any (fun x =>
    (x.2.core == k && x.2.taken && !here x.2.thread) || (x.2.core2 == k && x.2.taken2)))

/-- An instance that is yet to come to core k has it no longer: a slot write has given the core away (R350, R461). -/
def State.ungive (s : State) (k : Nat) : State :=
  { s with stages := s.stages.map (fun e => (e.1, { e.2 with insts := e.2.insts.map (fun y =>
      let x := y.2
      let x := if x.core == k && (s.coreAt k).st == .idle then { x with slotKept := none, tied := false } else x
      (y.1, if x.core2 == k then { x with slot2 := none, tied2 := false } else x)) })) }

/-- The slot of core k lets a stage of a partition take it (R378). -/
def State.lends (s : State) (part k : Nat) : Bool :=
  let c := s.slotOf k
  k / 64 < s.nclus && c.v && c.lend && c.part == part && (s.coreAt k).sel.isNone

/-- Cost for a stage of a core that R378 calls free: it holds no unit, nor is one about to come to it, or it holds one of lower
priority, whichever that is (R368, R378; log 93). -/
def State.stageCost (s : State) (prio k : Nat) : Option Nat :=
  let x := s.coreAt k
  if s.bespoke k then none
  else if x.st != .idle then if (s.unitAt x.thread).prio < prio then some 284 else none
  else s.placeCost k prio

/-- The governor's choice among free cores, by R368; without is a core that the unit may not go back to (R38). -/
def State.pickStageCore (s : State) (part prio : Nat) (without : Option Nat) : Option Nat :=
  (s.leastBy (s.boundCores.filter (fun k => s.lends part k && without != some (s.physCore k))) 0 (s.stageCost prio)).map (·.1)

/-- With no free core, a clone takes the core that a parked instance of another stage ran on (R385; DEDUCED, log 93). -/
def State.pickParked (s : State) (k part : Nat) : Option Nat :=
  let cores := s.stages.flatMap (fun e =>
    if e.1 != k && e.2.inst then (e.2.insts.filter (·.2.parked)).map (·.2.core) else [])
  (s.leastBy (cores.filter (fun c => s.lends part c && !s.bespoke c && (s.coreAt c).st != .idle)) 0 (fun _ => some 284)).map (·.1)

/-- Core k is on in a quadrant that is on (R440). -/
def State.awake (s : State) (k : Nat) : Bool :=
  !s.gated.contains (s.physCore k / 16) && !s.clusOff.contains (s.physCore k / 64)

/-- The governor's write that gives a slot back: refused when GEN has moved on, and not made with LEND clear (R349, R378). -/
def State.giveBack (s : State) (k gen : Nat) (o : Option Slot) : State :=
  let c := s.physCore k
  match o with
  | some v => if s.gens.get 0 c == gen && (s.slots.get slotBlank c).lend then s.putSlot c v else s
  | none => s

/-- GEN of the slot of core k. -/
def State.genOf (s : State) (k : Nat) : Nat := s.gens.get 0 (s.physCore k)

/-- The governor binds a core: its unit is pre-empted, a gated island is woken, MODE, STAGE, INST and ASID of its slot are
written; answers the old contents (R368, R378). -/
def State.takeCore (s : State) (k asid st i : Nat) : State × Slot :=
  let old := s.slotOf k
  let s := if (s.coreAt k).st == .idle then s.modCore k (fun c => { c with gated := false }) else s.pack k false
  let s : State := if s.awake k then s else { s with agenda := s.agenda ++ [.islandWake k] }
  (s.putSlot (s.physCore k) { old with mode := true, asid := asid, stage := st, inst := i }, old)

/-- Priority of a stage's units, clamped (R374). -/
def State.stagePrio (s : State) (part : Nat) (e : StageEnt) : Nat := (s.part part).clamp 127 e.prio

/-! ## ENQ and ENQW (R268, R269, R377) -/

/-- The entry that a key is routed to. -/
def State.routeKey (s : State) (krt key : Nat) : Option Nat :=
  (upto 16).find? (fun i => (s.krt krt i).routes && (s.krt krt i).holds key)

/-- The lane that a key enters (R377). -/
def State.laneFor (s : State) (krt i key : Nat) : Nat :=
  let k := s.krt krt i
  if (k.st == 4 || k.st == 6) && (s.krt krt k.twin).lo ≤ key then laneAt krt i 2 else laneAt krt i 0

/-- The registers of a record, from its first operand. -/
def recSrcs (b : Opd) : List SrcOp := (upto 8).map (fun i => (reqOpd b i, false))

/-- The stage is installed in the address space. -/
def State.installed (s : State) (asid st : Nat) : Bool := st < 256 && (s.stageAt (stageKey asid st)).inst

/-- The ENQW at which the acting context stands, issued before (R269). -/
def State.enqHeld (s : State) : Option EnqHold := s.cx.enq.filter (·.pc == s.cx.pc)
/-- It waits still, and no halt has come between. -/
def State.enqWaits (s : State) : Bool := match s.cx.wait with | .enqw _ _ _ => s.enqHeld.isSome | _ => false

/-- The ENQW at which a context waits, which the governor has not completed. -/
def Ctx.enqWait (c : Ctx) : Option EnqHold :=
  match c.wait with
  | .enqw _ _ _ => if c.live then c.enq.filter (fun h => !h.dead) else none
  | _ => none

/-- Another context of the acting thread has an earlier record for a stage, not yet in a lane (R269). -/
def State.enqBehind (s : State) (asid st at_ : Nat) : Bool :=
  s.un.ctxs.any (fun e => e.1 != s.ctx && e.2.enqWait.any (fun h => h.asid == asid && h.stage == st && h.at_ < at_))

/-- Some context waits in an ENQW of stage k that f holds of. -/
def State.enqWaiting (s : State) (k : Nat) (f : EnqHold → Bool) : Bool :=
  s.cores.any (fun e => e.2.st == .running && (s.unitAt e.2.thread).ctxs.any (fun c =>
    c.2.enqWait.any (fun h => stageKey h.asid h.stage == k && f h)))

/-- An ENQW was routed to the direct lane of instance i by a table that a split has changed since (R380). -/
def State.routedOld (s : State) (krt i : Nat) (h : EnqHold) : Bool :=
  h.lane == laneAt krt i 0 && !(s.krt krt i).holds (vat h.vals 0).v.toNat

/-- The record of an ENQW enters its lane; one that an old table routed stands ahead of the split marker (R380). -/
def State.enterLane (s : State) (h : EnqHold) : Option State :=
  let k := stageKey h.asid h.stage
  let krt := (s.stage h.asid h.stage).krt
  match s.pushLane h.lane h.vals with
  | none => none
  | some t =>
    some (if s.routedOld krt h.inst h then
      let n := (t.lane h.lane).count
      t.modStage k (fun r => { r with
        markers := r.markers.map (fun m => if m.1 == h.inst && m.2.1 == 0 then (h.inst, 0, n) else m) })
    else t)

/-- ENQ or ENQW completes with a status. -/
def State.enqDone (s : State) (srcs : List SrcOp) (d : Opd) (n : Nat) : State :=
  let s := (s.takeAll srcs).writeDst ⟨bv n, false⟩ d
  (s.setCx { s.cx with enq := none }).retire.drain s.core

/-- The record of a waiting ENQW enters its lane, when no earlier one of its thread waits for that stage and there is room for it
and for the status; otherwise the context waits on (R269). -/
def State.enqTry (s : State) (h : EnqHold) (srcs : List SrcOp) (d : Opd) : State :=
  let stay := s.waits (.enqw h.asid h.stage h.inst)
  let stay := stay.setCx { stay.cx with enq := some h }
  if !s.room srcs d || s.enqBehind h.asid h.stage h.at_ || !s.installed h.asid h.stage then stay
  else match s.enterLane h with
    | some t => t.enqDone srcs d 0
    | none => stay

/-- ENQ and ENQW: checks, read and routing are made at issue (R268, R269). -/
def enqueue (wait : Bool) (d : Opd) (a : Src) (b : Opd) (s : State) : Out :=
  let srcs : List SrcOp := (a.a, a.ta) :: recSrcs b
  let asid := s.un.asid
  if s.runs && s.enqHeld.any (·.dead) && s.room srcs d then .next (s.enqDone srcs d 2)
  else match (if s.runs && s.enqWaits then s.enqHeld else none) with
  | some h => .next (s.enqTry h srcs d)
  | none =>
    if s.runs && !s.room srcs d then .next (s.waits .link)
    else control s ⟨srcs, sx16 a.imm,
      fun vs =>
        let st := (vat vs 0).v.toNat
        firstExc [((vat vs 1).p, .consume (cz 0xA09) s.ip), s.ipTrap (!s.installed asid st) 0xD07,
          s.ipTrap (!s.routable asid st) 0xD11],
      fun t vs =>
        let st := (vat vs 0).v.toNat
        let key := (vat vs 1).v.toNat
        let krt := (t.stage asid st).krt
        match t.routeKey krt key with
        | none => t
        | some i =>
          let lane := t.laneFor krt i key
          if wait then s.enqTry ⟨s.cx.pc, asid, st, i, lane, s.clk, vs.drop 1, false⟩ srcs d
          else if s.enqBehind asid st s.clk then s.waits .hold
          else match s.pushLane lane (vs.drop 1) with
            | some t => t.enqDone srcs d 0
            | none => s.enqDone srcs d 1⟩

/-- ENQ. -/
def execEnq (d : Opd) (a : Src) (b : Opd) (s : State) : Out := enqueue false d a b s
/-- ENQW. -/
def execEnqw (d : Opd) (a : Src) (b : Opd) (s : State) : Out := enqueue true d a b s

/-! ## Routines (R379, R383, R456) -/

/-- Registers g8 to g15 of a context are emptied. -/
def Ctx.dropRecord (c : Ctx) : Ctx := (upto 8).foldl (fun c i => c.setReg (8 + i) (c.reg (8 + i)).take) c

/-- Instance i of stage k enters its split or merge routine, with a return point (R379 step 2, R383). -/
def State.enterRoutine (s : State) (k i : Nat) (ret : Word) : State :=
  let asid := k / 256
  let e := s.stage asid (k % 256)
  let me := s.krt e.krt i
  let x := s.inst k i
  let split := me.st == 2
  let j := if split then x.forTwin else me.twin
  let r := if split then me else s.krt e.krt j
  let vals := [x.off, e.xfer + 2 ^ e.lg * j, r.lo, r.hi]
  let s := s.modInst k i (fun x => { x with routine := if split then .split else .merge, ret := ret, deq := false })
  s.modCtx x.thread 0 (fun c =>
    let c := (vals.zip (upto 4)).foldl (fun c v => c.setReg (8 + v.2) ((c.reg (8 + v.2)).write ⟨bv v.1, false⟩)) c
    { c with pc := if split then e.split else e.merge, wait := .no, enq := none, assay := c.assay.disarm })

/-- The instance's next DEQ is to enter a routine. -/
def State.routineDue (s : State) (k i : Nat) : Bool :=
  let st := (s.krt (s.stage (k / 256) (k % 256)).krt i).st
  let x := s.inst k i
  (st == 2 || st == 6) && x.routine == .none && !x.delivered && !(s.unitAt x.thread).helpers && !(s.stageAt k).stopped

/-! ## DEQ, RECDONE, SPLITOK, MERGEOK (R270, R271) -/

/-- The instance whose control context acts. -/
def State.myInst (s : State) : Option (Nat × Nat) := if s.ctx = 0 then s.instOf s.th else none

/-- DEQ. -/
def execDeq (s : State) : Out :=
  control s ⟨[], 0,
    fun _ => firstExc [s.ipTrap (match s.myInst with | some (k, i) => (s.inst k i).delivered | none => true) 0xD0B],
    fun s _ => match s.myInst with
      | some (k, i) =>
        if s.routineDue k i then s.enterRoutine k i s.cx.pc
        else (s.modInst k i (fun x => { x with deq := true, deqPc := s.cx.pc })).retire
      | none => s⟩

/-- A doubleword of the record delivered to the acting instance is still on its way, and nothing has refused it. -/
def State.recLanding (s : State) : Bool := s.flight.any (fun l => l.gov && l.sthread == s.th && l.refusedAt.isNone)

/-- RECDONE; it waits for the record's landings, which the registers that it empties would take after it (DEDUCED, log 93). -/
def execRecdone (s : State) : Out :=
  control s ⟨[], 0,
    fun _ => firstExc [s.ipTrap (match s.myInst with | some (k, i) => !(s.inst k i).delivered | none => true) 0xD0B],
    fun s _ => match s.myInst with
      | some (k, i) =>
        if s.recLanding then s.waits .hold else (s.modInst k i (fun x => { x with delivered := false })).setCx s.cx.dropRecord |>.retire
      | none => s⟩

/-- The routine ends: registers emptied, pc at the return point, checker unarmed. -/
def State.leaveRoutine (s : State) (k i : Nat) : State :=
  let s := (s.setCx s.cx.dropRecord).retireTo (s.inst k i).ret
  (s.setCx { s.cx with assay := s.cx.assay.disarm }).modInst k i (fun x => { x with routine := .none, forTwin := 0 })

/-- What the unit of an instance has begun and not finished: accesses, and operations of its engines but for landings (R379,
R382). -/
def State.begun (s : State) (t : Nat) : List Nat :=
  (s.reqs.filter (fun r => r.chip == s.peer && r.thread == t && r.tag.isNone && r.phase != .performed)).map (·.id)
def State.begunOps (s : State) (t : Nat) : List (Nat × Nat) := ((s.thr t).ops.filter (·.k != .land)).map (fun o => (o.tl, o.no))

/-- SPLITOK: one event at the KRT (R348, R379); a stopped stage has abandoned its splits (R387). -/
def execSplitok (a : Src) (s : State) : Out :=
  control s ⟨[(a.a, a.ta)], sx16 a.imm,
    fun vs => firstExc [((vat vs 0).p, .consume (cz 0xA09) s.ip),
      s.ipTrap (match s.myInst with | some (k, i) => (s.inst k i).routine != .split | none => true) 0xD0D],
    fun s vs => match s.myInst with
      | some (k, i) =>
        let krt := (s.stage (k / 256) (k % 256)).krt
        let me := s.krt krt i
        let x := s.inst k i
        let j := x.forTwin
        let v := (vat vs 0).v.toNat
        let taken := (x.slot2, x.tied2, x.gen2)
        let stopped := (s.stageAt k).stopped
        let s := s.leaveRoutine k i
        if stopped then s
        else if me.lo < v && v < me.top then
          let s := s.setKrt krt i { me with hi := v, tv := true, twin := j, st := 1 }
          let s := s.setKrt krt j { hi := me.hi, lo := v, ring := laneAt krt j 0, thread := 0, key := 0, orig := i, twin := 0
                                    ov := true, tv := false, st := 3 }
          let n := (s.lane (laneAt krt i 0)).count
          let s := s.modStage k (fun r => { r with markers := r.markers ++ [(i, 0, n)] })
          let s := s.modInst k j (fun _ => { Inst.reset with
            core := x.core2, slotKept := taken.1, tied := taken.2.1, gen := taken.2.2
            after := s.begun x.thread, afterOps := s.begunOps x.thread })
          s.modInst k i (fun x => { x with slot2 := none, tied2 := false, core2 := 0 })
        else
          let s := (s.setKrt krt i { me with st := 1 }).giveBack x.core2 x.gen2 x.slot2
          s.modInst k i (fun x => { x with slot2 := none, tied2 := false, core2 := 0 })
      | none => s⟩

/-- MERGEOK: one event at the KRT (R348, R383); a stopped stage has abandoned its merges (R387). -/
def execMergeok (s : State) : Out :=
  control s ⟨[], 0,
    fun _ => firstExc [s.ipTrap (match s.myInst with | some (k, i) => (s.inst k i).routine != .merge | none => true) 0xD0D],
    fun s _ => match s.myInst with
      | some (k, i) =>
        let krt := (s.stage (k / 256) (k % 256)).krt
        let me := s.krt krt i
        let stopped := (s.stageAt k).stopped
        let s := s.leaveRoutine k i
        if stopped then s
        else
          let s := s.setKrt krt i { me with tv := false, twin := 0, st := 1 }
          let s := s.setKrt krt me.twin (.ofNat 0)
          s.modStage k (fun r => { r with insts := r.insts.del me.twin })
      | none => s⟩

/-! ## Copies by the governor (R462) -/

/-- A line of a governor's copy is at another chip. -/
def State.govBusy (s : State) (k i : Nat) : Bool :=
  s.reqs.any (fun r => r.thread == 0 && r.chip == s.peer && r.tag.isNone && r.coords == [k, i])

/-- The governor asks another chip for a line, or sends it one, for instance i of stage k. -/
def State.govSend (s : State) (k i : Nat) (kind : AKind) (va : Word) (line : List (Byte × Bool)) (peer : Nat) : State :=
  let r := { s.newReq kind va .d .plain with
    thread := 0, key := 0, ctx := 0, asid := k / 256, part := (s.stageAt k).part, core := (s.inst k i).core, line := line, coords := [k, i] }
  (s.pushReq r).sendReq r peer

/-- Where the state buffer of an instance lies: given by its arena before its unit has started (R376). -/
def State.stateOff (s : State) (k i : Nat) : Option Nat :=
  let x := s.inst k i
  let e := s.stage (k / 256) (k % 256)
  if x.thread != 0 then some x.off
  else (allocBlk (arenaFree (s.launchAt (inPart (s.stageAt k).part e.launch)).arena) e.lg).map (·.2)

/-- 64 bytes more of a copy have been moved. -/
def State.copied (s : State) (k i : Nat) : State := s.modInst k i (fun x => { x with pos := x.pos + 64 })

/-- A copy fails: the stage stops, with the address (R462). -/
def State.copyFails (s : State) (k i : Nat) (va : Word) : State := (s.stopStage k va).modInst k i (fun x => { x with pos := 0 })

/-- A line for the state buffer at off arrives. -/
def State.lineIn (s : State) (k i off : Nat) (l : List (Byte × Bool)) : State :=
  let x := s.inst k i
  let s := s.modCore x.core (·.forPart (s.stageAt k).part)
  (s.setLs x.core ((s.lsOf x.core).writeRun (off + x.pos) l)).copied k i

/-- At most n lines of a governor's copy between a transfer slot and a state buffer at off, as an engine would move them (R249,
R462): out to the slot, or in. It pauses at a line of another chip, and at a further page that the host is to translate. -/
def State.copyLines (s : State) (k i off slot : Nat) (out : Bool) (ans : HostAns) (first : Bool) : Nat → State
  | 0 => s
  | n + 1 =>
    let x := s.inst k i
    let asid := k / 256
    let part := (s.stageAt k).part
    let va := bv (slot + x.pos)
    if !first && s.untold asid va.toNat then s
    else
      let l := (s.lsOf x.core).runAt (off + x.pos) 64
      let go (b : Bulk) : State := if out then (s.bulkWrite asid part va l b).copied k i
        else let r := s.bulkRead asid part va 64 true b; r.1.lineIn k i off r.2
      let s := s.sigWalk asid va.toNat
      match s.bulkAt part asid va out ans with
      | .fail _ => (s.logWalk part asid va.toNat).copyFails k i va
      | .remote p => if out then s.govSend k i .wrLine va l p else s.govSend k i .rdLine va [] p
      | .dev t pa => (go (.dev t pa)).copyLines k i off slot out ans false n
      | .host t pa => (go (.host t pa)).copyLines k i off slot out ans false n

/-! ## Instance units (R376, R378) -/

/-- The unit of instance i starts on the core that the governor took, under thread t; its state buffer is at its offset. -/
def State.startInstance (s : State) (k i t : Nat) : State :=
  let asid := k / 256
  let e := s.stage asid (k % 256)
  let r := s.stageAt k
  let x := s.inst k i
  let l := s.launchAt (inPart r.part e.launch)
  match allocBlk (arenaFree l.arena) e.lg with
  | none => s.stopStage k 0
  | some a =>
    let reg (n v : Nat) (c : Ctx) : Ctx := c.setReg n { GReg.empty with v := bv v, f := true }
    let c := reg 1 a.2 (reg 2 (k % 256) (reg 3 i { Ctx.reset with live := true, pc := e.handler }))
    let prio := s.stagePrio r.part e
    let s := s.setLaunch (inPart r.part e.launch) { l with count := l.count + 1 }
    let s := s.startUnit x.core t asid r.part e.launch 0 prio 0 c
    let s := s.modUnit t (fun u => { u with alloc := a.1 })
    let s := s.setKrt e.krt i { s.krt e.krt i with thread := t, key := (s.thr t).key }
    s.modInst k i (fun x => { x with thread := t, off := a.2 })

/-- INSTANCE_START: instance 0 of an installed stage gets a core, and starts once that core is idle. -/
def execInstanceStart (asid stage inst thread : Nat) (s : State) : Out :=
  let k := stageKey asid stage
  let r := s.stageAt k
  let e := s.stage asid stage
  let x := s.inst k inst
  let me := s.krt e.krt inst
  if !r.inst || r.stopped || x.thread != 0 || me.ov || me.st != 1 || (s.part r.part).inReset then .next s
  else if !x.taken then match s.pickStageCore r.part (s.stagePrio r.part e) none with
    | none => .next s
    | some c =>
      let o := s.takeCore c asid stage inst
      .next (o.1.modInst k inst (fun x => { x with core := c, slotKept := some o.2, gen := o.1.genOf c }))
  else if (s.coreAt x.core).st != .idle || !s.awake x.core || !s.threadFree thread then .next s
  else
    let s := s.startInstance k inst thread
    .next (if (s.stageAt k).stopped then s else s.setLs x.core ((s.lsOf x.core).clear (s.inst k inst).off (2 ^ e.lg)))

/-- TWIN_START: the transfer slot is copied, and the twin's unit starts (R379 step 6); the copy stands after every access of the
split routine. -/
def execTwinStart (asid stage inst : Nat) (q : Nat × HostAns) (s : State) : Out :=
  let thread := q.1
  let ans := q.2
  let k := stageKey asid stage
  let r := s.stageAt k
  let e := s.stage asid stage
  let x := s.inst k inst
  let me := s.krt e.krt inst
  let o := (s.inst k me.orig).thread
  let late := (s.begun o).any x.after.contains || (s.begunOps o).any x.afterOps.contains
  if !r.inst || r.stopped || x.thread != 0 || !me.ov || me.st != 3 || (s.part r.part).inReset then .next s
  else if !x.taken then match s.pickStageCore r.part (s.stagePrio r.part e) none with
    | none => .next s
    | some c =>
      let o := s.takeCore c asid stage inst
      .next (o.1.modInst k inst (fun x => { x with core := c, slotKept := some o.2, gen := o.1.genOf c }))
  else if (s.coreAt x.core).st != .idle || !s.awake x.core || late || s.govBusy k inst || !s.threadFree thread then .next s
  else match s.stateOff k inst with
    | none => .next (s.stopStage k 0)
    | some off =>
      let s := s.copyLines k inst off (e.xfer + 2 ^ e.lg * inst) false ans true ((2 ^ e.lg - x.pos) / 64)
      .next (if (s.stageAt k).stopped || (s.inst k inst).pos < 2 ^ e.lg then s
        else (s.startInstance k inst thread).modInst k inst (fun x => { x with pos := 0, after := [], afterOps := [] }))

/-- Answer a stage command (R375). -/
def State.stageDone (s : State) (p status : Nat) : State :=
  s.modPart p (fun e => { e with stBusy := false, stStatus := status, stCmd := none })

/-- STAGE_INSTALL: also answers a command whose OP is neither install nor uninstall. -/
def execStageInstall (part : Nat) (s : State) : Out :=
  match (s.part part).stCmd with
  | none => .next s
  | some v =>
    let op := fieldOf v.toNat 62 2
    let st := fieldOf v.toNat 16 8
    let asid := fieldOf v.toNat 0 16
    let k := stageKey asid st
    if s.boot.away || op = 2 then .next s
    else if op != 1 || !(s.asValid asid && s.asPart asid == part) then .next (s.stageDone part 4)
    else if (s.stageAt k).inst then .next (s.stageDone part 2)
    else
      let s := s.vcome none asid (s.stageVa asid st) 64
      match s.stageEnt asid st with
      | none => .next (s.stageDone part 1)
      | some n =>
        let e := StageEnt.ofNat n
        let lanes := (upto 48).all (fun m => laneOk (s.mem.read (laneAt e.krt (m / 3) (m % 3)) 64))
        if !stageEntOk n || s.krtPoison e.krt || s.mem.read e.krt 512 != 0 || !lanes then .next (s.stageDone part 1)
        else
          let s := s.setKrt e.krt 0 { Krt.ofNat 0 with st := 1, ring := laneAt e.krt 0 0 }
          let s := s.vwrite asid (s.stageVa asid st) 64 (setField n 319 1 1) false
          let s := s.modStage k (fun _ => { StageRt.reset with inst := true, part := part })
          .next (s.stageDone part 0)

/-- An instance's unit ends as UEXIT would; its core goes back. -/
def State.endInstance (s : State) (k i : Nat) : State :=
  let x := s.inst k i
  let s := s.modStage k (fun r => { r with insts := r.insts.del i })
  let s := if x.thread = 0 then s else s.exitUnit x.thread
  (s.giveBack x.core x.gen x.slotKept).giveBack x.core2 x.gen2 x.slot2

/-- STAGE_UNINSTALL. -/
def execStageUninstall (part : Nat) (s : State) : Out :=
  match (s.part part).stCmd with
  | none => .next s
  | some v =>
    let st := fieldOf v.toNat 16 8
    let asid := fieldOf v.toNat 0 16
    let k := stageKey asid st
    if s.boot.away || fieldOf v.toNat 62 2 != 2 then .next s
    else if !(s.asValid asid && s.asPart asid == part) then .next (s.stageDone part 4)
    else if !(s.stageAt k).inst then .next (s.stageDone part 2)
    else
      let krt := (s.stage asid st).krt
      let busy := (s.krts krt).any (fun x => 2 ≤ x.st && x.st ≤ 6) ||
        (upto 48).any (fun m => (s.lane (laneAt krt (m / 3) (m % 3))).count != 0)
      if busy && !(s.stageAt k).stopped then .next (s.stageDone part 3)
      else
        let s := ((s.stageAt k).insts.map (·.1)).foldl (fun s i => s.endInstance k i) s
        let s := s.modStage k (fun _ => .reset)
        let s := match s.stageEnt asid st with
          | some n => s.vwrite asid (s.stageVa asid st) 64 (setField n 319 1 0) false
          | none => s
        .next (s.stageDone part 0)

/-! ## Delivery (R270, R371, R377, R380) -/

/-- BRIM_MOVE. -/
def execBrimMove (asid stage inst lane : Nat) (s : State) : Out :=
  if (s.stageAt (stageKey asid stage)).inst && lane < 3 && inst < 16 then
    .next (s.brimMove (laneAt (s.stage asid stage).krt inst lane)) else .next s

/-- Eight landings into g8 to g15 of an instance's control context. -/
def State.deliver (s : State) (k i : Nat) (r : List Val) : State :=
  let x := s.inst k i
  let e := s.thr x.thread
  let land (n : Nat) (v : Val) : Landing :=
    { schip := s.peer, sthread := x.thread, skey := e.key, sctx := 0, sasid := e.asid, spart := e.part
      mra := handle s.peer x.thread e.key ||| bv (32 * n), val := v, tl := none, urj := false, refusedAt := none, via := none
      bounces := 0, own := false, tag := none, gov := true }
  let s := (r.zip (upto 8)).foldl (fun s v => s.sendLanding (land (8 + v.2) v.1)) s
  s.modInst k i (fun x => { x with deq := false, delivered := true })

/-- The instance's unit is on its core and runs. -/
def State.instRuns (s : State) (k i : Nat) : Bool :=
  let x := s.inst k i
  x.thread != 0 && (s.thr x.thread).st == .resident && (s.coreAt (s.thr x.thread).loc).st == .running

/-- What an outstanding DEQ meets in its lanes: a forward move that waits for room is `full`. -/
inductive Take where
  | nothing
  | deliver (lane : Nat)
  | forward (full : Bool)
  | markerOut             -- the marker moves to the twin's forward lane
  | markerIn              -- the twin has reached its marker
deriving DecidableEq, Repr

def State.takeNext (s : State) (k i : Nat) : Take :=
  let krt := (s.stage (k / 256) (k % 256)).krt
  let me := s.krt krt i
  let r := s.stageAt k
  let has (l : Nat) : Bool := (s.lane (laneAt krt i l)).fcnt != 0
  if me.st = 3 then
    if r.marker i 1 == some 0 then .markerIn else if has 1 then .deliver 1 else .nothing
  else if me.st = 1 && (s.lane (laneAt krt i 2)).count != 0 then if has 2 then .deliver 2 else .nothing
  else match r.marker i 0 with
    | none => if has 0 then .deliver 0 else .nothing
    | some 0 =>
      if !s.enqWaiting k (s.routedOld krt i) then .markerOut else if has 0 then .deliver 0 else .nothing
    | some _ => match s.headOf (laneAt krt i 0) with
      | none => .nothing
      | some rec => if (s.krt krt me.twin).holds (vat rec 0).v.toNat then .forward (s.lane (laneAt krt me.twin 1)).full
        else .deliver 0

/-- RECORD_DELIVERY: one move of an outstanding DEQ. -/
def execRecordDelivery (asid stage inst : Nat) (s : State) : Out :=
  let k := stageKey asid stage
  let r := s.stageAt k
  let krt := (s.stage asid stage).krt
  let x := s.inst k inst
  let me := s.krt krt inst
  if !r.inst || r.stopped || !x.deq || x.parked || x.routine != .none || !s.instRuns k inst then .next s
  else match s.takeNext k inst with
    | .nothing => .next s
    | .deliver l => match s.headOf (laneAt krt inst l) with
      | some rec => .next ((s.popLane k krt inst l).deliver k inst rec)
      | none => .next s
    | .forward _ => match s.headOf (laneAt krt inst 0) with
      | some rec => match s.pushLane (laneAt krt me.twin 1) rec with
        | some s => .next (s.popLane k krt inst 0)
        | none => .next s
      | none => .next s
    | .markerOut =>
      let n := (s.lane (laneAt krt me.twin 1)).count
      .next (s.modStage k (fun r => let r := r.dropMarker inst 0; { r with markers := r.markers ++ [(me.twin, 1, n)] }))
    | .markerIn => .next ((s.setKrt krt inst { me with st := 1 }).modStage k (·.dropMarker inst 1))

/-- The control context waits at an instruction boundary, with a DEQ outstanding and no record taken for it. -/
def State.withdrawable (s : State) (k i : Nat) : Bool :=
  let x := s.inst k i
  let c := (s.unitAt x.thread).ctxAt 0
  x.deq && s.instRuns k i && c.wait != .no && c.busy == .no

/-- SPLIT_ROUTINE_ENTRY: the outstanding DEQ is withdrawn (R379, R456). -/
def execSplitRoutineEntry (asid stage inst : Nat) (s : State) : Out :=
  let k := stageKey asid stage
  if s.routineDue k inst && s.withdrawable k inst && (s.krt (s.stage asid stage).krt inst).st == 2 then
    .next (s.enterRoutine k inst (s.inst k inst).deqPc) else .next s

/-- MERGE_ROUTINE_ENTRY (R383, R456). -/
def execMergeRoutineEntry (asid stage inst : Nat) (s : State) : Out :=
  let k := stageKey asid stage
  if s.routineDue k inst && s.withdrawable k inst && (s.krt (s.stage asid stage).krt inst).st == 6 then
    .next (s.enterRoutine k inst (s.inst k inst).deqPc) else .next s

/-- Instance i of a stage is quiescent: its lanes are empty and no ENQW waits for one, its DEQ is outstanding, no helper is live, and
nothing that its unit has begun is unfinished (R382). -/
def State.quiescent (s : State) (k i : Nat) : Bool :=
  let x := s.inst k i
  let t := x.thread
  let u := s.unitAt t
  !s.enqWaiting k (·.inst == i) &&
  (upto 3).all (fun l => (s.lane (laneAt (s.stage (k / 256) (k % 256)).krt i l)).count == 0) && !x.delivered && x.deq &&
  s.instRuns k i && (u.ctxAt 0).busy == .no && !u.helpers && u.vq.isEmpty && u.mq.isEmpty && (s.begun t).isEmpty && (s.begunOps t).isEmpty

/-- The governor is copying from or to the unit of thread t: the unit issues nothing (R382, R462). -/
def State.midCopy (s : State) (t : Nat) : Bool :=
  match s.instOf t with
  | some (k, i) => (s.inst k i).pos != 0 || s.govBusy k i
  | none => false

/-- TWIN_QUIESCE (R382). -/
def execTwinQuiesce (asid stage : Nat) (q : Nat × HostAns) (s : State) : Out :=
  let inst := q.1
  let ans := q.2
  let k := stageKey asid stage
  let r := s.stageAt k
  let e := s.stage asid stage
  let x := s.inst k inst
  let me := s.krt e.krt inst
  if !r.inst || r.stopped || me.st != 5 || !s.quiescent k inst || s.govBusy k inst then .next s
  else
    let s := s.copyLines k inst x.off (e.xfer + 2 ^ e.lg * inst) true ans true ((2 ^ e.lg - x.pos) / 64)
    .next (if (s.stageAt k).stopped || (s.inst k inst).pos < 2 ^ e.lg then s
      else (s.endInstance k inst).setKrt e.krt me.orig { s.krt e.krt me.orig with st := 6 })

/-! ## Sampling (R378 to R387) -/

/-- Occupancy of an instance. -/
def State.occupancy (s : State) (krt i : Nat) : Nat :=
  ((upto 3).map (fun l => (s.lane (laneAt krt i l)).count)).foldl (· + ·) 0

/-- One instance's counts at a sample. -/
def State.sampleInst (s : State) (k i : Nat) : State :=
  let e := s.stage (k / 256) (k % 256)
  let n := s.occupancy e.krt i
  let c := (s.unitAt (s.inst k i).thread).ctxAt 0
  let waits := c.wait == .reg && c.awaited.any (fun n => 8 ≤ n && n < 16)
  s.modInst k i (fun x => { x with
    up := if e.high < n then min 255 (x.up + 1) else 0
    down := if n < e.low then min 255 (x.down + 1) else 0
    quiet := if n = 0 && x.deq && waits then min 255 (x.quiet + 1) else 0 })

/-- CLONE_START for instance i, when it can start (R379): an entry reserved to another clone is in use (R348). A record that the
instance holds does not hold it off: its routine waits for the next DEQ (DEDUCED, log 93). -/
def State.tryClone (s : State) (k i : Nat) : Option State :=
  let r := s.stageAt k
  let e := s.stage (k / 256) (k % 256)
  let me := s.krt e.krt i
  let reserved := r.insts.filterMap (fun x => if x.2.taken2 then some x.2.forTwin else none)
  let used := (upto 16).filter (fun j => (s.krt e.krt j).st != 0 || reserved.contains j)
  if (s.inst k i).up < e.up || me.st != 1 || me.tv || e.maxi ≤ used.length || !s.instRuns k i then none
  else match (upto 16).find? (!used.contains ·),
    (match s.pickStageCore r.part (s.stagePrio r.part e) none with | some c => some c | none => s.pickParked k r.part) with
    | some j, some c =>
      let o := s.takeCore c (k / 256) (k % 256) j
      let s := o.1.setKrt e.krt i { me with st := 2 }
      some (s.modInst k i (fun x => { x with forTwin := j, core2 := c, slot2 := some o.2, gen2 := o.1.genOf c, up := 0, down := 0 }))
    | _, _ => none

/-- MERGE_START for twin j, when it can start (R381). -/
def State.tryMerge (s : State) (k j : Nat) : Option State :=
  let e := s.stage (k / 256) (k % 256)
  let t := s.krt e.krt j
  let o := s.krt e.krt t.orig
  if t.st != 1 || t.tv || !t.ov || o.st != 1 || !o.tv || o.twin != j || (s.inst k j).down < e.down ||
    (s.inst k t.orig).down < e.down || !s.instRuns k j || !s.instRuns k t.orig then none
  else
    let s := s.setKrt e.krt t.orig { o with hi := t.hi, st := 4 }
    let s := s.setKrt e.krt j { t with st := 5 }
    let zero (x : Inst) : Inst := { x with up := 0, down := 0 }
    some ((s.modInst k j zero).modInst k t.orig zero)

/-- The first of a list that can start. -/
def firstSome {α β : Type} (f : α → Option β) : List α → Option β
  | [] => none
  | a :: l => match f a with | some b => some b | none => firstSome f l

/-- INSTANCE_PARK (R385). -/
def State.tryPark (s : State) (k i : Nat) : State :=
  let e := s.stage (k / 256) (k % 256)
  let me := s.krt e.krt i
  let x := s.inst k i
  if me.st != 1 || x.quiet < e.down || !s.instRuns k i || x.routine != .none || x.parked || (s.coreAt x.core).halt.isSome then s
  else
    let s := s.askHalt x.core .park
    (s.giveBack x.core x.gen x.slotKept).modInst k i (fun x => { x with parked := true, slotKept := none, tied := false, quiet := 0 })

/-- INSTANCE_UNPARK: a core is taken for a saved instance (R385, R461). -/
def State.tryUnpark (s : State) (k i : Nat) : State :=
  let r := s.stageAt k
  let e := s.stage (k / 256) (k % 256)
  let x := s.inst k i
  if x.thread = 0 || (s.thr x.thread).st != .saved || x.taken ||
    (x.parked && s.occupancy e.krt i = 0 && !x.delivered) then s
  else match s.pickStageCore r.part (s.stagePrio r.part e) x.left with
    | none => s
    | some c =>
      let o := s.takeCore c (k / 256) (k % 256) i
      o.1.modInst k i (fun x => { x with core := c, slotKept := some o.2, gen := o.1.genOf c, parked := false, left := none })

/-- The instance that an instance's control context depends on (R386); an ENQW whose wait a halt has abandoned counts as waiting. -/
def State.dependsOn (s : State) (k i : Nat) : Option (Nat × Nat) :=
  let c := (s.unitAt (s.inst k i).thread).ctxAt 0
  match c.enq.filter (fun h => h.pc == c.pc && !h.dead) with
  | some h => some (stageKey h.asid h.stage, h.inst)
  | none => if (s.inst k i).deq && s.takeNext k i == .forward true then
      some (k, (s.krt (s.stage (k / 256) (k % 256)).krt i).twin) else none

/-- Following the dependences from an instance comes back to it. -/
def State.onCycle (s : State) (home : Nat × Nat) : Nat → Nat × Nat → Bool
  | 0, _ => false
  | n + 1, a => match s.dependsOn a.1 a.2 with
    | none => false
    | some b => b == home || s.onCycle home n b

/-- Every instance of every installed stage. -/
def State.allInsts (s : State) : List (Nat × Nat) :=
  s.stages.flatMap (fun e => if e.2.inst then (e.2.insts.filter (·.2.thread != 0)).map (fun x => (e.1, x.1)) else [])

/-- DEADLOCK_DETECT: every ENQW of a cycle is to complete with status 2. -/
def State.breakCycles (s : State) : State :=
  let l := s.allInsts
  (l.filter (fun a => s.onCycle a l.length a)).foldl (fun s a =>
    s.modCtx (s.inst a.1 a.2).thread 0 (fun c => { c with enq := c.enq.map (fun h => { h with dead := h.dead || h.pc == c.pc }) })) s

/-- A poisoned stage-table entry, or a poisoned KRT, that stops a stage is logged (R387, R404). -/
def State.logEntry (s : State) (asid stage part : Nat) : State :=
  if (s.stageAt (stageKey asid stage)).stopped then s
  else if s.vpoison asid (s.stageVa asid stage) 64 then s.logTable part 5
  else if s.krtPoison (s.stage asid stage).krt then s.logTable part 4
  else s

/-- GOVERNOR_SAMPLE. -/
def execGovernorSample (asid stage : Nat) (s : State) : Out :=
  let k := stageKey asid stage
  let r := s.stageAt k
  if !r.inst || r.stopped || r.bad then .next s
  else
    let s := s.vcome none asid (s.stageVa asid stage) 64
    match s.stageEnt asid stage with
    | none => .next ((s.logEntry asid stage r.part).stopStage k 0)
    | some n =>
      let e := StageEnt.ofNat n
      if s.krtPoison e.krt then .next ((s.logEntry asid stage r.part).stopStage k 0)
      else if !s.routable asid stage then .next (s.modStage k (fun r => { r with bad := true }))
      else
        let live := (upto 16).filter (fun i => (s.krt e.krt i).st != 0)
        let s := live.foldl (fun s i => s.sampleInst k i) s
        let s := match firstSome (s.tryClone k) live with
          | some s => s
          | none => (firstSome (s.tryMerge k) live).getD s
        let s := live.foldl (fun s i => s.tryPark k i) s
        let s := live.foldl (fun s i => s.tryUnpark k i) s
        .next s.breakCycles

/-- STAGE_STOP: an instance has been lost, or the stage's entry or KRT is poisoned (R387, R404). -/
def execStageStop (asid stage : Nat) (s : State) : Out :=
  let k := stageKey asid stage
  let r := s.stageAt k
  let lost := r.insts.any (fun x => x.2.thread != 0 && (s.thr x.2.thread).st == .closed)
  let bad := s.vpoison asid (s.stageVa asid stage) 64 || s.krtPoison (s.stage asid stage).krt
  .next (if r.inst && (lost || bad) then (s.logEntry asid stage r.part).stopStage k 0 else s)

end Sys2Proof.Machine
end

