-- ==== Sys2Proof/Machine/Preempt.lean ====
section
/-!
DEFINITION. Pre-emption, the context save area, restore, and the end of a unit (R21, R37 to R44, R53 to R55, R253, R267, R302,
R398, R408 to R412).
-/
namespace Sys2Proof.Machine

/-! ## Asking for a halt (R21, R38, R45, R48, R55, R367) -/

/-- PREEMPT_REQUEST; for priority only where the placement of a record picks the core (R367, R368). -/
def execPreemptRequest (core : Nat) (why : HaltWhy) (s : State) : Out :=
  let c := s.coreAt core
  let ok := match why with
    | .priority => s.recs.any (fun r => s.placement r == some (core, 284))
    | .slice => false
    | .spin => false
    | .packing => !s.boot.away
    | .remap => !s.boot.away
    | .reset => (s.part (s.unitAt c.thread).part).inReset
    | .cancel => (s.launchAt (inPart (s.unitAt c.thread).part (s.unitAt c.thread).launch)).canc
    | .park => false
    | .trapLost => false
    | .rollback => false
  let s' := if why = .packing then s.pack core true else s.preempt core why
  let s' : State := if why = .priority then { s' with recs := s'.recs.map (fun (r : Rec) =>
    if s.placement r == some (core, 284) then { r with placed := some core } else r) } else s'
  .next (if c.st == .running && c.halt.isNone && ok then s' else s)

/-- TIME_SLICE_EXPIRY: the unit is saved only for a candidate of equal or higher priority. -/
def execTimeSliceExpiry (core : Nat) (s : State) : Out :=
  let c := s.coreAt core
  let u := s.unitAt c.thread
  let late := u.bindClk + 2 ^ (s.part u.part).slice ≤ s.clk
  .next (if c.st == .running && c.halt.isNone && late && s.recs.any (fun r => s.candidate core r && u.prio ≤ r.level) then
    s.preempt core .slice else s)

/-- The access is one that R55 counts: a load that waits for its word to be full. -/
def Req.spins (r : Req) : Bool := (r.sm == .rf || r.sm == .tk) && r.phase != .performed && r.phase != .issued

/-- A context waits as R55 counts it, since a clk: on an empty register, for a record frame (R361), in IDLE (R302), on its read-when-full
or take-mode access, or spinning on memory; no wait is older than the unit's stay on its core. -/
def State.spinSince (s : State) (t c : Nat) : Option Nat :=
  let x := (s.unitAt t).ctxAt c
  let held := s.reqs.any (fun r => r.thread == t && r.ctx == c && r.tag.isNone && s.alive r && r.spins)
  let shadow := match x.busy with | .shadow _ => true | .no => false | .access _ => false | .vector => false | .matrix => false
  if x.wait = .reg || x.wait = .frame || x.wait = .frameDue || x.wait = .idle || (held && (shadow || x.wait = .hold)) then
    some (max x.waitSince (s.unitAt t).bindClk)
  else if 16 ≤ x.spin.n then some x.spin.since
  else none

/-- SPIN_DESCHEDULE. -/
def execSpinDeschedule (core : Nat) (s : State) : Out :=
  let c := s.coreAt core
  let u := s.unitAt c.thread
  let live := u.ctxs.filter (·.2.live)
  let late := live.all (fun e => match s.spinSince c.thread e.1 with
    | some t => t + 2 ^ (s.part u.part).spin ≤ s.clk
    | none => false)
  .next (if c.st == .running && c.halt.isNone && late && s.recs.any (s.candidate core) then s.preempt core .spin else s)

/-! ## Halt (R39, R40, R203, R207, R235) -/

/-- A matrix operation with TLE = 0 is recorded in its context (R235). -/
def Ctx.keepMat (c : Ctx) (j : MatJob) : Ctx :=
  if c.vres.kind = 0 || c.vres.addr == j.pc then { c with vres := ⟨2, j.pc, j.step, 0, .zero, [], j.seen⟩ } else c

/-- A job runs on its timeline. -/
def MatJob.tle (j : MatJob) : Bool := match matPlan j.i with | some p => p.t.tle | none => false

/-- A halt ends an IDLE, and abandons every other wait before issue (R39, R302). A run of loads is over with it: the unit's spin time
starts again when it resumes (R55, R310). -/
def Ctx.endWait (c : Ctx) : Ctx :=
  let c := c.noSpin
  if c.wait = .idle || c.wait = .woken then
    { c with pc := c.pc + 8, wait := .no, assay := c.assay.feed ((encode .idle).headD 0) }
  else { c with wait := .no }

/-- The unit as its contexts leave it at their stop points. -/
def UnitSt.stopped (u : UnitSt) : UnitSt :=
  let u := u.vq.foldl (fun u j => u.modCtx j.ctx (fun c => { (if j.started then c.keepVec j else c) with busy := .no })) u
  let u := u.mq.foldl (fun u j => if j.tle then u else u.modCtx j.ctx (fun c => { c.keepMat j with busy := .no })) u
  let u := u.ctxs.foldl (fun u e => if e.2.wait = .idle || e.2.wait = .woken then u.pm 1 e.2.priv else u) u
  { u with
    vq := [], ctxs := u.ctxs.map (fun e => (e.1, e.2.endWait)), arrived := false
    mq := (u.mq.filter (·.tle)).map (fun j => { j with bufA := [], bufB := [] }) }

/-- The unit of a gang that is rolling back halts for nothing else until its registers are restored (R401). -/
def State.rolling (s : State) (t : Nat) : Bool := (s.launchAt (inPart (s.thr t).part (s.thr t).launch)).rolling

/-- UNIT_HALT, once a chunk in the SFU queue has been performed, and every fetch or decode cause at a boundary has been taken
(R39, R219, R398). -/
def execUnitHalt (core : Nat) (s : State) : Out :=
  let c := s.coreAt core
  if c.st != .running || c.halt.isNone || s.rolling c.thread || s.chunkQueued core c.thread ||
    (upto 11).any (s.boundaryStop core) then .next s
  else
    let s := s.modUnit c.thread (·.stopped)
    let s : State := { s with reqs := s.reqs.filter (fun r => !(r.k == .rdMat && r.thread == c.thread && r.tag == none)) }
    .next (s.modCore core (fun c => { c with st := .halted }))

/-- UNIT_DISCARD (R42, R253). -/
def execUnitDiscard (core : Nat) (s : State) : Out :=
  let c := s.coreAt core
  if c.st == .idle || c.st == .running then .next s
  else if c.halt == some .cancel then .next (s.discard c.thread 8)
  else if c.halt == some .reset then .next (s.discard c.thread 7)
  else .next s

/-! ## Save (R37, R41, R43) -/

/-- A free CSA of a partition's pool; a gang unit keeps its own from its first GBAR on (R51). -/
def State.freeCsa (s : State) (p : Nat) : Nat :=
  let used := s.threads.filterMap (fun e => if e.2.part == p && e.2.st != .closed && e.2.addr != 0 then some e.2.addr else none)
  (((upto (used.length + 1)).map (fun i => (s.part p).csaBase + 0x34000 * i)).find? (fun a => !used.contains a)).getD 0

/-- Offset of the state buffer of the unit of thread t, when it is a stage instance's (R376). -/
def State.bufAt (s : State) (t : Nat) : Option Nat := (s.instOf t).map (fun x => (s.inst x.1 x.2).off)

/-- A byte of the local store goes into the image: a valid descriptor covers it, it lies in the state buffer at o, or everything does
(R408; that a state buffer goes along is DEDUCED from R459, log 93). -/
def imaged (u : UnitSt) (o : Option Nat) (all : Bool) (a : Nat) : Bool :=
  all || u.bufs.any (fun e => e.2.meets a 1) || u.alloc.any (fun b => b.used && o == some b.off && b.off ≤ a && a < b.off + 2 ^ b.lg)

/-- The part of a local store that goes into the image. -/
def lsImage (m : PMem) (u : UnitSt) (o : Option Nat) (all : Bool) : PMem :=
  { m with
    bytes := m.bytes.filter (fun c => imaged u o all c.1), poison := m.poison.filter (fun g => imaged u o all (8 * g)), full := []
    hall := [] }

/-- A local-store image written at an address: each byte that belongs to it, a zero as well, and each granule's poison, a clean one as well
(R320, R408). -/
def PMem.putImage (m : PMem) (base : Nat) (ls : PMem) (has : Nat → Bool) : PMem :=
  let old (a : Nat) : Bool := base ≤ a && a < base + 0x30000 && has (a - base)
  { m with
    bytes := ls.bytes.foldl (fun b x => Memory.setByte b (base + x.1) x.2) (m.bytes.filter (fun c => !old c.1))
    poison := ls.poison.foldl (fun l g => setIns (base / 8 + g) l) (m.poison.filter (fun g => !old (8 * g))) }

/-- UNIT_SAVE: the entry becomes Being saved, and the CSA is written. -/
def execUnitSave (core : Nat) (s : State) : Out :=
  let c := s.coreAt core
  let t := c.thread
  let e := s.thr t
  if c.st != .halted || c.halt == some .cancel || c.halt == some .reset then .next s
  else
    let u := s.unitAt t
    let img := c.halt == some .remap
    let addr := if e.addr = 0 then s.freeCsa e.part else e.addr
    let ls := lsImage c.ls u (s.bufAt t) img
    let s := s.setThr t { e with
      st := .beingSaved, addr := addr, liveh := u.liveHelpers, img := img, lsImg := ls
      linkImg := if u.phased then c.links else [] }
    let s := s.putCsa addr (s.csaOf t)
    .next ({ s with mem := s.mem.putImage (addr + 0x4000) ls (imaged u (s.bufAt t) img) }.modCore core (fun c => { c with st := .saving }))

/-- One held landing enters a saved image: a register, which counts event 0x04 (R394), or the pending area; false when that is full
(R34, R37). -/
def State.landImage (s : State) (t : Nat) (l : Landing) : State × Bool :=
  let e := s.thr t
  let old := s.csaOf t
  let u := s.unitAt t
  match (if e.pend.any (·.sameReg l) then none else (u.ctxAt (mraCtx l.mra)).land (mraReg l.mra) l.val) with
  | some c => ((((s.setUnit t (u.setCtx (mraCtx l.mra) c)).pm t 4 c.priv).landed l).syncCsa t old, true)
  | none =>
    if e.pend.length < 32 then
      let s := (s.setThr t { e with pend := e.pend ++ [l] }).landed l
      (s.syncCsa t old, true)
    else (s, false)

/-- The entry of a saved unit in its bucket (R54, R362). Power packing keeps it from the core that it left, and a cluster remap ties it
to its own logical core (R38, R43). -/
def State.savedRec (s : State) (t core : Nat) (haltNo : Nat) (why : Option HaltWhy) : Rec :=
  let u := s.unitAt t
  { id := s.nextRec, part := u.part, asid := u.asid, launch := u.launch, k := .saved
    place := .bucket (s.sliceOf u.part u.asid u.aff.toNat), level := u.prio, enq := s.clk, frame := 0
    img := { RecImg.zero with aff := u.aff, uidx := u.uidx, prio := u.prio }, thread := t, key := u.key, next := 0
    haltNo := haltNo, spun := why == some .spin, notCore := if why == some .packing then some (s.physCore core) else none
    onCore := if why == some .remap then some core else none }

/-- SAVE_COMPLETE: held landings are merged, the entry becomes Saved, the core is free. -/
def execSaveComplete (core : Nat) (s : State) : Out :=
  let c := s.coreAt core
  let t := c.thread
  if c.st != .saving || c.halt == some .cancel || c.halt == some .reset then .next s
  else
    let s := s.modCore core (fun c => { c with
      st := .idle, thread := 0, lbuf := [], halt := none, links := [], gated := false, idleSince := s.clk })
    let s := s.modThr t (fun e => { e with st := .saved, from_ := s.physCore core })
    let s := c.lbuf.foldl (fun s l =>
      let r := s.landImage t l
      if r.2 then r.1 else { s with flight := s.flight ++ [{ l with refusedAt := some s.clk }] }) s
    match s.instOf t with
    | some _ => .next s
    | none => .next { s with recs := s.recs ++ [s.savedRec t core c.haltNo c.halt], nextRec := s.nextRec + 1 }

/-! ## Restore (R37, R44, R411) -/

/-- What poison at an offset of a CSA does. -/
inductive CsaHit where
  | unusable
  | none
  | reg (h n : Nat) | xreg (h k : Nat) | cnt (h : Nat) (second : Bool)
  | image (n : Nat) | ximage (k : Nat) | imageCnt (second : Bool)   -- of a gang's image of its control context
  | shape (k : Nat) | acc (i : Nat) | pmcnt (i : Nat) | queue (i : Nat) | pend (i : Nat)
deriving DecidableEq, Repr

/-- Inside a context block. -/
def csaBlockHit (h o : Nat) : CsaHit :=
  if o < 256 then .reg h (o / 8)
  else if 472 ≤ o && o < 536 then .xreg h ((o - 472) / 8)
  else if o = 424 then .cnt h false
  else if o = 432 then .cnt h true
  else .unusable

/-- The same of the gang image's block. -/
def CsaHit.ofImage : CsaHit → CsaHit
  | .reg _ n => .image n
  | .xreg _ k => .ximage k
  | .cnt _ b => .imageCnt b
  | h => h

/-- The granule at offset o of the CSA of a unit. -/
def csaHit (u : UnitSt) (npl o : Nat) : CsaHit :=
  let nq := u.queued.length
  if o < 0x80 then if 80 ≤ o && o < 112 then .pmcnt ((o - 80) / 8) else .unusable
  else if o < 0x300 then csaBlockHit 0 (o - 0x80)
  else if o < 0x440 then .shape ((o - 0x300) / 40)
  else if o < 0x1440 then .acc ((o - 0x440) / 4)
  else if o < 0x1600 then .unusable
  else if o < 0x2F00 then
    let h := (o - 0x1600) / 0x280 + 1
    if u.liveHelpers.contains h then csaBlockHit h ((o - 0x1600) % 0x280) else .none
  else if o < 0x2F40 then if u.mq.isEmpty then .none else .unusable
  else if o < 0x3000 then if u.phased && o < 0x2FC0 then .unusable else .none
  else if o < 0x3800 then if (o - 0x3000) / 8 < nq then .queue ((o - 0x3000) / 8) else .none
  else if o < 0x3840 then if nq = 0 then .none else .unusable
  else if o < 0x3A40 then
    let i := (o - 0x3840) / 16
    if i < npl then if o % 16 = 0 then .pend i else .unusable else .none
  else if 0x3A80 ≤ o && o < 0x3D00 && u.gang then (csaBlockHit 0 (o - 0x3A80)).ofImage
  else .none

/-- P of queue entry i of the unit, counted in register order. -/
def UnitSt.poisonQueued (u : UnitSt) (i : Nat) : UnitSt :=
  let r := u.ctxs.foldl (fun (x : Tab Ctx × Nat) e =>
    if !e.2.live then (x.1 ++ [e], x.2)
    else
      let g := e.2.g.foldl (fun (y : Tab GReg × Nat) r =>
        (y.1 ++ [(r.1, { r.2 with q := if y.2 ≤ i then modNth (fun v => { v with p := true }) (i - y.2) r.2.q else r.2.q })],
          y.2 + r.2.q.length)) ([], x.2)
      (x.1 ++ [(e.1, { e.2 with g := g.1 })], g.2)) ([], 0)
  { u with ctxs := r.1 }

/-- A register value, a shadow register and a pair of counters of a context block that was poisoned (R411). -/
def Ctx.poisonReg (c : Ctx) (n : Nat) : Ctx :=
  let r := c.g.get .empty n
  { c with g := c.g.set n { r with p := r.f && r.depth == 0 } }
def Ctx.poisonX (c : Ctx) (k : Nat) : Ctx := c.setX k { c.xreg k with p := true }
def Ctx.zeroCnt (c : Ctx) (second : Bool) : Ctx :=
  if second then { c with orph := 0, fmtv := 0 } else { c with subst := 0, hdrop := 0 }

/-- One poisoned granule of a usable CSA acts on the gang image. -/
def Ctx.imagePoison (c : Ctx) : CsaHit → Ctx
  | .image n => c.poisonReg n
  | .ximage k => c.poisonX k
  | .imageCnt b => c.zeroCnt b
  | _ => c

/-- One poisoned granule of a usable CSA acts on what is restored. -/
def UnitSt.csaPoison (u : UnitSt) : CsaHit → UnitSt
  | .reg h n => u.modCtx h (·.poisonReg n)
  | .xreg h k => u.modCtx h (·.poisonX k)
  | .cnt h b => u.modCtx h (·.zeroCnt b)
  | .image _ => u | .ximage _ => u | .imageCnt _ => u
  | .shape k => { u with shapes := u.shapes.set k { u.shapes.get .reset k with p := true } }
  | .acc i => { u with acc := (u.acc.set i { u.acc.get .zero i with p := true }).set (i + 1) { u.acc.get .zero (i + 1) with p := true } }
  | .pmcnt i => { u with pmcnt := u.pmcnt.set i 0 }
  | .queue i => u.poisonQueued i
  | .pend _ => u
  | .unusable => u
  | .none => u

/-- What the poison in a saved unit's CSA does. -/
def State.csaHits (s : State) (t : Nat) : List CsaHit :=
  let e := s.thr t
  let u := s.unitAt t
  (s.mem.poison.filter (fun g => e.addr ≤ 8 * g && 8 * g < e.addr + 0x4000)).map
    (fun g => csaHit u e.pend.length (8 * g - e.addr))

/-- A restore of thread t may begin on this core: selected, or taken by the governor. -/
def State.restoreDue (s : State) (core t : Nat) : Bool :=
  match s.instOf t with
  | some (k, i) => let x := s.inst k i; x.core == core && x.taken
  | none => match (s.coreAt core).sel.bind s.rec? with
    | some r => r.k == .saved && r.thread == t
    | none => false

/-- RESTORE_BEGIN: Resident on the physical core that the unit was saved from, and Moved on another, as after a remap (R43, R44, R345). -/
def execRestoreBegin (core thread : Nat) (s : State) : Out :=
  let e := s.thr thread
  let c := s.coreAt core
  if e.st != .saved || c.st != .idle || !s.restoreDue core thread || (s.part e.part).inReset then .next s
  else
    let hits := s.csaHits thread
    let lvl := ((c.sel.bind s.rec?).map (·.level)).getD (s.unitAt thread).prio
    let s : State := { s with recs := s.recs.filter (fun r => !(r.k == .saved && r.thread == thread)) }
    let s := s.modCore core (fun c => { c with sel := none, rsvFor := none })
    if hits.contains .unusable || s.csaReserved e.addr (s.unitAt thread) then
      let s := s.log e.part 3 (cz 0xD12) (bv e.addr) thread e.launch 1
      .next ((s.discardAlone thread).irq e.part 1)
    else
      let s := s.modUnit thread (fun u => { hits.foldl UnitSt.csaPoison u with prio := lvl })
      let base := e.addr + 0x4000
      let bad := s.mem.poison.filter (fun g => base ≤ 8 * g && 8 * g < base + 0x30000 &&
        imaged (s.unitAt thread) (s.bufAt thread) e.img (8 * g - base))
      let ls := { e.lsImg with poison := bad.map (· - base / 8) }
      let pend := (e.pend.zip (upto 32)).map (fun l =>
        if hits.contains (.pend l.2) then { l.1 with val := { l.1.val with p := true } } else l.1)
      let gimg := if e.gimg = [] then [] else [(0, hits.foldl Ctx.imagePoison (e.gimg.get .reset 0))]
      let e' := { e with
        lsImg := ls, pend := pend, gimg := gimg
        st := if e.from_ = s.physCore core then .resident else .moved, oldloc := e.loc, loc := core }
      let s := s.setThr thread e'
      .next (s.modCore core (fun c => { c.forPart e.part with
        st := .restoring, thread := thread, rsvd := pend.length, gated := false, halt := none, links := e.linkImg }))

/-- The image goes back over a local store. -/
def lsRestore (m img : PMem) (u : UnitSt) (o : Option Nat) (all : Bool) : PMem :=
  { m with
    bytes := img.bytes.foldl (fun b c => Memory.setByte b c.1 c.2) (m.bytes.filter (fun c => !imaged u o all c.1))
    poison := img.poison.foldl (fun l g => setIns g l) (m.poison.filter (fun g => !imaged u o all (8 * g))) }

/-- The logged granules of a local store, copied back (R401 step 4). -/
def restoreSnap (m : PMem) (log : Tab (List Byte × List Bool)) : PMem :=
  log.foldl (fun m e =>
    let a := 256 * e.1
    let m := { m with bytes := (e.2.1.foldl (fun (x : List Host.Cell × Nat) b => (Memory.setByte x.1 x.2 b, x.2 + 1))
      (m.bytes, a)).1 }
    (e.2.2.foldl (fun (x : PMem × Nat) p => (x.1.setPoison x.2 p, x.2 + 1)) (m, a / 8)).1) m

/-- RESTORE_COMPLETE: image, pending landings, counters, hold list; then the first instruction may issue. -/
def execRestoreComplete (core : Nat) (s : State) : Out :=
  let c := s.coreAt core
  let t := c.thread
  if c.st != .restoring || c.halt == some .cancel || c.halt == some .reset then .next s
  else
    let e := s.thr t
    let u := s.unitAt t
    let s := s.setThr t { e with
      st := .resident, addr := if u.gang then e.addr else 0, snap := if e.rbp then [] else e.snap, rbp := false, pend := []
      lsImg := .blank, linkImg := [], liveh := [], kept := [], hold := [], img := false }
    let s := s.modUnit t (fun u => { e.kept.foldl (fun u n => u.modCtx n.1 (·.bump n.2)) u with bindClk := s.clk })
    let s := s.modCore core (fun c => { c with
      st := .running, rsvd := 0, ls := (let m := lsRestore c.ls e.lsImg u (s.bufAt t) e.img; if e.rbp then restoreSnap m e.snap else m)
      lbuf := e.pend.map (fun l => { l with tl := none, tag := none })
        ++ c.lbuf })
    .next ({ s with flight := e.hold ++ s.flight }.drain core)

/-! ## The end of a unit (R267) -/

/-- UNIT_END_RELEASE: the thread number returns to the pool, then the launch counter falls. -/
def execUnitEndRelease (thread : Nat) (s : State) : Out :=
  let e := s.thr thread
  if e.st != .closed || !e.freed || !e.ops.isEmpty then .next s
  else
    let s := s.setThr thread { e with freed := false, counted := false }
    .next (if e.counted then s.launchDec e.part e.launch 1 else s)

end Sys2Proof.Machine
end

