-- ==== Sys2Proof/Machine/Gang.lean ====
section
/-!
DEFINITION. A gang's barrier and its rollback (R48 to R52, R254, R277, R400, R401).
-/
namespace Sys2Proof.Machine

/-- Threads of a launch's units that have not ended. -/
def State.gangLive (s : State) (l : Launch) : List Nat :=
  l.members.filter (fun t => (s.thr t).st != .closed && l.has t (s.thr t).key)

/-! ## The barrier (R49 to R51, R277) -/

/-- Every unit that has not ended waits at the GBAR, and what its superstep has had performed at once is performed, a load that waits
in a retry list among it (R307). -/
def State.gangArrived (s : State) (l : Launch) : Bool :=
  let live := s.gangLive l
  l.gang && !l.rolling && !live.isEmpty && live.all (fun t => (s.thr t).st == .resident && (s.coreAt (s.thr t).loc).st == .running &&
    (s.unitAt t).arrived && ((s.unitAt t).ctxAt 0).wait == .gbar && !s.threadOwes t)

/-- An access of a gang's superstep that is held to the GBAR, and a record. -/
def Req.heldBy (r : Req) (l : Launch) : Bool := r.phase == .heldGang && r.tag == none && l.has r.thread r.key
def Rec.heldBy (r : Rec) (l : Launch) : Bool := r.place == .held && l.has r.thread r.key

/-- The held effects of a gang are released; each access is performed in its turn (R49, R307). -/
def State.releaseGang (s : State) (l : Launch) : State :=
  let s : State := { s with
    reqs := s.reqs.map (fun r => if r.heldBy l then { r with phase := .released } else r)
    flight := s.flight.map (fun x => if x.gang == 1 && l.has (mraThread x.mra) (mraKey x.mra) then { x with gang := 2 } else x) }
  let s := l.members.foldl (fun s t => if l.has t (s.thr t).key then
    s.modThr t (fun e => { e with ops := e.ops.map (fun o => { o with heldGang := false }) }) else s) s
  (s.recs.filter (·.heldBy l)).foldl (fun s r =>
    let r := { r with thread := 0, key := 0, place := .bucket 0 }
    let r := { r with place := s.placeOf r }
    (s.dropRec r.id).toTail r) s

/-- A held effect of a gang waits for its GBAR. -/
def State.gangHolds (s : State) (l : Launch) : Bool :=
  s.reqs.any (·.heldBy l) || s.recs.any (·.heldBy l) ||
  l.members.any (fun t => l.has t (s.thr t).key && (s.thr t).ops.any (·.heldGang))

/-- A unit passes its GBAR: it retires, and its registers go to the gang image of its CSA (R51, R409). -/
def State.passGbar (s : State) (t : Nat) : State :=
  let e := s.thr t
  let c := (s.unitAt t).ctxAt 0
  let c := { c with pc := c.pc + 8, wait := .no, assay := c.assay.feed ((encode .gbar).headD 0) }
  let addr := if e.addr = 0 then s.freeCsa e.part else e.addr
  let s := (s.modUnit t (fun u => { u.setCtx 0 c with arrived := false })).pm t 1 c.priv
  (s.modThr t (fun e => { e with gimg := [(0, c)], snap := [], addr := addr })).putCsa addr (c.csa 0x3A80)

/-- GBAR_COMPLETE. When no unit of the gang is left, by its end or by a CANCEL, nothing more can arrive: what is still held completes by
the ordinary rules (R26, R277). -/
def execGbarComplete (launch : Nat) (s : State) : Out :=
  let l := s.launchAt launch
  if l.gang && !l.rolling && (s.gangLive l).isEmpty && s.gangHolds l then .next (s.releaseGang l)
  else if !s.gangArrived l then .next s
  else
    let s := s.releaseGang l
    let s := (s.gangLive l).foldl State.passGbar s
    .next (s.modLaunch launch (fun l => { l with rolls := 0 }))

/-! ## Rollback (R52, R400, R401) -/

/-- The context that a rollback leaves: the gang image, with the counters as they stand, the assay unarmed, and no resume state
(R207, R401). -/
def Ctx.rolledBack (img now : Ctx) : Ctx :=
  { img with
    subst := now.subst, hdrop := now.hdrop, orph := now.orph, fmtv := now.fmtv, assay := img.assay.disarm, vres := .none
    wait := .no, busy := .no, hold := false, taken := [], enq := none, spin := ⟨0, 0, 0⟩, invIss := now.invIss, invDone := now.invDone }

/-- A load of mode .rf at another chip may wait in a retry list there, which a rollback has it leave (R49, R401 step 2). -/
def Req.awayWaits (r : Req) : Bool :=
  r.sm == .rf && (r.k == .ld || r.near) && (match r.tgt with
    | .peer _ => true
    | .dev _ => false | .host _ => false | .mmio _ => false)

/-- An access of the superstep whose landing, or whose own effect in the unit, is still to come (R401 step 2). -/
def Req.toCome (r : Req) : Bool :=
  match r.phase with
  | .accepted => !r.awayWaits | .sent => !r.awayWaits
  | .performed => true | .released => true
  | .issued => false | .frozen => false | .heldGang => false | .listed => false | .refused => false

/-- What the gang's own accesses of the superstep produce has been written or held, its operations with local destinations are
complete, and what an earlier GBAR released has been performed (R401 step 2). -/
def State.gangDrained (s : State) (l : Launch) : Bool :=
  let mine (t : Nat) : Bool := l.has t (s.thr t).key
  !s.reqs.any (fun r => r.tag == none && mine r.thread && s.alive r && r.toCome) &&
  !s.flight.any (fun x => x.schip == s.peer && mine x.sthread && mine (mraThread x.mra) && x.gang != 1 && x.refusedAt.isNone) &&
  !s.cores.any (fun e => e.2.sfu.any (fun q => mine q.thread)) &&
  (s.gangLive l).all (fun t =>
    (!(s.thr t).ops.any (fun o => o.k.moves && !o.heldGang) && !(s.unitAt t).mq.any (·.tle)))

/-- An operation that a rollback discards: held to the GBAR, or a note that has not left. -/
def EngOp.discards (o : EngOp) : Bool := o.heldGang || (match o.k with
  | .note _ _ => !o.sent
  | .cpy _ _ _ _ _ => false | .gath _ _ _ _ _ _ _ => false | .scat _ _ _ _ _ _ _ => false
  | .coll _ _ _ _ _ _ _ _ _ => false | .flagf _ _ _ => false | .land => false | .mat => false)

/-- One unit of a gang goes back to its last GBAR (R401 steps 3 to 5). Of a unit that is away, the granules are copied back as it
resumes: RBP (R410). -/
def State.rollUnit (s : State) (t : Nat) : State :=
  let e := s.thr t
  if e.st == .closed then s else
  let here := e.st == .resident && (s.coreAt e.loc).st != .restoring
  let mine (l : Landing) : Bool := mraThread l.mra == t
  let gone (r : Req) : Bool := r.thread == t && r.key == e.key && r.chip == s.peer && r.tag == none && !r.toCome
  let lost := (s.coreAt e.loc).lbuf.filter mine ++
    s.flight.filter (fun x => mine x && x.schip == s.peer && x.sthread == t && x.refusedAt.isSome)
  let ended := s.reqs.filter (fun r => gone r && r.phase == .listed && r.lo.tle)
  let dropped := (s.recs.filter (fun r => r.place == .held && r.thread == t)).length
  let s := s.inCsa t (fun s =>
    (s.modUnit t (fun u => { u with
      ctxs := [(0, (e.gimg.get .reset 0).rolledBack (u.ctxAt 0))], vq := [], mq := [], arrived := false })).modThr t (fun e => { e with
        snap := if here then [] else e.snap, rbp := !here && !e.snap.isEmpty, pend := [], liveh := []
        notices := e.notices.filter (·.1 == 0) }))
  let s := s.modCore e.loc (fun c => if c.thread == t then
    { c with ls := if here then restoreSnap c.ls e.snap else c.ls, lbuf := c.lbuf.filter (!mine ·) } else c)
  let s : State := { s with
    reqs := s.reqs.filter (!gone ·), recs := s.recs.filter (fun r => !(r.place == .held && r.thread == t))
    flight := s.flight.filter (fun x => !(mine x && x.schip == s.peer && x.sthread == t && x.refusedAt.isSome)) }
  let s := if dropped = 0 then s else s.launchDec e.part e.launch dropped
  let s := lost.foldl State.rejectQuiet s
  let s := ended.foldl (fun s r => s.opEnd t r.lo.tl.toNat r.no 0 0 0) s
  ((s.thr t).ops.filter EngOp.discards).foldl (fun s o => s.opEnd t o.tl o.no 0 0 0) s

/-- GANG_ROLLBACK: the gang stops and its rollback counts, at most two in a superstep (R400); once all that its accesses produce has
come, it is back at its last GBAR (R401). -/
def execGangRollback (launch : Nat) (s : State) : Out :=
  let l := s.launchAt launch
  if !l.gang then .next s
  else if !l.rolling then
    .next (if l.rolls < 2 then (s.setLaunch launch { l with rolls := l.rolls + 1, rolling := true }).log
      (launch / 2 ^ 32) 6 0 0 0 (launch % 2 ^ 32) (l.rolls + 1) else s)
  else if !s.gangDrained l then .next s
  else .next (((s.gangLive l).foldl State.rollUnit s).modLaunch launch (fun l => { l with rolling := false }))

end Sys2Proof.Machine
end

