-- ==== Sys2Proof/Machine/Entry.lean ====
section
/-!
DEFINITION. What a fetch or a decode cause raises, trap and upcall entry as machine steps, and the arrival, retry and delivery
of notices (R94, R95, R166, R167, R290, R293 to R295, R302, R398).
-/
namespace Sys2Proof.Machine

/-- Raise what a fetch has found (R167). -/
def State.raiseFetch (s : State) (k : FetchCause) (pte : Nat) : State :=
  let pc := s.cx.pc
  let u := s.un
  let watch (pte : Option Nat) : Monitor := ⟨pte, u.part, u.asid, pc, s.peer, s.th, u.key, s.ctx, false⟩
  match k with
  | .notValid => { s with monitors := s.monitors ++ [watch (some pte)] }.syncUpcall s.th s.ctx (cz 0x501) pc pc
  | .hostNotPresent =>
    { s with monitors := s.monitors ++ [watch none] }.askHost u.part u.asid pc |>.syncUpcall s.th s.ctx (cz 0x601) pc pc
  | .entryInvalid => (s.logWalk u.part u.asid pc.toNat).trap (cz 0x506) pc pc
  | .noExecute => s.trap (cz 0x507) pc pc
  | .hostDenies => s.trap (cz 0x602) pc pc
  | .poisoned => s.trap (cz 0x007) pc pc

/-- FETCH_FAULT; for a page that the host has yet to translate, ans is its answer, and a translated page is held from then on
(R428). -/
def execFetchFault (q : FetchCause × HostAns) (s : State) : Out :=
  let k := q.1
  let ans := q.2
  if !s.runs then .fault .noContext
  else match s.fetchAt with
    | (s', .fault .hostNotPresent pte) =>
      .next (if !(k = .hostNotPresent || k = .hostDenies) then s
        else match ans with
          | .translated _ _ _ _ => s.keepHost s.un.asid s.cx.pc.toNat ans
          | .notPresent => s'.raiseFetch .hostNotPresent pte
          | .denied => s'.raiseFetch .hostDenies pte)
    | (s', .fault j pte) => .next (if k = j then s'.raiseFetch k pte else s)
    | _ => .next s

/-- DECODE_TRAP: the cause that the bytes at the pc give. -/
def execDecodeTrap (cause : Cause) (taddr : Word) (s : State) : Out :=
  if !s.runs then .fault .noContext
  else match s.fetchAt with
    | (s', .reject c a) => .next (if c = cause && a = taddr then s'.trap c s.cx.pc a else s)
    | _ => .next s

/-- TRAP_ENTRY (R290). -/
def execTrapEntry (cause : Cause) (tpc taddr : Word) (s : State) : Out :=
  if !s.runs then .fault .noContext else .next (s.trap cause tpc taddr)

/-- UPCALL_ENTRY (R295): entered where R294 allows it, and otherwise the same cause is a trap. -/
def execUpcallEntry (cause : Cause) (upc uarg : Word) (s : State) : Out :=
  if !s.runs then .fault .noContext else .next (s.syncUpcall s.th s.ctx cause upc uarg)

/-! ## Notices (R293, R294, R302) -/

/-- A notice's context lives: the control context of a unit that has not ended, or a live helper. -/
def State.noticeLive (s : State) (n : Notice) : Bool :=
  let e := s.thr n.thread
  e.st != .closed && e.key == n.key &&
    (n.ctx == 0 || (match e.st with
      | .resident => ((s.unitAt n.thread).ctxAt n.ctx).live
      | .beingSaved => ((s.unitAt n.thread).ctxAt n.ctx).live
      | .saved => e.liveh.contains n.ctx
      | .moved => e.liveh.contains n.ctx
      | .suspended => false
      | .closed => false))

/-- A notice meets its queue: discarded, queued, or refused. -/
def State.offerNotice (s : State) (i : Nat) (n : Notice) : State :=
  let e := s.thr n.thread
  let q := e.notices.get [] n.ctx
  if !s.noticeLive n then { s with notes := dropNth i s.notes }
  else if q.length < 8 then
    let s : State := { s with notes := dropNth i s.notes }
    let s := s.setThr n.thread { e with notices := e.notices.set n.ctx (q ++ [{ n with refusedAt := none }]) }
    if e.st == .resident then s.modCtx n.thread n.ctx Ctx.wake else s
  else { s with notes := modNth (fun n => { n with refusedAt := some s.clk }) i s.notes }

/-- NOTICE_ARRIVAL. -/
def execNoticeArrival (i : Nat) (s : State) : Out :=
  match s.notes[i]? with
  | none => .next s
  | some n => .next (if n.refusedAt.isNone then s.offerNotice i n else s)

/-- NOTICE_RETRY: every 64 clk. -/
def execNoticeRetry (i : Nat) (s : State) : Out :=
  match s.notes[i]? with
  | none => .next s
  | some n => match n.refusedAt with
    | some t => .next (if t + 64 ≤ s.clk then s.offerNotice i n else s)
    | none => .next s

/-- The oldest notice of a context can be delivered, the fetch at its boundary apart. -/
def State.noticeDue (s : State) (core ctx : Nat) : Option Notice :=
  let k := s.coreAt core
  let c := (s.unitAt k.thread).ctxAt ctx
  if k.st == .running && k.halt.isNone && c.live && c.upcallable && c.busy == .no && c.wait != .idle && c.wait != .woken then
    ((s.thr k.thread).notices.get [] ctx).head?
  else none

/-- Deliver a notice to the acting context (R293, R294, R295). -/
def State.deliverNotice (s : State) (n : Notice) : State :=
  let c := s.cx
  if !targetOk c.uvec then s.trap (cz 0x401) c.pc c.uvec
  else
    let s' := s.modThr s.th (fun e => { e with notices := e.notices.set s.ctx ((e.notices.get [] s.ctx).drop 1) })
    s'.upcallAt s.th s.ctx n.cause c.pc n.arg

/-- NOTICE_DELIVERY. -/
def execNoticeDelivery (core ctx : Nat) (s : State) : Out :=
  match s.noticeDue core ctx with
  | none => .next s
  | some n =>
    let t : State := { s with core := core, ctx := ctx }
    .next (if t.fetchAt.2.stops then s else t.deliverNotice n)

end Sys2Proof.Machine
end

