-- ==== Sys2Proof/Machine/Landing.lean ====
section
/-!
DEFINITION. Delivery of a landing: the order of one sender's landings, the resolution against the thread's entry, bounces
and retries, and the results of the SFU (R34 to R37, R49, R50, R131, R161, R177, R345).
-/
namespace Sys2Proof.Machine

/-! ## Order (R35) -/

/-- Two landings come from one sending thread and go to one register (R35, R183). -/
def Landing.rival (l m : Landing) : Bool :=
  l.schip == m.schip && l.sthread == m.sthread && l.skey == m.skey && l.sameReg m

/-- The landing that an access of this kind will send, when it sends one (R177, R183). -/
def Req.willLand (r : Req) (s : State) : Option Landing :=
  match r.k with
  | .ldl => some (r.landing s .zero)
  | .amol _ => some (r.landing s .zero)
  | .send => some (r.landing s .zero)
  | .st => none | .stc => none | .flag => none | .rdMat => none | .rdLine => none | .wrLine => none
  | .ld | .amo _ | .cas => match r.dst with
    | .g n => if r.tag == none && n != 0 then some { r.landing s .zero with mra := r.ownMra n.toNat } else none
    | .x _ => none | .link _ => none | .imm => none | .rsv _ => none

/-- The landing of an SFU request. -/
def SfuReq.landing (q : SfuReq) (s : State) : Landing :=
  let e := s.thr q.thread
  { schip := s.peer, sthread := q.thread, skey := q.key, sctx := q.ctx, sasid := e.asid, spart := e.part
    mra := handle s.peer q.thread q.key ||| BitVec.ofNat 64 (q.ctx * 1024 + q.reg * 32), val := ⟨BitVec.ofNat 64 q.code, q.a.p⟩
    tl := none, urj := false, refusedAt := none, via := none, bounces := 0, own := true, tag := none, seq := q.seq }

/-- Something that the sender issued earlier for the same register has not been written or rejected (R35). -/
def State.behind (s : State) (l : Landing) : Bool :=
  s.flight.any (fun m => m.seq < l.seq && l.rival m) ||
  (s.thr (mraThread l.mra)).hold.any (fun m => m.seq < l.seq && l.rival m) ||
  s.reqs.any (fun r => r.id < l.seq && (match r.willLand s with | some m => l.rival m | none => false)) ||
  (l.schip == s.peer && s.cores.any (fun e => e.2.sfu.any (fun q => !q.vec && q.seq < l.seq && l.rival (q.landing s))))

/-! ## Resolution (R34) -/

/-- The first two rows of R34: the value is rejected whatever the thread's core does. -/
def State.refuses (s : State) (l : Landing) : Bool :=
  let e := s.thr (mraThread l.mra)
  let c := mraCtx l.mra
  mraReg l.mra == 0 || 10 < c || l.sasid != e.asid || e.st == .closed || e.key != mraKey l.mra ||
  (c != 0 && (match e.st with
    | .resident => !((s.unitAt (mraThread l.mra)).ctxAt c).live
    | .beingSaved => !((s.unitAt (mraThread l.mra)).ctxAt c).live
    | .saved => !e.liveh.contains c
    | .moved => !e.liveh.contains c
    | .suspended => false
    | .closed => true))

/-- An event of the landing's target context is counted while its unit is on a core (R394). -/
def State.pmLand (s : State) (l : Landing) (ev : Nat) : State :=
  let t := mraThread l.mra
  if (s.unitAt t).pmctl = [] then s else s.inCsa t (fun s => s.pm t ev ((s.unitAt t).ctxAt (mraCtx l.mra)).priv)

/-- A landing that has been taken from its queue is refused: it waits 64 clk. -/
def State.refuse (s : State) (l : Landing) : State :=
  { s with flight := s.flight ++ [{ l with refusedAt := some s.clk, via := none }] }

/-- Hold a landing in a core's landing buffer while an entry that no restore reserves is free (R37); one held counts event 0x05,
one refused for a full buffer event 0x06 (R394). -/
def State.holdOn (s : State) (k : Nat) (l : Landing) : State :=
  let c := s.coreAt k
  if c.lbuf.length + c.rsvd < 32 then (s.setCore k { c with lbuf := c.lbuf ++ [l] }).pmLand l 5 else (s.refuse l).pmLand l 6

/-- The register that a landing names is open, and nothing older waits for it. -/
def State.openFor (s : State) (k : Nat) (l : Landing) : Bool :=
  let c := s.coreAt k
  !c.lbuf.any (·.sameReg l) && (((s.unitAt c.thread).ctxAt (mraCtx l.mra)).land (mraReg l.mra) l.val).isSome

/-- Resolve a landing that has been taken from its queue (R34). -/
def State.resolveLanding (s : State) (l : Landing) : State :=
  let t := mraThread l.mra
  let e := s.thr t
  if s.refuses l then s.reject l
  else match e.st with
    | .resident =>
      if (s.coreAt e.loc).st == .restoring then s.holdOn e.loc l
      else if s.openFor e.loc l then s.offer e.loc l
      else s.holdOn e.loc l
    | .beingSaved => s.holdOn e.loc l
    | .saved =>
      let r := s.landImage t l
      if r.2 then r.1 else s.refuse l
    | .suspended => match s.recs.find? (fun r => r.thread == t && r.k == .suspended) with
      | some r => s.landRec r l
      | none => s.refuse l
    | .moved =>
      if 2 ≤ l.bounces then
        if e.hold.length < 16 then s.setThr t { e with hold := e.hold ++ [{ l with via := none, refusedAt := none }] } else s.refuse l
      else s.holdOn e.loc l
    | .closed => s.reject l

/-- The core holds, saves or restores the landing's thread. -/
def State.atCore (s : State) (k : Nat) (l : Landing) : Bool :=
  (s.coreAt k).st != .idle && (s.coreAt k).thread == mraThread l.mra

/-- A landing from outside a gang into one of its units waits for the next superstep (R50). -/
def State.gangWaits (s : State) (l : Landing) : Bool :=
  let t := mraThread l.mra
  let g := s.launchAt (inPart (s.thr t).part (s.thr t).launch)
  !s.refuses l && g.gang && g.has t (mraKey l.mra) && l.gang != 2 && !(l.schip == s.peer && g.has l.sthread l.skey)

/-- One landing in flight moves on: to another chip, which answers this one, and by it the chip that asked for it, into its gang's
hold, to the core that a gateway's copy of a Resident entry names, or to its resolution (R34, R50, R132, R345, R422). -/
def State.moveLanding (s : State) (i : Nat) (l : Landing) : State :=
  let rest : State := { s with flight := dropNth i s.flight }
  if mraChip l.mra != s.peer then
    let lo : LandOpt := match l.tl with | some (tl, _) => ⟨l.urj, true, BitVec.ofNat 3 tl⟩ | none => ⟨l.urj, false, 0⟩
    let r : Req :=
      { id := l.seq, chip := l.schip, thread := l.sthread, key := l.skey, ctx := l.sctx, asid := l.sasid, part := l.spart
        core := if l.tag.isSome then 0 else l.core, pc := 0, k := .send, ea := 0, sz := .d, sm := .plain, dst := .g 0, mra := l.mra, lo := lo
        no := match l.tl with | some (_, no) => no | none => 0
        d := l.val, n := .zero, line := [], map := none, coords := [], phase := .accepted, tgt := .dev 0, et := false
        at_ := 0, res := .zero, sub := false, tag := l.tag, ir := 0, ptag := 0 }
    { rest with reqs := rest.reqs ++ [r] }.sendReq r (mraChip l.mra)
  else if s.gangWaits l then { s with flight := modNth (fun l => { l with gang := 1 }) i s.flight }
  else match l.via with
    | none =>
      if (s.thr (mraThread l.mra)).st == .resident && !s.refuses l then
        { s with flight := modNth (fun l => { l with via := some (s.thr (mraThread l.mra)).loc }) i s.flight }
      else rest.resolveLanding l
    | some k => if s.atCore k l then rest.resolveLanding l else s

/-- LANDING_DELIVERY. -/
def execLandingDelivery (i : Nat) (s : State) : Out :=
  match s.flight[i]? with
  | none => .next s
  | some l => .next (if l.refusedAt.isSome || s.behind l then s else s.moveLanding i l)

/-- LANDING_RETRY: every 64 clk. -/
def execLandingRetry (i : Nat) (s : State) : Out :=
  match s.flight[i]? with
  | none => .next s
  | some l => match l.refusedAt with
    | none => .next s
    | some t =>
      if s.clk < t + 64 || s.behind l then .next s
      else .next ({ s with flight := dropNth i s.flight }.resolveLanding { l with refusedAt := none })

/-- LANDING_BOUNCE: the core that a stale copy named sends the value back to the sender's gateway. -/
def execLandingBounce (i : Nat) (s : State) : Out :=
  match s.flight[i]? with
  | none => .next s
  | some l => match l.via with
    | none => .next s
    | some k =>
      if s.atCore k l then .next s
      else
        let moved := (s.thr (mraThread l.mra)).st == .moved
        let back (l : Landing) : Landing := { l with via := none, bounces := if moved then l.bounces + 1 else l.bounces }
        .next { s with flight := modNth back i s.flight }

/-! ## SFU results (R161) -/

/-- SFU_RESULT: the head of the queue completes; its value is a landing to the issuing context, and one chunk of a VSFU is written
to its elements while its unit is here (R161, R219). -/
def execSfuResult (core : Nat) (s : State) : Out :=
  match (s.coreAt core).sfu with
  | [] => .next s
  | q :: rest =>
    let l := q.landing s
    let s := s.modCore core (fun c => { c with sfu := rest })
    let t := (s.coreAt core).thread
    .next (if q.vec then if q.thread == t && q.key == (s.unitAt t).key then s.vecChunk core else s
      else if s.behind l then s.launchLanding l else s.resolveLanding l)

end Sys2Proof.Machine
end

