-- ==== Sys2Proof/Machine/Home.lean ====
section
/-!
DEFINITION. The stages of an access in flight as machine steps: acceptance, performing, the return of its value, retry lists,
failure at its home, the drain of a frozen map, and FLAGF's write (R175 to R178, R191, R192, R195, R306, R432).
-/
namespace Sys2Proof.Machine

/-- An LDL or an AMO.l whose value a peer will land waits here for the thread's earlier landings to that register (R35, R183). -/
def State.landsBehind (s : State) (r : Req) : Bool :=
  match r.k with
  | .ldl => s.behind (r.landing s .zero)
  | .amol _ => s.behind (r.landing s .zero)
  | .ld => false | .st => false | .stc => false | .amo _ => false | .cas => false | .flag => false | .send => false
  | .rdMat => false | .rdLine => false | .wrLine => false

/-- Its judgement sends it to a peer, and it must not go yet. -/
def State.mustWait (s : State) (r : Req) (ans : HostAns) : Bool :=
  (match s.judge r ans with
    | .remote _ => !(r.tag == none && (s.unitAt r.thread).gang)
    | .ok _ _ _ => false | .trap _ _ => false | .park _ _ => false | .consume => false) && s.landsBehind r

/-- ACCESS_ACCEPT: an issued access meets translation, for which its walk reads the entries it needs, and permission; ans is the host's
answer for a host page. -/
def execAccessAccept (i : Nat) (ans : HostAns) (s : State) : Out :=
  match s.req i with
  | none => .next s
  | some r =>
    if r.phase != .issued then .next s
    else
      let s := s.walkFor r
      .next (if s.mustWait r ans then s else s.acceptStep r ans)

/-- An access that is performed in this package. -/
def Req.here (r : Req) : Bool :=
  match r.tgt with
  | .peer _ => false
  | .dev _ => true | .host _ => true | .mmio _ => true

/-- What an access that a GBAR has released does in its turn: a landing leaves after every earlier access of its thread (R185), FLAGF
begins its wait, an access of another chip is sent, and any other is performed (R49, R307). -/
def State.releasedReq (s : State) (r : Req) : State :=
  match r.k, r.tgt with
  | .send, _ => if s.threadBefore r.thread r.id then s else s.performed r .zero false
  | .flag, _ => s.modReq r.id (fun q => { q with phase := .accepted })
  | _, .peer p => if s.peerSt p == .present && !s.landsBehind r then s.sendReq r p else s
  | _, .dev _ => s.performReq { r with phase := .accepted }
  | _, .host _ => s.performReq { r with phase := .accepted }
  | _, .mmio _ => s.performReq { r with phase := .accepted }

/-- ACCESS_PERFORM: each access in its turn among those of its context (R307). -/
def execAccessPerform (i : Nat) (s : State) : Out :=
  match s.req i with
  | none => .next s
  | some r =>
    .next (if s.earlier r then s
      else if r.phase == .released then s.releasedReq r
      else if r.phase == .accepted && r.here && r.k != .flag then s.performReq r else s)

/-- LOAD_DATA_RETURN: a landing of the issuing context, a shadow register, or nothing for g0 (R177). -/
def execLoadDataReturn (i : Nat) (s : State) : Out :=
  match s.req i with
  | none => .next s
  | some r =>
    if r.phase != .performed then .next s
    else match r.dst with
      | .g n =>
        let l := { r.landing s r.res with mra := r.ownMra n.toNat, tl := none, urj := false, own := true }
        if n = 0 then .next (s.dropReq i)
        else if s.behind l then .next s
        else .next ((s.dropReq i).resolveLanding l)
      | .x k =>
        let s := s.dropReq i
        .next (if s.alive r && ((s.unitAt r.thread).ctxAt r.ctx).busy == .shadow i then
          s.modCtx r.thread r.ctx (fun c => { c.setX k.toNat r.res with busy := .no }) else s)
      | .link _ => .next (s.dropReq i)
      | .imm => .next (s.dropReq i)
      | .rsv _ => .next (s.dropReq i)

/-- RETRY_LIST_WALK. -/
def execRetryListWalk (word : Nat) (s : State) : Out := .next (s.wordChanged word)

/-- REQUEST_RETRY: every 64 clk (R178). -/
def execRequestRetry (i : Nat) (s : State) : Out :=
  match s.req i with
  | none => .next s
  | some r =>
    if r.phase != .refused || s.clk < r.at_ + 64 then .next s
    else match r.tgt with
      | .peer p => .next (s.sendReq r p)
      | .dev _ => .next (s.performReq { r with phase := .accepted })
      | .host _ => .next (s.performReq { r with phase := .accepted })
      | .mmio _ => .next (s.performReq { r with phase := .accepted })

/-! ## Failure at the home (R192, R195, R415, R422, R432) -/

/-- The home chip of an accepted access (R192). -/
def State.homeChip (s : State) (r : Req) : Nat :=
  match r.tgt with
  | .peer p => p
  | .dev _ => s.peer | .host _ => s.peer | .mmio _ => s.peer

/-- FLAGF operations that cover a failed store keep its address, the first one of each; so does the unit, for those still to issue
(R192). -/
def State.coverFails (s : State) (r : Req) : State :=
  if !r.k.covered || r.tag.isSome then s
  else
    let home := s.homeChip r
    let s : State := { s with reqs := s.reqs.map (fun q =>
      if q.k == .flag && q.tag == none && q.thread == r.thread && q.key == r.key && r.id < q.id && s.homeChip q == home && !q.sub
      then { q with sub := true, res := ⟨r.ea, false⟩ } else q) }
    if !s.alive r || (s.thr r.thread).fails.any (·.1 == home) then s
    else s.modThr r.thread (fun e => { e with fails := e.fails.set home r.ea })

/-- The matrix operation that reads a granule ends with a status. -/
def State.matFails (s : State) (r : Req) (status : Nat) : State :=
  let core := (s.thr r.thread).loc
  match (s.unitAt r.thread).mq with
  | [] => s
  | j :: _ => match matPlan j.i with
    | some p => if s.alive r && j.no == r.no then s.matDone core r.thread j p status r.ea else s
    | none => s

/-- The instance of a stage whose governor's copy makes the access (R462). -/
def Req.govOf (r : Req) : Option (Nat × Nat) :=
  match r.coords with
  | [k, i] => if r.k.lines && r.thread == 0 then some (k, i) else none
  | _ => none

/-- An engine's or a matrix operation's access to another chip ends its operation with a status (R422); one of a governor's copy
stops its stage (R462). -/
def State.engFails (s : State) (r : Req) (status : Nat) : State :=
  let s := s.dropReq r.id
  if r.k == .rdMat then s.matFails r status
  else match r.govOf with
    | some (k, i) => if (s.stageAt k).inst then s.copyFails k i r.ea else s
    | none => if (s.thr r.thread).key == r.key then s.opDone r.thread r.lo.tl.toNat r.no status r.ea 0 else s

/-- An accepted access fails at its home (R195); of one that its home has already performed, only the landing fails, and UARG of its 802
is then the MRA (DESIGN CHOICE, log 82). -/
def State.failReq (s : State) (r : Req) : State :=
  let s := (s.release r).coverFails r
  let lost : Val := ⟨0, true⟩
  let told (s : State) (a : Word) : State := s.notify r.thread r.key r.ctx (cz 0x802) a
  let ends (s : State) (a : Word) : State :=
    if r.lo.tle && (s.thr r.thread).key == r.key then s.opDone r.thread r.lo.tl.toNat r.no 4 a 0 else s
  match r.k with
  | .ld => told (s.modReq r.id (fun q => { q with phase := .performed, res := lost })) r.ea
  | .amo _ => told (s.modReq r.id (fun q => { q with phase := .performed, res := lost })) r.ea
  | .cas => told (s.modReq r.id (fun q => { q with phase := .performed, res := lost })) r.ea
  | .ldl =>
    if r.sat then told (ends (s.dropReq r.id) r.mra) r.mra
    else told ((ends (s.dropReq r.id) r.ea).launchLanding { r.landing s lost with tl := none }) r.ea
  | .amol _ =>
    if r.sat then told (ends (s.dropReq r.id) r.mra) r.mra
    else told ((ends (s.dropReq r.id) r.ea).launchLanding { r.landing s lost with tl := none }) r.ea
  | .st => told (s.dropReq r.id) r.ea
  | .stc => told (s.dropReq r.id) r.ea
  | .send => told (ends (s.dropReq r.id) r.mra) r.mra
  | .flag => ends (s.dropReq r.id) r.ea
  | .rdMat => s.engFails r 4
  | .rdLine => s.engFails r 4
  | .wrLine => s.engFails r 4

/-- The context still waits for this access to be accepted (R175). -/
def State.unsettled (s : State) (r : Req) : Bool :=
  r.tag == none && s.alive r && ((s.unitAt r.thread).ctxAt r.ctx).busy == .access r.id

/-- A peer that is not present has the access, or is to have it; FLAGF judges its own (R192, R415). -/
def State.atLost (s : State) (r : Req) : Bool :=
  match r.tgt with
  | .peer p => s.peerSt p != .present && (match r.phase with
    | .sent => true | .refused => true
    | .accepted => r.k != .flag | .released => r.k != .flag
    | .issued => false | .frozen => false | .heldGang => false | .listed => false | .performed => false)
  | .dev _ => false | .host _ => false | .mmio _ => false

/-- ACCESS_FAIL_AT_HOME: the home chip has been marked failed, or its partition's reset finds the access in a retry list; of a
landing sent on for another chip, that chip is told (R195, R415, R422). -/
def State.failAtHome (s : State) (i : Nat) : State :=
  match s.req i with
  | none => s
  | some r => match r.tag with
    | some g => if s.atLost r || (r.phase == .listed && (s.part r.part).inReset) then (s.dropReq i).respond g 0x10 4 [] 0 else s
    | none =>
      if r.phase == .listed && (s.part r.part).inReset then (s.release r).dropReq i
      else match r.tgt with
        | .peer p =>
          if !s.atLost r then s
          else if s.unsettled r then s.trapReq r 0x801 (BitVec.ofNat 64 p)
          else s.failReq r
        | .dev _ => s
        | .host _ => s
        | .mmio _ => s
def execAccessFailAtHome (i : Nat) (s : State) : Out := .next (s.failAtHome i)

/-! ## SMFRZ and FLAGF (R191, R192) -/

/-- SMFRZ_DRAIN: the map of a waiting SMFRZ has no access in flight, and the instruction completes. -/
def execSmfrzDrain (core ctx : Nat) (s : State) : Out :=
  let t : State := { s with core := core, ctx := ctx }
  if (s.coreAt core).st != .running || (s.coreAt core).halt.isSome || !t.cx.live || t.cx.wait != .smfrz then .next s
  else match t.fetchAt with
    | (t', .instr (.smfrz a) ir len) => execSmfrz a { t' with ir := ir, len := len }
    | _ => .next s

/-- A covered store of the FLAGF has not been performed: one whose home is not known yet counts (R192 step 2). -/
def State.coveredLeft (s : State) (r : Req) : Bool :=
  s.reqs.any (fun q => q.tag == none && q.thread == r.thread && q.key == r.key && q.id < r.id && q.k.covered &&
    q.phase != .performed && !q.sat && (q.phase == .issued || q.phase == .frozen || s.homeChip q == s.homeChip r))

/-- Timeline status of a cause that the fresh translation of FLAGF finds (R192 step 4, R250). -/
def flagStatus (cause : Nat) : Nat := if cause = 0x801 then 3 else if cause = 0x501 || cause = 0x601 then 1 else 2

/-- The timeline operation of an access is outstanding: its unit has not ended, and it has not been flushed (R253, R255). -/
def State.opOut (s : State) (r : Req) : Bool :=
  (s.thr r.thread).key == r.key && (s.thr r.thread).ops.any (·.is r.lo.tl.toNat r.no)

/-- FLAGF_WRITE: once the covered stores are performed, the flag is written or its operation ends with a status; of an operation that
has been flushed nothing is left to do (R192, R255). -/
def execFlagfWrite (i : Nat) (ans : HostAns) (s : State) : Out :=
  match s.req i with
  | none => .next s
  | some r =>
    let ends (s : State) (st : Nat) (a : Word) : State := (s.dropReq i).opDone r.thread r.lo.tl.toNat r.no st a 0
    if r.k != .flag || r.phase != .accepted || r.tag.isSome then .next s
    else if !s.opOut r then .next (s.dropReq i)
    else if s.coveredLeft r then .next s
    else if r.sub then .next (ends s 0x0B r.res.v)
    else
      let s := s.sigWalk r.asid r.ea.toNat
      match s.judge { r with tgt := .dev 0 } ans with
      | .trap c _ => .next (ends (if c = 0x506 then s.logWalk r.part r.asid r.ea.toNat else s) (flagStatus c) r.ea)
      | .park _ _ => .next (ends s 1 r.ea)
      | .consume => .next (ends s 2 r.ea)
      | .remote p => .next (s.sendReq r p)
      | .ok tgt et keep =>
        let r' := { r with tgt := tgt, et := et }
        let s := match keep with | some t => (s.keepTrans r.asid r.ea.toNat t).cacheReq r' tgt t.mt | none => s
        match s.performOn r' with
        | none => .next s
        | some (s', _, _) =>
          let s' := ends s' 0 0
          match r'.word with
          | some w => .next (s'.wordChanged w)
          | none => .next s'

end Sys2Proof.Machine
end

