-- ==== Sys2Proof/Machine/Fabric.lean ====
section
/-!
DEFINITION. The Krerum Link: packets at a port, replay and rerouting, the peer table, the gauntlet that judges requests of
other chips, and the responses to this chip's own (R311, R413 to R423).
-/
namespace Sys2Proof

/-! ## The header (R90, R186, R416, R417) -/

def Sz.ofNum : Nat → Sz
  | 0 => .b | 1 => .h | 2 => .w | _ => .d
def Sm.ofNum : Nat → Sm
  | 1 => .rf | 2 => .tk | 3 => .we | 4 => .wf | 5 => .wz | _ => .plain
def AOp.ofNum : Nat → Option AOp
  | 0 => some .add | 1 => some .fadd | 2 => some .min | 3 => some .max | 4 => some .umin | 5 => some .umax | 6 => some .and
  | 7 => some .or | 8 => some .xor | 9 => some .swap | _ => none

/-- A header that no gateway discards (R416, R417). -/
def Packet.valid (p : Packet) : Bool :=
  p.rsv == 0 && p.nl ≤ 4 && p.sz ≤ 4 && (p.typ ≤ 7 || p.typ == 0x10 || p.typ == 0x11 || p.typ == 0x12)

/-- A request, as against a response or a notice. -/
def Packet.request (p : Packet) : Bool := p.typ ≤ 7

/-- A payload line whose hallmark fails travels poisoned from here (R418). -/
def Packet.poisonLine (p : Packet) (line : Nat) : Packet := { p with pmask := p.pmask ||| (255 <<< (8 * line)) }

/-- What the answers to a request repeat (log 84). -/
def Packet.asker (p : Packet) : Machine.Asker := ⟨p.src, p.tag, p.sz, p.lo, p.asid, p.tenant, p.addr⟩

/-- The request is an engine's: one for whole lines, or a plain write that a timeline numbers (R172, R416). -/
def Packet.engine (p : Packet) : Bool := p.sz == 4 || (p.typ == 1 && p.sm == 0 && p.lo.testBit 3)

/-- A word of a packet's payload, and its poison. -/
def Packet.word (p : Packet) (i : Nat) : Machine.Val := ⟨p.payload.getD i 0, p.pmask.testBit i⟩

/-- What a request asks for; a write with AOP 1 is a clean write (log 25). -/
def Packet.kind (p : Packet) : Option Machine.AKind :=
  match p.typ with
  | 0 => some (if p.sz = 4 then .rdLine else .ld)
  | 1 => some (if p.engine then .wrLine else if p.aop = 1 then .stc else .st)
  | 2 => (AOp.ofNum p.aop).map .amo
  | 3 => some .cas
  | 5 => if p.payload.length < 2 then some .ldl else (AOp.ofNum p.aop).map .amol
  | 6 => some .st
  | _ => none

/-- The value that a response carries for an access of n bytes. -/
def Packet.value (p : Packet) (n : Nat) : Machine.Val := ⟨BitVec.ofNat 64 ((p.word 0).v.toNat % 2 ^ (8 * n)), (p.word 0).p⟩

end Sys2Proof

namespace Sys2Proof.Machine

/-! ## Ports and routes (R414, R419) -/

def State.port (s : State) (k : Nat) : Port := s.ports.get .reset k
def State.modPort (s : State) (k : Nat) (f : Port → Port) : State := { s with ports := s.ports.set k (f (s.port k)) }

/-- Packets held for a change of route take the routes of now, in their order; those whose old route has not drained are held again
(R414). -/
def State.releaseHeld (s : State) : State :=
  s.linkHeld.foldl (fun s h => s.routePacket h.1 (h.2.dst / 4096) h.2) { s with linkHeld := [] }

/-- The next hop acknowledges the n oldest packets of a port (R419; what it says of the old route's end is log 26). -/
def State.acked (s : State) (k n : Nat) : State :=
  if n = 0 then s else (s.modPort k (fun q => { q with buf := q.buf.drop n, replays := 0 })).releaseHeld

/-- A packet that has arrived whole at a gateway: discarded when invalid, forwarded by the gateway's table, or taken in (R414, R417). -/
def State.arrive (s : State) (gw : Nat) (p : Packet) : State :=
  if !p.valid then { s with captures := s.captures.set gw p }
  else if p.dst / 4096 != s.peer then s.routePacket (some gw) (p.dst / 4096) p
  else if p.request then { s with inbound := s.inbound ++ [p] }
  else { s with resps := s.resps ++ [p] }

/-- PACKET_RECEIVE: with what arrives, the next hop acknowledges as many packets as q's second part says; a damaged header or payload is
asked for again, and nothing of the packet is delivered. -/
def execPacketReceive (port : Nat) (p : Packet) (q : FlitFate × Nat) (s : State) : Out :=
  if 32 ≤ port || (s.port port).down then .next s
  else
    let s := s.acked port q.2
    match q.1 with
    | .good => .next (s.arrive port p)
    | .headerBad => .next s
    | .payloadBad => .next s
    | .hallmarkBad line => .next (s.arrive port (if line < p.nl then p.poisonLine line else p))
    | .noPacket => .next s

/-- LINK_REPLAY: the oldest unacknowledged packet and all behind it go again, in their order. -/
def execLinkReplay (port : Nat) (s : State) : Out :=
  let q := s.port port
  .next (if q.buf.isEmpty || q.down || 8 ≤ q.replays then s else s.modPort port (fun q => { q with replays := q.replays + 1 }))

/-- A peer is marked failed: its entry is disabled, and every access that it has, or was to have, fails with it (R415). -/
def State.failPeer (s : State) (peer : Nat) : State :=
  if s.peerSt peer == .present then
    let s : State := { s with peers := s.peers.set peer .disabled }
    (s.reqs.filter (fun r => r.tgt == .peer peer)).foldl (fun s r => s.failAtHome r.id) s
  else s

/-- Peers that are left without a route are marked failed. -/
def State.failUnrouted (s : State) (l : List Nat) : State :=
  l.foldl (fun s n => if (s.portFor n).isNone then s.failPeer n else s) s

/-- LINK_DOWN: after 8 replays the link goes down, and its traffic takes the other routes. -/
def execLinkDown (port : Nat) (s : State) : Out :=
  let q := s.port port
  if q.down || q.replays < 8 then .next s
  else
    let hit := s.routes.filter (fun e => e.2.v && e.2.port == port)
    let s := s.modPort port (fun _ => { Port.reset with down := true })
    let s : State := { s with routes := s.routes.map (fun e => if e.2.v && e.2.port == port then (e.1, { e.2 with v := false }) else e) }
    let held := s.linkHeld
    let s := q.buf.foldl (fun s p => s.sendPacket (p.dst / 4096) p) { s with linkHeld := [] }
    let s := ({ s with linkHeld := s.linkHeld ++ held } : State).releaseHeld
    .next (s.failUnrouted (hit.map (·.1 % 1024)))

/-- ROUTE_CHANGE: an entry of gateway gw's route table. -/
def execRouteChange (gw peer : Nat) (v : Bool) (port : Nat) (s : State) : Out :=
  if 32 ≤ gw || 1024 ≤ peer then .next s
  else
    let s : State := { s with routes := s.routes.set (1024 * gw + peer) ⟨v, port % 32⟩ }
    .next (if v then s else s.failUnrouted [peer])

/-- PEER_FAILED. -/
def execPeerFailed (peer : Nat) (s : State) : Out := .next (s.failPeer peer)

/-- PEER_SET_PRESENT: after its reset, a peer that was disabled is reachable again. -/
def execPeerSetPresent (peer : Nat) (s : State) : Out :=
  .next (if s.peerSt peer == .disabled then { s with peers := s.peers.set peer .present } else s)

/-! ## The gauntlet (R420, R421) -/

/-- The partition with a tenant tag. -/
def State.tenantPart (s : State) (tenant : Nat) : Option Nat := (upto 16).find? (fun p => (s.part p).tenant == tenant)

/-- The access of a request. The poison of a datum of 8 bytes or less is in bit 0 of PMASK, the operand of AMO.l among them
(R416). -/
def State.reqOf (s : State) (p : Packet) (part : Nat) (k : AKind) : Req :=
  let lands := p.typ == 5
  { id := s.nextReq, chip := p.src / 4096, thread := p.src, key := p.tag, ctx := 0, asid := p.asid, part := part, core := p.src % 4096
    pc := 0, k := k, ea := p.addr, sz := Sz.ofNum p.sz, sm := Sm.ofNum p.sm, dst := .g 0, mra := if lands then (p.word 0).v else 0
    lo := ⟨false, false, 0⟩, no := 0
    d := if lands then ⟨(p.word 1).v, p.pmask.testBit 0⟩ else p.word 0, n := p.word 1
    line := if k == .wrLine then (wordsRun p.payload p.pmask).take (if p.sz = 4 then 64 else szBytes (Sz.ofNum p.sz)) else []
    map := if p.sh then some 0 else none, coords := []
    phase := .accepted, tgt := .dev 0, et := false, at_ := 0, res := .zero, sub := false, tag := some p.asker, ir := 0, ptag := 0 }

/-- Status of a permission that is clear (R420 step 5). -/
def deniedStatus (cause : Nat) : Nat := if cause = 0x502 then 0x20 else if cause = 0x503 then 0x21 else 0x22

/-- A write that the MMIO and notify pages take (R182, A06). -/
def Req.mmioOk (r : Req) : Bool :=
  !(r.k.atomic || r.sm != .plain || r.k.lines || r.bytes < 4 || r.ea.toNat % r.bytes != 0 || (r.writes && r.d.p))

/-- How a request fares at the walk and the permissions: accepted with a target, parked, or a status (R420 steps 4 and 5). -/
def State.gauntletJudge (s : State) (r : Req) (notify : Bool) : Except (Nat × Option Nat) (Trans × Tgt) :=
  match s.translate r.asid r.ea.toNat with
  | .notValid pte => .error (0x10, some pte)
  | .invalid => .error (0x24, none)
  | .hostPage _ => .error (0x24, none)
  | .page t =>
    let pa := t.pa r.ea.toNat
    if (t.aper != 0 && t.aper != 3) || (t.aper == 3 && !r.mmioOk) || (notify && t.aper != 3) then .error (0x24, none)
    else match r.k.denied t.rd t.w t.atm with
      | some c => .error (deniedStatus c, none)
      | none =>
        if r.map.isSome && r.k.atomic && !t.rap then .error (0x23, none)
        else .ok (t, if t.aper = 3 then .mmio (pa - mmioBase) else .dev pa)

/-- A landing from another chip resolves by R34: written or rejected it answers itself, refused it is answered 0x29. -/
def State.gauntletLanding (s : State) (p : Packet) (part : Nat) : State :=
  let l : Landing :=
    { schip := p.src / 4096, sthread := p.src, skey := 0, sctx := 0, sasid := p.asid, spart := part, mra := p.addr, val := p.word 0
      tl := none, urj := false, refusedAt := none, via := none, bounces := 0, own := false, tag := some p.asker
      seq := s.nextReq }
  let s : State := { s with nextReq := s.nextReq + 1 }
  if s.gangWaits l then s.launchLanding { l with gang := 1 }
  else
    let s' := s.resolveLanding l
    if s'.flight.any (·.seq == l.seq) then
      { s' with flight := s'.flight.filter (·.seq != l.seq) }.respond p.asker 0x10 0x29 [] 0
    else s'

/-- A monitor is armed. -/
def State.watch (s : State) (m : Monitor) : State := { s with monitors := s.monitors ++ [m] }

/-- GAUNTLET_REQUEST: the oldest request of each chip is judged first. One that names a logical cluster beyond NCLUS names an absent
peer (R14). A collective fragment goes to the engine of its collective, which COLL_MATCH carries on (logs 27 and 75). -/
def execGauntletRequest (i : Nat) (s : State) : Out :=
  match s.inbound[i]? with
  | none => .next s
  | some p =>
    if (s.inbound.take i).any (fun q => q.src / 4096 == p.src / 4096) then .next s
    else
      let g := p.asker
      let s : State := { s with inbound := dropNth i s.inbound }
      match s.tenantPart p.tenant with
      | none => .next (s.respond g 0x12 3 [] 0)
      | some part =>
        if (s.part part).inReset || !s.asValid p.asid || s.asPart p.asid != part || s.nclus ≤ p.dst / 64 % 64 then
          .next ((s.logSpace part p.asid).respond g 0x12 3 [] 0)
        else if p.typ = 4 then .next (s.gauntletLanding p part)
        else if p.typ = 7 then .next ((s.respond g 0x12 0 [] 0).respond g 0x10 0 [] 0)
        else match p.kind with
          | none => .next (s.respond g 0x12 0x24 [] 0)
          | some k =>
            let r := s.reqOf p part k
            let s := s.sigWalk p.asid p.addr.toNat
            match s.gauntletJudge r (p.typ == 6) with
            | .error (st, pte) =>
              let s := (if st = 0x24 then s.logWalk part p.asid p.addr.toNat else s).respond g 0x12 st [] 0
              .next (match pte with
                | some a => if k.lines then s else s.watch ⟨some a, part, p.asid, p.addr, p.src / 4096, p.src, p.tag, 0, false⟩
                | none => s)
            | .ok (t, tgt) =>
              let s := s.keepTrans p.asid p.addr.toNat t
              let s := s.cacheAt part p.asid p.addr.toNat tgt t.mt r.bytes r.writes true .normal
              let s := s.respond g 0x12 0 [] 0
              .next (s.pushReq { r with tgt := tgt, et := t.et })

/-! ## Responses (R417, R421, R422) -/

/-- The cause that a status raises before acceptance. -/
def statusCause : Nat → Option Nat
  | 0x03 => some 0x801 | 0x10 => some 0x501 | 0x20 => some 0x502 | 0x21 => some 0x503 | 0x22 => some 0x504 | 0x23 => some 0x505
  | 0x24 => some 0x506 | _ => none

/-- The timeline status of a response status. -/
def statusEngine (st : Nat) : Nat :=
  if st = 3 then 3 else if st = 4 then 4 else if st = 6 then 6 else if st = 0x10 then 1 else 2

/-- A line of a governor's copy has been moved at its owner (R462). -/
def State.govAnswer (s : State) (r : Req) (p : Packet) (k i : Nat) : State :=
  if !(s.stageAt k).inst || (s.stageAt k).stopped then s
  else if r.k == .wrLine then s.copied k i
  else match s.stateOff k i with
    | some off => s.lineIn k i off (wordsRun p.payload p.pmask)
    | none => s

/-- A granule for the matrix operation that asked for it (R228). -/
def State.matAnswer (s : State) (r : Req) (p : Packet) : State :=
  let u := s.unitAt r.thread
  match u.mq with
  | j :: rest =>
    match matPlan j.i with
    | some pl => match j.needs pl with
      | some o =>
        if !s.alive r || j.no != r.no || j.tl != r.lo.tl.toNat then s
        else
          let first := p.aop == 1 && !j.subbed
          let v := if u.gang then s.heldPeer r j.seq (p.value 8) else p.value 8
          let s := s.setUnit r.thread { u with mq := { j.fill o.1 [v] with subbed := j.subbed || p.aop == 1 } :: rest }
          if first then s.bump u.part r.thread u.key j.ctx .subst j.seq else s
      | none => s
    | none => s
  | [] => s

/-- The answer to an access of an engine, of the matrix unit or of a governor's copy. -/
def State.engAnswer (s : State) (r : Req) (p : Packet) : State :=
  if p.status = 0x29 || p.status = 0x28 then s.modReq r.id (fun q => { q with phase := .refused, at_ := s.clk })
  else if p.status != 0 then s.engFails r (statusEngine p.status)
  else if p.typ = 0x12 then s.modReq r.id (fun q => { q with phase := .accepted })
  else
    let s := s.dropReq r.id
    if r.k == .rdMat then s.matAnswer r p
    else match r.govOf with
      | some (k, i) => s.govAnswer r p k i
      | none =>
        match (if (s.thr r.thread).key == r.key then (s.thr r.thread).ops.find? (·.is r.lo.tl.toNat r.no) else none) with
        | some o =>
          if r.k == .wrLine then s.modOp r.thread o (·.written r.line.length)
          else
            let a := o.source.2.1.toNat % 64
            s.modOp r.thread o (·.fetched (((wordsRun p.payload p.pmask).drop a).take (min o.source.2.2 (64 - a))) none)
        | none => s

/-- A landing that the target's gauntlet has turned away before it could resolve counts as rejected, with the status of the answer on its
timeline (R184, R420, R422). -/
def State.turnedAway (s : State) (l : Landing) (status : Nat) : State :=
  let s := s.bump l.spart l.sthread l.skey l.sctx .orph l.seq
  (if l.urj then s.notify l.sthread l.skey l.sctx (cz 0x902) l.mra else s).landEnds l status l.mra

/-- The answer to a landing that went to another chip. -/
def State.sendAnswer (s : State) (r : Req) (p : Packet) : State :=
  let l := { r.landing s r.d with tag := r.tag }
  match p.status with
  | 0x00 => if p.typ = 0x12 then s else (s.dropReq r.id).landed l
  | 0x29 => s.modReq r.id (fun q => { q with phase := .refused, at_ := s.clk })
  | 0x06 => (s.dropReq r.id).reject l
  | st => match r.tag with
    | some g => (s.dropReq r.id).respond g 0x10 st [] 0
    | none => if st = 4 then s.failReq r else (s.dropReq r.id).turnedAway l (statusEngine st)

/-- An access of a context has been performed at its owner: a load of a gang unit sees its held stores (R49). Of an LDL or an AMO.l
the first answer says that it is satisfied, the second that its value is written (R179, R184, log 82). -/
def State.remoteDone (s : State) (r : Req) (p : Packet) : State :=
  let ends (s : State) : State :=
    if r.lo.tle && (s.thr r.thread).key == r.key then s.opDone r.thread r.lo.tl.toNat r.no 0 0 0 else s
  let lands : State :=
    if r.sat then ends (s.dropReq r.id)
    else ((if p.aop == 1 then s.bump r.part r.thread r.key r.ctx .subst r.id else s).release r).modReq r.id (fun q => { q with sat := true })
  let v := p.value r.bytes
  match r.k with
  | .ldl => if r.near then s.performed r (s.heldPeer r r.id v) (p.aop == 1) else lands
  | .amol _ => lands
  | .flag => ends (s.dropReq r.id)
  | _ => s.performed r (if s.gangLoad r then s.heldPeer r r.id v else v) (p.aop == 1)

/-- The answer to an access of a context. -/
def State.ctxAnswer (s : State) (r : Req) (p : Packet) : State :=
  let peer := p.src / 4096
  if p.status = 0x28 || p.status = 0x29 then s.modReq r.id (fun q => { q with phase := .refused, at_ := s.clk })
  else if s.unsettled r then
    if p.status = 0 then
      let s := s.acceptReq r (.peer peer) false
      if p.typ = 0x12 then s else match s.req r.id with
        | some r => s.remoteDone r p
        | none => s
    else match statusCause p.status with
      | some 0x501 =>
        let s : State := { s with monitors := s.monitors ++ [⟨none, r.part, r.asid, r.ea, peer, r.thread, r.key, r.ctx, false⟩] }
        s.inCsa r.thread (fun s => (s.unissue r).syncUpcall r.thread r.ctx (cz 0x501) r.pc r.ea)
      | some 0x801 => s.trapReq r 0x801 (BitVec.ofNat 64 peer)
      | some c => s.trapReq r c r.ea
      | none => s.failReq r
  else match r.k, p.status with
    | .flag, 0 => if p.typ = 0x12 then s else s.remoteDone r p
    | .flag, st => if (s.thr r.thread).key == r.key then (s.dropReq r.id).opDone r.thread r.lo.tl.toNat r.no (statusEngine st) r.ea 0
      else s.dropReq r.id
    | _, 0 => if p.typ = 0x12 then s.modReq r.id (fun q => { q with phase := .accepted }) else s.remoteDone r p
    | _, 6 => (((s.release r).dropReq r.id).reject { r.landing s .zero with tag := none })
    | _, st => if r.sat && st != 4 then (s.dropReq r.id).turnedAway { r.landing s .zero with tag := none } (statusEngine st)
      else s.failReq r

/-- A notice packet resolves through the access that was parked for its page (R421). -/
def State.noticePacket (s : State) (p : Packet) : State :=
  let hit (m : Monitor) : Bool := m.pte.isNone && m.chip == p.src / 4096 && m.chip != s.peer && m.asid == p.asid && m.va == p.addr
  match s.monitors.find? hit with
  | some m => { s with monitors := dropFirst hit s.monitors }.notify m.thread m.key m.ctx (cz 0x508) m.va
  | none => s

/-- RESPONSE_RECEIVED. -/
def execResponseReceived (i : Nat) (s : State) : Out :=
  match s.resps[i]? with
  | none => .next s
  | some p =>
    let s : State := { s with resps := dropNth i s.resps }
    if p.typ = 0x11 then .next (s.noticePacket p)
    else match s.reqs.find? (fun r => (r.phase == .sent || r.phase == .accepted) && r.tgt == .peer (p.src / 4096) && r.ptag == p.tag &&
        r.core == p.dst % 4096 && p.addr == r.wire && p.lo == loNum r.lo && p.sz == r.size) with
      | none => .next s
      | some r =>
        if r.k == .send then .next (s.sendAnswer r p)
        else if r.k == .rdMat || r.k.lines then .next (s.engAnswer r p)
        else .next (s.ctxAnswer r p)

end Sys2Proof.Machine
end

