-- ==== Sys2Proof/Machine/Queue.lean ====
section
/-!
DEFINITION. The dispatcher's steps: admission, eligibility, ageing, selection, binding, groups, placement, idle cores
(R24, R28, R32, R48, R56, R337, R356 to R369, R373, R404).
-/
namespace Sys2Proof.Machine

/-! ## Admission (R359, R360) -/

/-- Admission from a ring stops. -/
def State.stopRing (s : State) (p ring code : Nat) : State :=
  (s.modRing p ring (fun e => { e with err := true, ecode := code })).irq p 1

/-- Where the next entry of a ring lies. -/
def Ring.next (e : Ring) : Nat := e.rbase.toNat + 256 * (e.cons % 2 ^ e.rlog)

/-- ADMIT_LAUNCH_RECORD: the next record of a ring; ans is the host's answer for a page of host memory (R356, R428). -/
def execAdmitLaunchRecord (part : Nat) (q : Nat × HostAns) (s : State) : Out :=
  let ring := q.1
  let e := (s.part part).ring ring
  let s' := (s.keepHost e.rasid e.next q.2).vcome none e.rasid e.next 256
  if s.boot.stage < 7 || !e.en || e.err || e.prod == e.cons || (s.part part).inReset then .next s
  else if 2 ^ e.rlog < (e.prod + 2 ^ 32 - e.cons) % 2 ^ 32 then .next (s.stopRing part ring 4)
  else if !s.asValid e.rasid || s.asPart e.rasid != part then .next ((s.logSpace part e.rasid).stopRing part ring 2)
  else match (if s'.untold e.rasid e.next then none else s'.vread e.rasid e.next 256) with
    | none => .next ((s'.logWalk part e.rasid e.next).stopRing part ring 2)
    | some (_, true) => .next ((s'.logTable part 10).stopRing part ring 2)
    | some (n, false) =>
      let s := s'
      let id := fieldOf n 160 32
      let old := s.launchAt (inPart part id)
      if !s.launchOk part n then .next (s.stopRing part ring 1)
      else if old.known && old.count != 0 then .next (s.stopRing part ring 3)
      else match s.freeFrame part with
        | none => .next s
        | some a =>
          let l := s.launchOf part e.rasid n
          let s := (s.setLaunch (inPart part id) l).graphInc part l.graph l.phase l.job
          let r : Rec :=
            { id := 0, part := part, asid := e.rasid, launch := id, k := .source, place := .bucket 0, level := l.img.prio
              enq := 0, frame := a, img := l.img, thread := 0, key := 0, next := 0, haltNo := 0, spun := false }
          .next (((s.addRec r).writeFrame r n).modRing part ring (fun e => { e with cons := (e.cons + 1) % 2 ^ 32 }))

/-! ## Waiting lists and lists (R32, R56, R365) -/

/-- RECORD_ELIGIBLE: a waiting record enters its bucket, or the waiting list of its next unmet requirement. -/
def execRecordEligible (r : Nat) (s : State) : Out :=
  match s.rec? r with
  | none => .next s
  | some q => match q.place with
    | .gateway g =>
      let p := s.placeOf q
      .next (if p == .gateway g then s else s.toTail { q with place := p })
    | .bucket _ => .next s
    | .held => .next s

/-- RECORD_AGEING. -/
def execRecordAgeing (r : Nat) (s : State) : Out :=
  match s.rec? r with
  | none => .next s
  | some q =>
    let e := s.part q.part
    let top := min e.phi (s.launchAt (inPart q.part q.launch)).ceil
    match q.place with
    | .bucket _ =>
      .next (if q.level < top && q.enq + 2 ^ e.age ≤ s.clk && !s.selected r then s.toTail { q with level := q.level + 1 } else s)
    | .gateway _ => .next s
    | .held => .next s

/-! ## Selection and binding (R28, R337, R362 to R364, R404) -/

/-- DISPATCH_SELECT: the core that the bucket grants commits to a record, or to the next unit of a source. -/
def execDispatchSelect (core : Nat) (s : State) : Out :=
  if !s.free core then .next s
  else match s.choose core with
    | none => .next s
    | some r =>
      if s.granted r.bucket != some core then .next s
      else
        let s := if r.k == .source then s.modRec r.id (fun r => { r with next := r.next + 1 }) else s
        .next ({ s with grants := s.grants.set r.bucket (s.physCore core) }.modCore core (fun c =>
          { c with sel := some r.id, selIdx := r.next, selLvl := r.level }))

/-- The header of a record's frame is poisoned, or the record breaks R30 or R31, or holds a reserved bit (R4, R404). -/
def State.recBad (s : State) (r : Rec) : Bool :=
  let n := s.mem.read r.frame 256
  s.mem.anyPoison r.frame 128 || !RecImg.ok n || fieldOf n 576 448 != 0 || !targetOk r.img.pc

/-- The image of a record, registers whose VAL slot is poisoned marked (R404). -/
def State.recImage (s : State) (r : Rec) : RecImg :=
  { r.img with pois := (upto 16).foldl (fun p i =>
      if s.mem.anyPoison (r.frame + 128 + 8 * i) 8 then p ||| (1#16 <<< i) else p) r.img.pois }

/-- A record that a priority change has met while it was selected takes its new level once it is not (R57, R364). -/
def State.settleDue (s : State) : State :=
  let hit (r : Rec) : Bool := r.due.isSome && !s.selected r.id
  if s.recs.any hit then
    { s with recs := s.recs.filter (!hit ·) ++
        (s.recs.filter hit).map (fun (r : Rec) => { r with level := r.due.getD r.level, enq := s.clk, due := none }) }
  else s

/-- A core's selection is over. -/
def State.unsel (s : State) (k : Nat) : State := (s.modCore k (fun c => { c with sel := none, rsvFor := none })).settleDue

/-- An unusable record is discarded (R404). -/
def State.dropBad (s : State) (r : Rec) : State :=
  let s := (s.dropRec r.id).modLaunch (inPart r.part r.launch) (fun l => { l with canc := true })
  let s := (s.log r.part 3 (cz 0xD12) (bv r.frame) r.thread r.launch 0).log r.part 9 0 (bv r.frame) r.thread r.launch 10
  if r.k == .suspended then s.discardAlone r.thread else s.launchDec r.part r.launch 1

/-- A unit that its launch's CANCEL has overtaken is halted to be discarded (R364); cut says that the record was cut, and its unit then
counts in no launch. -/
def State.boundLate (s : State) (k : Nat) (cut : Bool) : State :=
  let t := (s.coreAt k).thread
  let e := s.thr t
  let l := s.launchAt (inPart e.part e.launch)
  if cut then (s.modThr t (fun e => { e with counted := false })).endThread t .cancel 8
  else if l.canc && l.count == 0 then s.endThread t .cancel 8 else s

/-- A source goes once every unit of it has been selected and no other core has one to bind. -/
def State.sourceDone (s : State) (k : Nat) (r : Rec) : State :=
  if (s.rec? r.id).any s.moreUnits || s.cores.any (fun e => e.1 != k && e.2.sel == some r.id) then s else s.dropRec r.id

/-- A unit that a record of a gang starts is a unit of the gang from then on (R48, R264; DEDUCED, log 90). -/
def State.joinGang (s : State) (k : Nat) : State :=
  let t := (s.coreAt k).thread
  let e := s.thr t
  if (s.unitAt t).gang then
    s.modLaunch (inPart e.part e.launch) (fun l => { l with members := l.members ++ [t], mkeys := l.mkeys ++ [e.key] })
  else s

/-- The unit of a suspended record is bound: Moved until the restore is complete (R33, R345). -/
def State.bindSuspended (s : State) (k : Nat) (r : Rec) : State :=
  let l := s.launchAt (inPart r.part r.launch)
  let t := r.thread
  let c := (s.recImage r).ctx
  let hold := s.reqs.any (fun q => q.thread == t && q.key == r.key && q.ctx == 0 && q.tag == none && q.sm.waits && q.phase != .performed)
  let u := l.unit r.asid r.part r.launch r.img.uidx r.level r.img.aff r.key { c with hold := hold } s.clk
  let s := (s.dropRec r.id).setUnit t u
  let s := s.modThr t (fun e => { e with st := .moved, addr := 0, oldloc := e.loc, loc := k })
  s.modCore k (fun x => { x.forPart r.part with
    st := .restoring, thread := t, links := [], halt := none, gated := false, sel := none, rsvFor := none, rsvd := 0 })

/-- A record's unit is bound to core k, under thread t; of a source, the unit and the level are those of its selection. -/
def State.bindRec (s : State) (k t : Nat) (r : Rec) : State :=
  let l := s.launchAt (inPart r.part r.launch)
  let i := s.recImage r
  match r.k with
  | .source =>
    let c := s.coreAt k
    let u := c.selIdx
    let s := s.sourceDone k r
    if !s.asValid r.asid then ((s.logSpace r.part r.asid).refuseUnit r.part r.launch).unsel k
    else s.startUnit k t r.asid r.part r.launch u c.selLvl (affOf l.img l.affstr u) i.ctx
  | .posted =>
    if s.recBad r then (s.dropBad r).unsel k
    else if !s.asValid r.asid then (((s.dropRec r.id).logSpace r.part r.asid).refuseUnit r.part r.launch).unsel k
    else ((s.dropRec r.id).startUnit k t r.asid r.part r.launch r.img.uidx r.level r.img.aff i.ctx).joinGang k
  | .suspended =>
    if s.recBad r then (s.dropBad r).unsel k
    else if !s.asValid r.asid then (((s.dropRec r.id).logSpace r.part r.asid).discardAlone r.thread).unsel k
    else s.bindSuspended k r
  | .saved => s

/-- UNIT_BIND. -/
def execUnitBind (core thread : Nat) (s : State) : Out :=
  let c := s.coreAt core
  match c.sel.bind s.rec? with
  | none => .next (if c.sel.isSome then s.unsel core else s)
  | some r =>
    let ok := match r.k with
      | .source => s.threadFree thread
      | .posted => s.threadFree thread
      | .suspended => r.thread == thread
      | .saved => false
    if c.st != .idle || !ok || (s.part r.part).inReset then .next s
    else .next ((s.bindRec core thread r).boundLate core r.cut).settleDue

/-! ## Groups (R45, R48, R366, R368) -/

/-- The slot of core k serves a record of a group, and nothing of its level or above holds the core (R363, R366). -/
def State.groupServes (s : State) (r : Rec) (k : Nat) : Bool :=
  let c := s.slotOf k
  k / 64 < s.nclus && c.v && !c.mode && c.part == r.part && c.floor ≤ r.level && slotServes c r.bucket && s.fits k r &&
  (match (s.coreAt k).rsvFor with
    | some id => (match s.rec? id with | some q => q.level < r.level || (q.part == r.part && q.launch == r.launch) | none => true)
    | none => true)

/-- No number twice. -/
def distinct : List Nat → Bool
  | [] => true
  | a :: l => !l.contains a && distinct l

/-- Saved entries of a launch. -/
def State.savedOf (s : State) (p l : Nat) : List Rec := s.recs.filter (fun r => r.k == .saved && r.part == p && r.launch == l)

/-- What goes with a record of a gang or phased launch at one time, by unit index: every unit of its source, or the saved units
of the gang, or of one cluster of a phased launch, once all of them that have not ended are saved (R45, R48). -/
def State.groupOf (s : State) (q : Rec) : Option (List (Nat × Rec)) :=
  let l := s.launchAt (inPart q.part q.launch)
  let placed := match q.place with | .bucket _ => true | .gateway _ => false | .held => false
  let mine (u : Nat) : Bool := l.gang || u / 64 == q.img.uidx / 64
  if !placed || !(l.gang || l.phased) || (s.part q.part).inReset then none
  else match q.k with
    | .source => some ((upto l.units).map (·, q))
    | .saved =>
      let rs := (s.savedOf q.part q.launch).filter (fun r => mine r.img.uidx)
      let out := (s.threadsOf q.part q.launch).filter (fun t => mine (s.unitAt t).uidx)
      if rs.length = out.length then some (rs.map (fun r => (r.img.uidx, r))) else none
    | .posted => none
    | .suspended => none

/-- Core k is kept for the launch of a record (R366). -/
def State.keptFor (s : State) (r : Rec) (k : Nat) : Bool :=
  match (s.coreAt k).rsvFor with
  | some id => (match s.rec? id with | some q => q.part == r.part && q.launch == r.launch | none => false)
  | none => false

/-- Cost of core k for a unit of a group: one that is being emptied for it costs nothing more (R366, R368). -/
def State.groupCost (s : State) (r : Rec) (k : Nat) : Option Nat :=
  if s.keptFor r k && (s.coreAt k).halt.isSome then some 0 else s.placeCost k r.level

/-- The least-cost core for one unit, among those not yet given. -/
def State.groupPick (s : State) (used : List Nat) (r : Rec) : Option (Nat × Nat) :=
  s.leastBy (s.boundCores.filter (fun k => s.groupServes r k && !used.contains k)) r.bucket (s.groupCost r)

/-- Cores for the units of a gang one by one, each with its cost. -/
def State.gangPlan (s : State) (g : List (Nat × Rec)) : Option (List (Nat × Nat)) :=
  g.foldl (fun m e => m.bind (fun l => (s.groupPick (l.map (·.1)) e.2).map (fun k => l ++ [k]))) (some [])

/-- The cost of one whole logical cluster for those units of a phased launch: core u mod 64 for unit u (R45). -/
def State.clusterCost (s : State) (g : List (Nat × Rec)) (n : Nat) : Option Nat :=
  g.foldl (fun m e => m.bind (fun c =>
    let k := 64 * n + e.1 % 64
    if s.groupServes e.2 k then (s.groupCost e.2 k).map (c + ·) else none)) (some 0)

/-- The least-cost cluster for those units, among those not yet given; ties go to the lowest physical number. -/
def State.clusterPick (s : State) (used : List Nat) (g : List (Nat × Rec)) : Option Nat :=
  ((upto s.nclus).foldl (fun (m : Option (Nat × List Nat)) n =>
    if used.contains n then m
    else match s.clusterCost g n, m with
      | none, m => m
      | some c, none => some (n, [c, s.physCluster n])
      | some c, some y => if lexLt [c, s.physCluster n] y.2 then some (n, [c, s.physCluster n]) else some y) none).map (·.1)

/-- Clusters for the 64s of a phased launch, in ascending order of unit index, as pairs of 64 and cluster. -/
def State.phasedPlan (s : State) (g : List (Nat × Rec)) : Option (List (Nat × Nat)) :=
  (g.foldl (fun l e => setIns (e.1 / 64) l) []).foldl (fun m d => m.bind (fun l =>
    (s.clusterPick (l.map (·.2)) (g.filter (fun e => e.1 / 64 == d))).map (fun n => l ++ [(d, n)]))) (some [])

/-- The cores that a group would take now, with their costs; none while the placement of R368 finds too few (R366). -/
def State.groupPlan (s : State) (q : Rec) (g : List (Nat × Rec)) : Option (List (Nat × Nat)) :=
  if (s.launchAt (inPart q.part q.launch)).phased then
    (s.phasedPlan g).map (fun m => g.map (fun e =>
      let k := 64 * m.foldl (fun n x => if x.1 = e.1 / 64 then x.2 else n) 0 + e.1 % 64
      (k, (s.groupCost e.2 k).getD 0)))
  else s.gangPlan g

/-- The cores that the next attempt of a group would use: those of its plan, or, while too few can be placed, the first that serve it,
in whole clusters for a phased launch (R366; DEDUCED, log 60). -/
def State.nextCores (s : State) (q : Rec) (g : List (Nat × Rec)) : List Nat :=
  match s.groupPlan q g with
  | some l => l.map (·.1)
  | none =>
    let serves := s.boundCores.filter (s.groupServes q)
    if (s.launchAt (inPart q.part q.launch)).phased then
      let whole := (upto s.nclus).filter (fun n => (upto 64).all (fun i => serves.contains (64 * n + i)))
      (whole.take ((g.length + 63) / 64)).flatMap (fun n => (upto 64).map (64 * n + ·))
    else serves.take g.length

/-- GROUP_BIND: all units of a gang or phased source at the head of its list at once, on the cores that the placement of R368
gives when all of them are free, or all its saved units again. -/
def execGroupBind (r : Nat) (cores threads : List Nat) (s : State) : Out :=
  match s.rec? r with
  | none => .next s
  | some q => match s.groupOf q with
    | none => .next s
    | some g =>
      let l := s.launchAt (inPart q.part q.launch)
      if s.groupPlan q g != some (cores.map (·, 0)) || !cores.all s.free || !distinct cores then .next s
      else match q.k with
        | .source =>
          if threads.length != l.units || !distinct threads || !threads.all s.threadFree || !s.firstInList q then .next s
          else if !s.asValid q.asid then
            .next (((s.dropRec q.id).logSpace q.part q.asid).modLaunch (inPart q.part q.launch) (fun l => { l with canc := true })
              |>.launchDec q.part q.launch l.count)
          else
            let s := s.dropRec q.id
            let i := s.recImage q
            let s := ((upto l.units).zip (cores.zip threads)).foldl (fun s e =>
              s.startUnit e.2.1 e.2.2 q.asid q.part q.launch e.1 q.level (affOf l.img l.affstr e.1) i.ctx) s
            .next (s.modLaunch (inPart q.part q.launch) (fun l =>
              { l with members := threads, mkeys := threads.map (fun t => (s.thr t).key) }))
        | .saved =>
          let rs := g.map (·.2)
          let s := (rs.zip cores).foldl (fun s e => s.modCore e.2 (fun c => { c with sel := some e.1.id })) s
          .next { s with agenda := s.agenda ++ (rs.zip cores).map (fun e => .restoreBegin e.2 e.1.thread) }
        | .posted => .next s
        | .suspended => .next s

/-- GROUP_RESERVE: an aged group source at the partition's PHI reserves the cores of its next attempt. -/
def execGroupReserve (r : Nat) (cores : List Nat) (s : State) : Out :=
  match s.rec? r with
  | none => .next s
  | some q => match s.groupOf q with
    | none => .next s
    | some g =>
      let e := s.part q.part
      if q.k != .source || q.level < e.phi || s.clk < q.enq + 2 ^ e.age || cores != s.nextCores q g then .next s
      else .next (cores.foldl (fun s k => s.modCore k (fun c => { c with rsvFor := some r })) s)

/-! ## Placement and idle cores (R366, R368, R369, R373) -/

/-- A core is emptied, woken, or left as it is, by its cost (R368). -/
def State.direct (s : State) (k cost : Nat) : State :=
  if cost = 284 then s.preempt k .priority
  else if cost = 0 then s
  else { s with agenda := s.agenda ++ [.islandWake k] }

/-- Placement of a group: the cores that it would take are kept for it, and those that are not free are emptied or woken (R366,
R368; that they are kept for it is DEDUCED, log 91). -/
def State.placeGroup (s : State) (q : Rec) : State :=
  match s.groupOf q with
  | none => s
  | some g => match s.groupPlan q g with
    | none => s
    | some l =>
      if (q.k == .source && !s.firstInList q) || l.all (·.2 = 0) then s
      else l.foldl (fun s e => (s.modCore e.1 (fun c => { c with rsvFor := some q.id })).direct e.1 e.2) s

/-- RECORD_PLACEMENT: the least-cost serving core is directed, woken or pre-empted. -/
def execRecordPlacement (r : Nat) (s : State) : Out :=
  match s.rec? r with
  | none => .next s
  | some q => match s.placement q with
    | some (k, cost) => .next ((s.direct k cost).modRec r (fun q => { q with placed := if cost = 284 then some k else none }))
    | none => .next (s.placeGroup q)

/-- Every live context of a core's unit waits: in IDLE, or before issue (R302). -/
def State.allWait (s : State) (k : Nat) : Bool :=
  let c := s.coreAt k
  c.st == .running && c.halt.isNone && (s.unitAt c.thread).ctxs.all (fun e => !e.2.live || (e.2.wait != .no && e.2.wait != .woken))

/-- A clock-gated core has a candidate that no core asks for and that placement does not look at, since it is not first in its list
(R368, R373). -/
def State.missed (s : State) (k : Nat) : Bool :=
  let c := s.coreAt k
  c.gated && c.st == .idle && c.sel.isNone && !s.gated.contains (s.physCore k / 16) && !s.clusOff.contains (s.physCore k / 64) &&
  match s.choose k with
  | some r => !s.firstInList r && !(s.asking r.bucket).any (fun j => (s.choose j).map (·.id) == some r.id)
  | none => false

/-- CORE_CLOCK_GATE: a core with no candidate gates after 64 clk where its slot's PWR allows it, and one whose unit waits with every
context gates too; a gated one wakes for a candidate that nothing else would bring it (R302, R373). -/
def execCoreClockGate (core : Nat) (s : State) : Out :=
  let c := s.coreAt core
  let idle := s.free core && c.idleSince + 64 ≤ s.clk && 1 ≤ (s.slotOf core).pwr && (s.choose core).isNone
  .next (if idle || s.allWait core then s.modCore core (fun c => { c with gated := true })
    else if s.missed core then s.modCore core (fun c => { c with gated := false, idleSince := s.clk }) else s)

/-- RECORD_FRAME_RETRY: a POST or SUSP asks for a frame again. -/
def execRecordFrameRetry (core ctx : Nat) (s : State) : Out :=
  let c := s.coreAt core
  let x := (s.unitAt c.thread).ctxAt ctx
  .next (if c.st == .running && x.wait == .frame && x.waitSince + 64 ≤ s.clk then
    s.modCtx c.thread ctx (fun x => { x with wait := .frameDue }) else s)

end Sys2Proof.Machine
end

