-- ==== Sys2Proof/Machine/System.lean ====
section
/-!
DEFINITION. Poison, signatures, upcalls and system instructions (R281 to R305); STC stands with ST.
-/
namespace Sys2Proof.Machine

/-! ## Testing and clearing poison (R283) -/

/-- The P bit of a register, or of its queue's head, becomes b. -/
def GReg.mark (r : GReg) (b : Bool) : GReg :=
  if r.depth = 0 then { r with p := b } else { r with q := modNth (fun v => { v with p := b }) 0 r.q }

/-- The P bit of a general or shadow register becomes b. -/
def State.markOpd (s : State) (b : Bool) : Opd → State
  | .g n => s.setCx (s.cx.setReg n.toNat ((s.cx.reg n.toNat).mark b))
  | .x k => s.setCx (s.cx.setX k.toNat { s.cx.xreg k.toNat with p := b })
  | .link _ => s | .imm => s | .rsv _ => s

/-- PCHK. -/
def execPchk (d a : Opd) (ta : Bool) (s : State) : Out :=
  scalar s ⟨[(a, ta)], some d, 0, fun _ => none, fun vs => ⟨if (vat vs 0).p then 1 else 0, false⟩⟩
/-- PCLR. -/
def execPclr (d : Opd) (s : State) : Out :=
  control s ⟨[(d, false)], 0, fun _ => none, fun s _ => (s.markOpd false d).retire⟩
/-- PSET. -/
def execPset (d : Opd) (s : State) : Out :=
  control s ⟨[(d, false)], 0, fun _ => none, fun s _ => (s.markOpd true d).retire⟩

/-! ## SIG (R286, R287) -/

/-- SIG: a mismatch is a signature fault in place of it; otherwise it arms the checker, and is itself not fed. -/
def execSig (v : BitVec 24) (s : State) : Out :=
  control s ⟨[], 0, fun _ => none, fun s _ =>
    let c := s.cx
    if c.assay.armed && c.assay.c != c.assay.e then s.sigFault c.pc c.pc
    else (s.setCx { c with pc := s.nextPc, wait := .no, assay := ⟨true, v, 0xFFFFFF⟩ }).pm s.th 1 c.priv⟩

/-! ## Upcalls and traps (R290 to R297) -/

/-- A return to another address discards the resume state of an interrupted instruction (R207, R235). -/
def Ctx.goTo (c : Ctx) (a : Word) : Ctx :=
  { c with pc := a, wait := .no, vres := if c.vres.kind != 0 && c.vres.addr == a then c.vres else .none }

/-- UPRET. -/
def execUpret (s : State) : Out :=
  control s ⟨[], 0,
    fun _ => firstExc [(!s.cx.uact, .trap (cz 0xE03) s.ip), (!targetOk s.cx.upc, .trap (cz 0x401) s.cx.upc)],
    fun s _ =>
      let c := s.cx
      (s.setCx { c.goTo c.upc with uact := false, assay := if c.upcSame then c.assayU else c.assay.disarm }).pm s.th 1 c.priv⟩

/-- UPMASK. -/
def execUpmask (o : Un) (s : State) : Out :=
  scalarE s ⟨[(o.a, o.ta)], some o.d, sx16 o.imm, fun vs => firstExc [((vat vs 0).p, .consume (cz 0xA0A) s.ip)],
    fun _ => ⟨if s.cx.uen then 1 else 0, false⟩⟩
    (fun vs t => t.setCx { t.cx with uen := (vat vs 0).v.getLsbD 0 })

/-- TRAP n: it retires, and then raises F00 + n (R291). -/
def execTrap (n : BitVec 5) (s : State) : Out :=
  control s ⟨[], 0, fun _ => none, fun s _ => s.retire.trap (BitVec.ofNat 9 (0x1E0 + n.toNat)) s.nextPc s.ip⟩

/-- E01 in user mode. -/
def State.supChk (s : State) : Bool × Exc := (!s.cx.priv, .trap (cz 0xE01) s.ip)

/-- TRET. -/
def execTret (s : State) : Out :=
  control s ⟨[], 0,
    fun _ => firstExc [s.supChk, (!targetOk s.cx.tpc, .trap (cz 0x401) s.cx.tpc)],
    fun s _ =>
      let c := s.cx
      (s.setCx { c.goTo c.tpc with priv := c.tpprv, assay := if c.tpcSame then c.assayT else c.assay.disarm }).pm
        s.th 1 c.priv⟩

/-! ## CSRs (R298) -/

/-- CSRR. -/
def execCsrr (d : Opd) (n : BitVec 12) (s : State) : Out :=
  scalar s ⟨[], some d, 0, fun _ => firstExc (s.csrReadChk n.toNat), fun _ => ⟨s.csrRead n.toNat, false⟩⟩

/-- CSRW. -/
def execCsrw (a : Opd) (ta : Bool) (n : BitVec 12) (s : State) : Out :=
  drawing s (n == 0x010) <| control s ⟨[(a, ta)], 0,
    fun vs => firstExc (s.csrReadChk n.toNat ++ [((vat vs 0).p, .consume (cz 0xA0A) s.ip)]),
    fun s vs => (s.csrPut n.toNat (vat vs 0).v).retire⟩

/-! ## Translation invalidation and L2 flush (R299 to R301) -/

/-- End of the n bytes from a as a 57-bit address: clipped at the top of the canonical space (R299). -/
def rangeEnd (a : Word) (n : Nat) : Nat :=
  let e := min (2 ^ 64) (a.toNat + n)
  if e ≤ 2 ^ 56 then e else if e ≤ 2 ^ 64 - 2 ^ 56 then 2 ^ 56 else e - (2 ^ 64 - 2 ^ 57)

/-- What an invalidation names: address spaces, and a range of 57-bit addresses. -/
structure InvScope where
  asid : Option Nat
  part : Nat
  lo : Nat
  hi : Nat
deriving DecidableEq, Repr

/-- A translation is named. -/
def InvScope.names (k : InvScope) (t : Trans) : Bool :=
  (match k.asid with
    | some a => t.asid == a || (t.glob && t.part == k.part)
    | none => t.part == k.part) && k.lo < k.hi && t.base < k.hi && k.lo < t.base + t.size

/-- An address of an address space is named, by itself or through a translation that is named, a global one of another address
space among them (R299, R301, R339). -/
def State.named (s : State) (k : InvScope) (asid va : Nat) : Bool :=
  (match k.asid with
    | some a => asid == a
    | none => s.asPart asid == k.part) && k.lo ≤ va && va < k.hi ||
  s.tcs.any (fun t => k.names t && t.serves (s.asPart asid) asid va)

/-- The access has been translated and is not yet performed, here or at another chip (R301). -/
def Req.translated (r : Req) : Bool :=
  match r.phase with
  | .accepted => true | .heldGang => true | .listed => true | .sent => true | .refused => true | .released => true
  | .issued => false | .frozen => false | .performed => false

/-- Its address is one of this chip's page tables: a sharded access at another owner carries the owner's address (R190). -/
def Req.walked (r : Req) : Bool :=
  match r.tgt with
  | .peer _ => r.map.isNone
  | .dev _ => true | .host _ => true | .mmio _ => true

/-- Purge what an invalidation names: translations, and L2 lines under its pages; answers the accesses that it waits for
(R301 items 1, 2 and 4). A FLAGF translates afresh when it writes (R192): one that has been sent to its home is waited for. -/
def State.invalidate (s : State) (k : InvScope) : State × List Nat :=
  let hit (asid va : Nat) : Bool := s.named k asid (va % 2 ^ 57)
  let waits := (s.reqs.filter (fun r => r.translated && (r.k != .flag || r.phase == .sent) && r.walked && hit r.asid r.ea.toNat)).map (·.id)
  let s := s.l2Drop (some k.part) (fun l => hit l.asid (l.vline * 64))
  (s.purge k.names, waits)

/-- The next number of the context's invalidation sequence is in progress (R299). -/
def State.startInv (s : State) (waits : List Nat) : State :=
  let c := s.cx
  let n := c.invIss + 1
  let v : Inval := ⟨s.th, s.un.key, s.ctx, n.toNat, waits⟩
  let s := s.setCx { c with invIss := n }
  { s with invs := s.invs ++ [v] }

/-- Scope of a TINV. -/
def tinvScope (part : Nat) (scope : Nat) (d a b : Word) : InvScope :=
  match scope with
  | 0 => ⟨some (d.toNat % 65536), part, a.toNat % 2 ^ 57, rangeEnd a b.toNat⟩
  | 1 => ⟨some (d.toNat % 65536), part, 0, 2 ^ 57⟩
  | _ => ⟨none, part, 0, 2 ^ 57⟩

/-- TINV: it stands behind its context's own accesses, a store to a page table among them, so that what it purges is not walked again
from the old entry (R301, R307). -/
def execTinv (d a b : Opd) (scope : BitVec 2) (s : State) : Out :=
  let part := s.un.part
  if s.runs && s.cx.priv && s.owes then .next (s.waits .hold)
  else control s ⟨[(d, false), (a, false), (b, false)], 0,
    fun vs => firstExc [s.supChk, (anyP vs, .consume (cz 0xA03) s.ip), (!canonical (vat vs 1).v, .trap (cz 0x403) (vat vs 1).v),
      (scope != 2 && s.asPart ((vat vs 0).v.toNat % 65536) != part,
        .trap (cz 0xE04) (BitVec.ofNat 64 ((vat vs 0).v.toNat % 65536)))],
    fun s vs =>
      let r := s.invalidate (tinvScope part scope.toNat (vat vs 0).v (vat vs 1).v (vat vs 2).v)
      (r.1.startInv r.2).retire⟩

/-- TSYNC. -/
def execTsync (s : State) : Out :=
  if s.runs && s.cx.priv && s.cx.invDone != s.cx.invIss then .next (s.waits .tsync)
  else control s ⟨[], 0, fun _ => firstExc [s.supChk], fun s _ => s.retire⟩

/-- The lines of a partition are written back, and with drop invalidated (R300). -/
def State.flushL2 (s : State) (part : Nat) (drop : Bool) : State :=
  let own (l : L2Line) : Bool := if s.l2Priv then (s.sliceList part).contains l.slice else s.asPart l.asid == part
  if drop then s.l2Drop (some part) own
  else
    let dirty := (s.l2.filter (fun l => own l && l.dirty)).map (·.pa)
    let s := dirty.foldl (fun s ln => s.stkPut (some part) ln true false false) (s.verify (some part) 0 dirty)
    { s with l2 := s.l2.map (fun l => if own l then { l with dirty := false } else l) }

/-- L2FL. -/
def execL2fl (mode : Bool) (s : State) : Out :=
  control s ⟨[], 0, fun _ => firstExc [s.supChk], fun s _ => ((s.flushL2 s.un.part mode).startInv []).retire⟩

/-- INVALIDATION_COMPLETE: the oldest invalidation of a context completes when no access through it is left (R301). -/
def execInvalidationComplete (thread ctx : Nat) (s : State) : Out :=
  let mine (v : Inval) : Bool := v.thread == thread && v.ctx == ctx
  match s.invs.find? mine with
  | none => .next s
  | some v =>
    if v.waits.any (fun i => s.reqs.any (fun r => r.id == i && r.phase != .performed)) then .next s
    else
      let s : State := { s with invs := dropFirst mine s.invs }
      .next (if (s.thr thread).key == v.key && (s.thr thread).st != .closed then
        s.modCtx thread ctx (fun c => { c with invDone := BitVec.ofNat 32 v.no }) else s)

/-! ## IDLE (R302) -/

/-- IDLE: it waits for a landing or a notice of its context, or for a halt. -/
def execIdle (s : State) : Out :=
  if s.runs && s.cx.wait != .woken then .next (s.waits .idle)
  else control s ⟨[], 0, fun _ => none, fun s _ => s.retire⟩

end Sys2Proof.Machine
end

