-- ==== Sys2Proof/Machine/HostPort.lean ====
section
/-!
DEFINITION. The host's side: monitors and page requests, ATS, host accesses through HDM and the alias aperture, notify pages
and windows, registers without a row of their own, completion and log entries, and function-level reset (R5, R313, R314,
R340, R353 to R359, R406, R421, R424 to R432).
-/
namespace Sys2Proof.Machine

/-! ## Monitors, page requests and ATS (R340, R421, R428) -/

/-- A notice packet to the endpoint whose request was parked (R417, R421). -/
def State.sendNotice (s : State) (m : Monitor) : State :=
  let p : Packet :=
    { pmask := 0, status := 0, tag := m.key, nl := 0, sz := 3, sm := 0, aop := 0, lo := 0, sh := false, typ := 0x11, asid := m.asid
      tenant := (s.part m.part).tenant, src := s.peer * 4096, dst := m.thread, addr := m.va, payload := [] }
  s.sendPacket m.chip p

/-- The watched entry reads V = 1, or has read so since the monitor was armed (R340). -/
def State.fires (s : State) (m : Monitor) : Bool :=
  m.hit || (match m.pte with | some a => (s.mem.read a 8).testBit 0 | none => false)

/-- MONITOR_FIRE: a write has left the watched entry with V = 1. -/
def execMonitorFire (i : Nat) (s : State) : Out :=
  match s.monitors[i]? with
  | none => .next s
  | some m => match m.pte with
    | none => .next s
    | some _ =>
      if !s.fires m then .next s
      else
        let s : State := { s with monitors := dropNth i s.monitors }
        .next (if m.chip == s.peer then s.notify m.thread m.key m.ctx (cz 0x508) m.va else s.sendNotice m)

/-- PRI_RESPONSE: the parked contexts of the page get 608, and a request that waits inside the device goes out; after a success the page's
translation is held, and a refusal is kept for the replay. -/
def execPriResponse (part asid : Nat) (va : Word) (ans : PriAns) (s : State) : Out :=
  if !s.priOut.contains (part, asid, va) then .next s
  else
    let hit (m : Monitor) : Bool := m.pte.isNone && m.chip == s.peer && m.part == part && m.asid == asid && m.va == va
    let told := s.monitors.filter hit
    let s : State := { s with priOut := s.priOut.filter (· != (part, asid, va)), monitors := s.monitors.filter (!hit ·) }
    let s := told.foldl (fun s m => s.notify m.thread m.key m.ctx (cz 0x608) m.va) s
    .next ((match ans with
      | .success page => s.keepHost asid va.toNat page
      | .invalidRequest => { s with priRefused := s.priRefused ++ [(part, asid, va)] }
      | .responseFailure => s.modPart part (fun e => { e with priFail := true })).priNext part)

/-- ATS_INVALIDATION: purged at once, complete when the accesses already translated have been performed (R301, R428). -/
def execAtsInvalidation (part asid : Nat) (va len : Word) (s : State) : Out :=
  let k : InvScope := ⟨some asid, part, va.toNat % 2 ^ 57, rangeEnd va len.toNat⟩
  let r := s.invalidate k
  let gone (e : Nat × Nat × Word) : Bool := e.1 == part && e.2.1 == asid && k.lo ≤ e.2.2.toNat % 2 ^ 57 && e.2.2.toNat % 2 ^ 57 < k.hi
  let v : Inval := ⟨0, 0, 0, 0, r.2⟩
  .next { r.1 with invs := r.1.invs ++ [v], priRefused := r.1.priRefused.filter (!gone ·) }

/-! ## Host accesses (R313, R425 to R427, R433) -/

/-- n bytes at a are backed GDDR7, which is all that the HDM decoders expose (R426). -/
def State.hdm (s : State) (a n : Nat) : Bool := a + n ≤ s.gdev * gddrStep

/-- The partition that owns a device address. -/
def State.ownerOf (s : State) (a : Nat) : Option Nat :=
  (s.parts.find? (fun e => e.2.owned.any (fun r => r.1 ≤ a && a < r.1 + r.2))).map (·.1)

/-- The L2's copies of the lines go back before a host access (R313), which sees the package's own tables as they stand (R336). -/
def State.recall (s : State) (a n : Nat) : State :=
  (s.showTables a n).l2Drop none (fun l => (linesOf a n).contains l.pa)

/-- What the host is given when nothing answers. -/
def allOnes (n : Nat) : List Byte := (upto n).map (fun _ => 0xFF#8)

/-- A poisoned line that the host has read is reported to its owner (R430). -/
def State.reportRead (s : State) (line : Nat) : State :=
  if !s.mem.anyPoison (64 * line) 64 then s
  else match s.ownerOf (64 * line) with
    | some p => s.poisonReport p line
    | none => s

/-- The device address that a host address reaches behind the HDM decoders; n bytes of it are backed GDDR7 (R426). -/
def State.hdmAt (s : State) (addr n : Nat) : Option Nat :=
  if s.hdmBase ≤ addr && s.hdm (addr - s.hdmBase) n then some (addr - s.hdmBase) else none

/-- Device memory comes for the host: the L2's copies go back, and the lines leave with their hallmarks verified (R313, R327). -/
def State.hostCome (s : State) (a n : Nat) : State := (s.recall a n).verify (s.ownerOf a) 5 (linesOf a n)

/-- The host is given bytes, with CXL poison or not. -/
def State.giveHost (s : State) (l : List Byte) (p : Bool) : State := { s with hostData := l, hostPoison := p }

/-- n bytes of device memory are read by the host, with CXL poison for a line with a poisoned granule (R426, R430). -/
def State.hostDev (s : State) (a n : Nat) : State :=
  let s := s.hostCome a n
  let lines := linesOf a n
  lines.foldl State.reportRead (s.giveHost (s.mem.bytesAt a n) (lines.any (fun k => s.mem.anyPoison (64 * k) 64)))

/-- The device word behind an offset of the alias aperture (R427). -/
def State.aliasWord (s : State) (off : Nat) : Option Nat :=
  if off < 0x20000 && s.hdm s.awin 0x10000 then some (s.awin + off / 16 * 8) else none

/-- Byte of the alias aperture at an offset: the word's data, then its full/empty bit and its poison (R427). -/
def State.aliasByte (s : State) (off : Nat) : Byte :=
  match s.aliasWord off with
  | none => 0xFF#8
  | some a =>
    if off % 16 < 8 then Memory.byte s.mem.bytes (a + off % 16)
    else if off % 16 = 8 then BitVec.ofNat 8 ((if s.mem.isFull (a / 8) then 1 else 0) + (if s.mem.poisoned (a / 8) then 2 else 0))
    else 0#8

/-- A read of the alias aperture is a read of the words behind it: what the L2 has of them goes back first, and a poisoned line is reported
(R313, R427, R430). -/
def State.hostAlias (s : State) (off n : Nat) : State :=
  let words := ((upto n).filterMap (fun i => s.aliasWord (off + i))).foldl (fun l a => setIns a l) []
  let s := words.foldl (fun s a => s.hostCome a 8) s
  let s := s.giveHost ((upto n).map (fun i => s.aliasByte (off + i))) false
  (words.foldl (fun l a => setIns (a / 64) l) []).foldl State.reportRead s

/-- BOOTST (R435). -/
def Boot.bootst (b : Boot) : Nat :=
  b.stage % 16 + b.slot % 16 * 2 ^ 4 + b.errb % 256 * 2 ^ 8 + b.erra % 256 * 2 ^ 16 + b.fuseSvn % 256 * 2 ^ 24

/-- The doublewords of the control page of BAR 2: AWIN, BOOTST, the module power register; the rest reads 0 (R427, R435, R439; DESIGN CHOICE,
log 66). -/
def State.ctlWord (s : State) (off : Nat) : Nat :=
  if off = 0x00 then s.awin
  else if off = 0x08 then s.boot.bootst
  else if off = 0x40 then s.mcap % 2 ^ 11 + s.mdraw % 2 ^ 16 * 2 ^ 32
  else 0

/-- Doubleword i of a function's MSI-X table: of each vector its address, then its data and its control, masked from reset (R429; PRESUMED,
log 98). -/
def Part.msixWord (p : Part) (i : Nat) : Word := p.msix.get (if i % 2 = 1 then 0x100000000#64 else 0) i

/-- n bytes from an offset of a page of doublewords. -/
def pageBytes (f : Nat → Nat) (off n : Nat) : List Byte :=
  (upto n).map (fun i => BitVec.ofNat 8 (f ((off + i) / 8 * 8) / 256 ^ ((off + i) % 8)))

/-- HOST_MEM_READ: memory answers from step 7, and the functions' BARs, which are CXL.io, from the end of step 1; what nothing answers reads
as all ones (R426, R427, R429, R433; log 66). -/
def execHostMemRead (addr : HostPlace) (len : Nat) (s : State) : Out :=
  let none_ : State := s.giveHost (allOnes len) false
  .next (match addr with
    | .hdm a => if s.boot.stage < 7 then none_ else match s.hdmAt a len with | some d => s.hostDev d len | none => s
    | .bar0 p off =>
      if s.boot.stage = 0 || 16 ≤ p || 0x100000 < off + len || (len != 4 && len != 8) || off % len != 0 then none_
      else s.giveHost (natLine len (s.devLoad (p * 0x100000 + off) len)) false
    | .msix p off =>
      if s.boot.stage = 0 || 16 ≤ p then none_
      else s.giveHost (pageBytes (fun o => if o < 48 then ((s.part p).msixWord (o / 8)).toNat else 0) off len) false
    | .aperture off => if s.boot.stage = 0 || 0x100000 < off + len then none_ else s.hostAlias off len
    | .ctl off => if s.boot.stage = 0 then none_ else s.giveHost (pageBytes s.ctlWord off len) false)

/-- HOST_MEM_WRITE: full/empty bits stay as they are. -/
def execHostMemWrite (addr : Nat) (bytes : List Byte) (poison : Bool) (s : State) : Out :=
  match (if s.boot.stage < 7 then none else s.hdmAt addr bytes.length) with
  | none => .next s
  | some a =>
    let s := s.recall a bytes.length
    .next { s with mem := s.mem.writeRun a (bytes.map (·, poison)) }

/-- HOST_LOCKED_RMW: one event on an aligned word of device memory, whose line leaves for the host (R313, R327); a poisoned line that it
reads is reported (R430). -/
def execHostLockedRmw (addr : Nat) (op : AOp) (v : Word) (s : State) : Out :=
  if s.boot.stage < 7 then .next (s.giveHost (allOnes 8) false)
  else match (if addr % 8 = 0 then s.hdmAt addr 8 else none) with
    | none => .next s
    | some a =>
      let s := (s.hostCome a 8).reportRead (a / 64)
      let old := s.mem.read a 8
      let p := s.mem.anyPoison a 8
      .next { s.giveHost (natLine 8 old) p with mem := s.mem.write a 8 (atomicNew op 8 old v.toNat) (op != .swap && p) }

/-- What the host then does to the line, whose first byte is at a: each is one event in the order of the line (R313). -/
def State.hostAct (s : State) (a : Nat) : HostAct → State
  | .look => s
  | .read off len =>
    if 64 < off + len then s
    else { s with hostData := s.hostMem.bytesAt (a + off) len, hostPoison := s.hostMem.anyPoison a 64 }
  | .write off bytes poison =>
    if 64 < off + bytes.length then s else { s with hostMem := s.hostMem.writeRun (a + off) (bytes.map (·, poison)) }
  | .rmw off op v =>
    if off % 8 != 0 || 64 ≤ off then s
    else
      let old := s.hostMem.read (a + off) 8
      let p := s.hostMem.anyPoison (a + off) 8
      { s with
        hostData := natLine 8 old, hostPoison := p
        hostMem := s.hostMem.write (a + off) 8 (atomicNew op 8 old v.toNat) (op != .swap && p) }

/-- HOST_SNOOP: every device copy of a host line is recalled before the answer; with it goes what the host wanted the line for, a
read, a write or a locked read-modify-write of its own memory (R313, R425). -/
def execHostSnoop (q : Nat × HostAct) (s : State) : Out :=
  let line := q.1
  let s := s.hostRecall line
  .next (({ s with edge := s.edge.filter (· != line), snooped := s.snooped + 1 } : State).hostAct (64 * line) q.2)

/-- ALIAS_DATA_WRITE: data, full, clean, in one event. -/
def execAliasDataWrite (off : Nat) (v : Word) (s : State) : Out :=
  match (if off % 16 = 0 && 1 ≤ s.boot.stage then s.aliasWord off else none) with
  | none => .next s
  | some a =>
    let s := s.recall a 8
    .next ({ s with mem := (s.mem.writeClean a 8 v.toNat).setFull (a / 8) true }.wordChanged (a / 8))

/-- ALIAS_FULL_EMPTY_WRITE: the word's full/empty bit, and nothing else. -/
def execAliasFullEmptyWrite (off : Nat) (v : Word) (s : State) : Out :=
  match (if off % 16 = 8 && 1 ≤ s.boot.stage then s.aliasWord off else none) with
  | none => .next s
  | some a =>
    let s := s.recall a 8
    .next ({ s with mem := s.mem.setFull (a / 8) (v.getLsbD 0) }.wordChanged (a / 8))

/-! ## Notify pages, windows, reports (R334, R354, R358, R359, R364, R430) -/

/-- NOTIFY_PROD_WRITE. -/
def execNotifyProdWrite (part ring : Nat) (v : BitVec 32) (s : State) : Out :=
  .next (if part < 16 && ring < 254 then s.ringWrite part ring 0x000 v.toNat else s)
/-- NOTIFY_ERR_CLEAR. -/
def execNotifyErrClear (part ring : Nat) (s : State) : Out :=
  .next (if part < 16 && ring < 254 then s.ringWrite part ring 0x010 (2 ^ 63) else s)
/-- NOTIFY_REPRIORITISE: NPRIO in bits 38:32, NLAUNCH in bits 31:0. -/
def execNotifyReprioritise (part ring : Nat) (v : Word) (s : State) : Out :=
  .next (if part < 16 && ring < 254 then s.ringWrite part ring 0x018 v.toNat else s)

/-- A partition may write a window. -/
def State.ownsWindow (s : State) (part w : Nat) : Bool := w < 64 && (s.window w).part == part && !(s.part part).inReset

/-- WINDOW_ENABLE. -/
def execWindowEnable (part w : Nat) (s : State) : Out := .next (if s.ownsWindow part w then s.enableWindow w else s)
/-- WINDOW_DISABLE. -/
def execWindowDisable (part w : Nat) (s : State) : Out := .next (if s.ownsWindow part w then s.disableWindow w else s)
/-- POISON_REPORT_CLEAR. -/
def execPoisonReportClear (part : Nat) (s : State) : Out := .next (if part < 16 then s.mmioWrite part 0x0C0 (2 ^ 63) else s)

/-! ## Registers without a row of their own (R5) -/

/-- The fields of the scheduling register that Treleveber owns (R357). -/
def Part.ownSched (p : Part) (v : Nat) : Part :=
  let hi := fieldOf v 49 7
  let lo := fieldOf v 42 7
  { p with phi := if lo ≤ hi then hi else p.phi, plo := if lo ≤ hi then lo else p.plo, pool := fieldOf v 0 24 }

/-- Share register: its reserved fields read 0 (R431). -/
def shareWord (v : Nat) : Nat := v % 2 ^ 24 + fieldOf v 30 18 * 2 ^ 30

/-- Device memory from a base goes to a partition; no bytes takes it away. -/
def State.assign (s : State) (part base n : Nat) : State :=
  let s : State := { s with parts := s.parts.map (fun e => (e.1, { e.2 with owned := e.2.owned.filter (·.1 != base) })) }
  if n = 0 then s else s.modPart part (fun e => { e with owned := e.owned ++ [(base, n)] })

/-- A partition's PART in an address-space entry is written (R337). -/
def State.setAsPart (s : State) (asid p : Nat) : State :=
  let a := s.asBase + 64 * (asid % 65536)
  { s with mem := s.mem.write a 1 (setField (s.mem.read a 1) 1 4 p) false }

/-- REGISTER_WRITE: each register takes a write from the writer that may write it; every other write is ignored. The host and the functions'
drivers write through CXL.io, which answers from the end of step 1 (R433). -/
def execRegisterWrite (by_ : Writer) (r : RegName) (v : Word) (s : State) : Out :=
  let n := v.toNat
  if by_ != .treleveber && s.boot.stage = 0 then .next s
  else .next (match by_, r with
    | .treleveber, .sched p => if p < 16 then s.modPart p (·.ownSched n) else s
    | .supervisor q, .sched p => if q = p && p < 16 then s.mmioWrite p 0x380 n else s
    | .supervisor q, .ring p k off => if q = p && p < 16 && k < 254 then s.ringWrite p k off n else s
    | .treleveber, .winReg w 0 =>
      if 64 ≤ w || (s.window w).en then s else s.setWindow w { s.window w with part := fieldOf n 52 4, fold := 0 }
    | .supervisor q, .winReg w k => if s.ownsWindow q w && k < 5 then s.writeWindow w k n else s
    | .supervisor q, .fold w => if s.ownsWindow q w then s.setWindow w { s.window w with fold := n % 2 ^ 48 } else s
    | .supervisor q, .logReg p off => if q = p && p < 16 && 0x100 ≤ off && off ≤ 0x120 then s.mmioWrite p off n else s
    | .supervisor q, .complReg p off => if q = p && p < 16 && 0x200 ≤ off && off ≤ 0x218 then s.mmioWrite p off n else s
    | .treleveber, .share p => if p < 16 then s.modPart p (fun e => { e with share := BitVec.ofNat 64 (shareWord n) }) else s
    | .supervisor q, .stageCmd p => if q = p && p < 16 then s.mmioWrite p 0x390 n else s
    | .supervisor q, .victimReq p hi => if q = p && p < 16 then s.victimWrite p s.un.asid (if hi then 8 else 0) n else s
    | .treleveber, .reach p peer =>
      if p < 16 && peer < 1024 then s.modPart p (fun e => { e with reach := setPut (n.testBit 0) peer e.reach }) else s
    | .treleveber, .tenant p => if p < 16 then s.modPart p (fun e => { e with tenant := n % 65536 }) else s
    | .physFunction, .awin => { s with awin := fieldOf n 16 32 * 65536 }
    | .treleveber, .islandCap i => if i < 288 then { s with islands := s.islands.set i { s.islands.get .reset i with cap := n % 65536 } } else s
    | .host, .priEnable p => if p < 16 && n.testBit 0 then s.modPart p (fun e => { e with priFail := false }) else s
    | .host, .priAlloc p => if p < 16 then (s.modPart p (fun e => { e with priAlloc := n % 2 ^ 32 })).priNext p else s
    | .host, .hdmBase => { s with hdmBase := n }
    | .host, .msix p i => if p < 16 && i < 6 then s.modPart p (fun e => { e with msix := e.msix.set i v }) else s
    | .treleveber, .asPart a => s.setAsPart a n
    | .physFunction, .memRange p base => if p < 16 then s.assign p base n else s
    | _, _ => s)

/-! ## Completion entries and the supervisor log (R314, R406, R407, R430) -/

/-- Something of thread t under a key belongs to job j; of a life that has given its number to another, the job is not known, and it
counts for every job of its partition. -/
def State.ofJob (s : State) (p j t key : Nat) : Bool :=
  (s.thr t).key != key || (s.launchAt (inPart p (s.thr t).launch)).job == j

/-- An event of a unit of the job has not been performed yet: an access, a landing in flight or held in a landing buffer or a hold list
(R312), an operation of its engines, or a unit of a cancelled job that still stands on its core (R314). -/
def State.jobOwes (s : State) (p j : Nat) : Bool :=
  let owed (l : Landing) : Bool := l.schip == s.peer && l.spart == p && s.ofJob p j l.sthread l.skey
  s.reqs.any (fun r => r.tag == none && r.thread != 0 && r.part == p && r.phase != .performed && s.ofJob p j r.thread r.key) ||
  s.flight.any owed || s.cores.any (fun e => e.2.lbuf.any owed) || s.threads.any (fun e => e.2.hold.any owed) ||
  s.threads.any (fun e => e.2.part == p && s.ofJob p j e.1 e.2.key && (e.2.st != .closed || !e.2.ops.isEmpty))

/-- JOB_COMPLETION: job names its partition and its identifier. With completions off no entry is written; ans is the host's answer
for the page of the ring, and an entry waits for one (R428, R430). -/
def execJobCompletion (job : Nat × HostAns) (s : State) : Out :=
  let p := job.1 / 2 ^ 32
  let j := job.1 % 2 ^ 32
  let e := s.part p
  match e.jobsDone.find? (·.1 == j) with
  | none => .next s
  | some d =>
    if s.jobOwes p j then .next s
    else
      let s' := s.modPart p (fun e => { e with jobsDone := dropFirst (·.1 == j) e.jobsDone })
      if !e.cen then .next (s'.irq p 0)
      else if 2 ^ e.clog ≤ (e.cprod + 2 ^ 32 - e.ccons) % 2 ^ 32 then .next s
      else
        let a := e.cbase.toNat + 16 * (e.cprod % 2 ^ e.clog)
        let s' := s'.keepHost e.casid a job.2
        if s'.untold e.casid a then .next s
        else
        let s' := s'.vwrite e.casid a 16 (j + (if d.2 then 2 ^ 63 else 0)) false
        .next ((s'.modPart p (fun e => { e with cprod := (e.cprod + 1) % 2 ^ 32 })).irq p 0)

/-- A log entry as a number (R407). -/
def LogEnt.nat (l : LogEnt) : Nat :=
  l.cause.toNat + l.evt % 256 * 2 ^ 16 + l.detail % 256 * 2 ^ 64 + l.launch % 2 ^ 32 * 2 ^ 72 + l.thread % 2 ^ 24 * 2 ^ 104 +
  l.addr.toNat * 2 ^ 128 + l.time % 2 ^ 64 * 2 ^ 192

/-- LOG_ENTRY_WRITE: with the log off the entry is dropped; with the ring full it is dropped and counted. -/
def execLogEntryWrite (part : Nat) (s : State) : Out :=
  let e := s.part part
  match e.logq with
  | [] => .next s
  | l :: rest =>
    let s := s.setPart part { e with logq := rest }
    if !e.len then .next s
    else if 2 ^ (e.llog + 6) ≤ (e.lprod + 2 ^ 32 - e.lcons) % 2 ^ 32 then
      .next (s.modPart part (fun e => { e with llost := min (2 ^ 48 - 1) (e.llost + 1) }))
    else
      let a := e.lbase.toNat + 32 * (e.lprod % 2 ^ (e.llog + 6))
      let s : State := { s with mem := s.mem.write a 32 l.nat false }
      .next ((s.modPart part (fun e => { e with lprod := (e.lprod + 1) % 2 ^ 32 })).irq part 1)

/-! ## Function-level reset (R432) -/

/-- Threads of a partition that have not ended. -/
def State.threadsIn (s : State) (p : Nat) : List Nat :=
  (s.threads.filter (fun e => e.2.part == p && (e.2.st != .closed || !e.2.ops.isEmpty))).map (·.1)

/-- A stage goes without its records. -/
def State.dropStage (s : State) (k : Nat) : State :=
  let s := s.modStage k (fun r => { r with insts := r.insts.map (fun i => (i.1, { i.2 with thread := 0 })) })
  let s := ((s.stageAt k).insts.map (·.1)).foldl (fun s i => s.endInstance k i) s
  let s := s.modStage k (fun _ => .reset)
  match s.stageEnt (k / 256) (k % 256) with
  | some n => s.vwrite (k / 256) (s.stageVa (k / 256) (k % 256)) 64 (setField n 319 1 0) false
  | none => s

/-- What Treleveber owns of a partition stays; the rest returns to its reset values. -/
def Part.flr (e : Part) : Part :=
  { Part.reset with
    phi := e.phi, plo := e.plo, pool := e.pool, poolBase := e.poolBase, csaBase := e.csaBase, tvec := e.tvec, tenant := e.tenant
    reach := e.reach, owned := e.owned, share := e.share }

/-- Steps 3 to 5 of a reset, once no unit of the partition is left. -/
def State.flrEnd (s : State) (p : Nat) : State :=
  let s := (s.threadsIn p).foldl (fun s t => (s.endThread t .reset 7).flushOps t 7) s
  let lost := s.reqs.filter (fun r => r.part == p && r.phase == .listed && r.tag.isSome)
  let s : State := { s with reqs := s.reqs.filter (fun r => !(r.part == p && r.phase == .listed)) }
  let s := lost.foldl (fun s r => match r.tag with | some g => s.respond g 0x10 4 [] 0 | none => s) s
  let s := ((s.stages.filter (fun e => e.2.inst && e.2.part == p)).map (·.1)).foldl State.dropStage s
  let s := ((upto 64).filter (fun w => (s.window w).part == p)).foldl (fun s w =>
    (s.disableWindow w).setWindow w { Window.reset with part := p }) s
  let mine (k : Nat) : Bool := k / 2 ^ 32 == p
  let s : State := { s with
    recs := s.recs.filter (·.part != p), launches := s.launches.filter (!mine ·.1), graphs := s.graphs.filter (!mine ·.1)
    phases := s.phases.filter (!mine ·.1), jobs := s.jobs.filter (!mine ·.1), priOut := s.priOut.filter (·.1 != p)
    priWait := s.priWait.filter (·.1 != p)
    priRefused := s.priRefused.filter (·.1 != p), monitors := s.monitors.filter (·.part != p)
    frozen := s.frozen.filter (fun e => s.asPart e.1 != p) }
  s.modPart p Part.flr

/-- FUNCTION_LEVEL_RESET: it starts, and units are halted; once they are gone it completes. -/
def execFunctionLevelReset (part : Nat) (s : State) : Out :=
  let units (s : State) : List Nat :=
    (s.cores.filter (fun e => e.2.st != .idle && (s.thr e.2.thread).part == part)).map (·.1)
  if 16 ≤ part then .next s
  else if !(s.part part).inReset then
    let s := s.modPart part (fun e => { e with inReset := true })
    let s : State := { s with recs := s.recs.filter (fun r => !(r.part == part && r.k != .saved && r.k != .suspended)) }
    .next ((units s).foldl (fun s k => s.askHalt k .reset) s)
  else .next (if (units s).isEmpty then s.flrEnd part else s)

end Sys2Proof.Machine
end

