-- ==== Sys2Proof/Machine/Platform.lean ====
section
/-!
DEFINITION. What Treleveber and the memories do: slots and the cluster map, L2 fills and write-backs, view lines, the victim
tier, power-gating and wake-up, the carve-out, and errors that no code corrects (R43, R319 to R335, R345, R346, R349, R350,
R355, R373, R404, R440).
-/
namespace Sys2Proof.Machine

/-! ## Slots, the cluster map, the TLT (R43, R346, R349, R355) -/

/-- SLOT_WRITE: refused when its expected generation is not the slot's, not taken while Treleveber is away (R405). -/
def execSlotWrite (c gen : Nat) (v : Slot) (s : State) : Out :=
  let old := s.slots.get slotBlank c
  let away := !v.v || v.part != old.part || v.mode != old.mode
  .next (if c < 4096 && s.gens.get 0 c == gen && !s.boot.away then
    (if away then (s.logCore c).elim s s.ungive else s).putSlot c v else s)

/-- Logical clusters that a change of the map affects. -/
def State.remapped (s : State) (m : List (Nat × Nat)) : List Nat := (m.filter (fun e => s.physCluster e.1 != e.2)).map (·.1)

/-- A launch with a saved unit on an affected cluster has every unit saved (R43). -/
def State.launchSaved (s : State) (l : List Nat) : Bool :=
  s.threads.all (fun e => e.2.st != .saved || !l.contains (e.2.loc / 64) ||
    s.threads.all (fun f => f.2.launch != e.2.launch || f.2.part != e.2.part || f.2.st == .closed || f.2.st == .saved))

/-- The part exposes a physical cluster: its die is present (R13, R355). -/
def State.exposes (s : State) (ph : Nat) : Bool := ph < 64 && s.dies.testBit (ph / 16)

/-- A change of the cluster map is legal: entries below NCLUS, distinct physical clusters that the part exposes, nothing running
there (R43, R355). -/
def State.remapOk (s : State) (m : List (Nat × Nat)) : Bool :=
  let l := s.remapped m
  let f (n : Nat) : Nat := match m.find? (·.1 == n) with | some e => e.2 | none => s.physCluster n
  let all := (upto s.nclus).map f
  m.all (fun e => e.1 < s.nclus && s.exposes e.2) && distinct all &&
  s.cores.all (fun e => (e.2.st == .idle && e.2.sel.isNone) || !l.contains (e.1 / 64)) && s.launchSaved l

/-- The governor drops what it kept of slots on the remapped clusters l; its instances keep the cores there, in the slots that Treleveber
rewrites (R461). -/
def StageRt.moved (r : StageRt) (l : List Nat) : StageRt :=
  { r with insts := r.insts.map (fun e =>
      let x := e.2
      let x := if l.contains (x.core / 64) && x.slotKept.isSome then { x with slotKept := none, tied := true } else x
      (e.1, if l.contains (x.core2 / 64) && x.slot2.isSome then { x with slot2 := none, tied2 := true } else x)) }

/-- CLUSTER_REMAP: the map is rewritten; cores and slots follow their clusters, and the cores of a cluster that leaves the map keep
what they hold (R335). -/
def execClusterRemap (m : List (Nat × Nat)) (s : State) : Out :=
  if !s.remapOk m || s.boot.away then .next s
  else
    let l := s.remapped m
    let old (n : Nat) : Nat := s.physCluster n
    let from_ (p : Nat) : Option Nat := (upto s.nclus).find? (fun n => old n == p)
    let dest (n : Nat) : Nat := match m.find? (·.1 == n) with | some e => e.2 | none => old n
    let cell (n i : Nat) : Core := { (match from_ (dest n) with
      | some k => s.coreAt (64 * k + i)
      | none => s.spare.get .reset (64 * dest n + i)) with sel := none, rsvFor := none }
    let t : State := { s with cmap := l.foldl (fun c n => c.set n (dest n)) ((upto s.nclus).foldl (fun c n => c.set n (old n)) []) }
    let t := l.foldl (fun t n => (upto 64).foldl (fun t i => t.setCore (64 * n + i) (cell n i)) t) t
    let gone := (l.map old).filter (fun p => !(l.map dest).contains p)
    let t := gone.foldl (fun t p => (upto 64).foldl (fun (t : State) i =>
      let c := 64 * p + i
      { t with
        slots := t.slots.del c, gens := t.gens.set c ((t.gens.get 0 c + 1) % 256)
        spare := t.spare.set c (s.coreAt (64 * (from_ p).getD 0 + i)) }) t) t
    let t : State := { t with
      stages := s.stages.map (fun e => (e.1, e.2.moved l))
      spare := t.spare.filter (fun e => !(l.map dest).contains (e.1 / 64)) }
    .next (l.foldl (fun t n => (upto 64).foldl (fun (t : State) i =>
      let c := 64 * dest n + i
      { t with slots := t.slots.set c (s.slots.get slotBlank (64 * old n + i)), gens := t.gens.set c ((t.gens.get 0 c + 1) % 256) }) t) t)

/-- A unit whose entry is lost ends alone, with D10 in the log. -/
def State.loseThread (s : State) (t : Nat) : State :=
  let e := s.thr t
  if e.st == .closed then s else (s.discardAlone t).log e.part 2 (cz 0xD10) 0 t e.launch 0

/-- TLT_ENTRY_LOST. -/
def execTltEntryLost (t : Nat) (s : State) : Out := .next ((s.loseThread t).logTable (s.thr t).part 3)

/-! ## The L2 (R321, R322, R327) -/

/-- L2_FILL: a line that the L2 does not hold comes in through its virtual address; noise is what the move does to it. -/
def execL2Fill (asid : Nat) (va : Word) (noise : List (Nat × Byte)) (s : State) : Out :=
  let part := s.asPart asid
  if s.l2.any (fun l => l.asid == asid && l.vline == va.toNat / 64) then .next s
  else
    let s := s.sigWalk asid va.toNat
    match s.translate asid va.toNat with
    | .page t =>
      let pa := t.pa va.toNat
      let come (s : State) (ln : Nat) : State :=
        (if noise = [] then s else s.setMemOf ln ((s.memOf ln).corrupt (ownLine ln) noise)).through part asid va.toNat ln 0 false false .normal
      if t.mt != 0 then .next s
      else match t.aper with
        | 0 => .next (come ((s.keepTrans asid va.toNat t).bring pa 64) (pa / 64))
        | 1 => .next (come ((s.keepTrans asid va.toNat t).track (pa / 64)) (hostLine pa))
        | _ => .next s
    | .hostPage _ => .next s
    | .notValid _ => .next s
    | .invalid => .next s

/-- L2_WRITEBACK: a dirty line leaves the L2 for the stacked SRAM; a mismatch is counted in the package log alone (R392). -/
def execL2Writeback (asid : Nat) (va : Word) (noise : List (Nat × Byte)) (s : State) : Out :=
  let hit (l : L2Line) : Bool := l.asid == asid && l.vline == va.toNat / 64 && l.dirty
  match s.l2.find? hit with
  | none => .next s
  | some l =>
    let s := if noise = [] then s else s.setMemOf l.pa ((s.memOf l.pa).corrupt (ownLine l.pa) noise)
    .next (s.l2Drop none hit)

/-- Every core is idle: every unit of every partition is saved. -/
def State.allSaved (s : State) : Bool := s.cores.all (fun e => e.2.st == .idle)

/-- L2_MODE_CHANGE: every line is written back and dropped, every translation purged. -/
def execL2ModeChange (priv : Bool) (s : State) : Out :=
  if !s.allSaved || s.boot.stopped then .next s
  else
    .next { s.l2Drop none (fun _ => true) with tcs := [], l2Priv := priv }

/-! ## View lines (R332 to R334) -/

/-- VIEW_LINE_ASSEMBLE: on its way into the stacked SRAM. -/
def execViewLineAssemble (w n : Nat) (s : State) : Out :=
  let x := s.window w
  .next (if x.en && n < x.vlines && !s.views.any (·.1 == (x.base + 64 * n) / 64) then
    (s.assemble w n).stkPut none ((x.base + 64 * n) / 64) false false false else s)

/-- VIEW_LINE_EVICT: it leaves the stacked SRAM, and is taken apart when it is dirty. -/
def execViewLineEvict (w n : Nat) (s : State) : Out :=
  let x := s.window w
  .next (if x.en && n < x.vlines then { s with stk := s.stk.filter (·.line != (x.base + 64 * n) / 64) }.dropView w n else s)

/-! ## The victim tier (R329 to R331) -/

def VFrame.none : VFrame := ⟨false, 0, 0, .blank⟩
def State.vframe (s : State) (f : Nat) : VFrame := s.frames.get .none f
/-- A quadrant belongs to no partition's bound set in the slot table (R329). -/
def State.unbound (s : State) (q : Nat) : Bool := (upto 16).all (fun i => !(s.slots.get slotBlank (16 * q + i)).v)
/-- A frame that can take a page: its quadrant is power-gated and of no partition, and it is free (R329). -/
def State.frameFree (s : State) (f : Nat) : Bool := s.gated.contains (f / 48) && s.unbound (f / 48) && !(s.vframe f).used
/-- Some frame can take a page. -/
def State.anyFrame (s : State) : Bool := s.gated.any (fun q => (upto 48).any (fun i => s.frameFree (48 * q + i)))

/-- Move a memory's listed items from one range of n bytes to another base. -/
def PMem.slice (m : PMem) (a n base : Nat) : PMem :=
  let into (unit x : Nat) : Bool := a ≤ unit * x && unit * x < a + n
  { bytes := (m.bytes.filter (fun c => into 1 c.1)).map (fun c => (c.1 - a + base, c.2))
    poison := (m.poison.filter (into 8)).map (fun g => g - a / 8 + base / 8)
    full := (m.full.filter (into 8)).map (fun g => g - a / 8 + base / 8)
    hall := (m.hall.filter (fun e => into 64 e.1)).map (fun e => (e.1 - a / 64 + base / 64, e.2)) }

/-- n bytes at a replaced by another memory's first n bytes, with their marks. -/
def PMem.paste (m : PMem) (a n : Nat) (p : PMem) : PMem :=
  let out (unit x : Nat) : Bool := unit * x < a || a + n ≤ unit * x
  { fresh := m.freshen a n
    bytes := p.bytes.foldl (fun b c => Memory.setByte b (a + c.1) c.2) (m.bytes.filter (fun c => out 1 c.1))
    poison := p.poison.foldl (fun l g => setIns (a / 8 + g) l) (m.poison.filter (out 8))
    full := p.full.foldl (fun l g => setIns (a / 8 + g) l) (m.full.filter (out 8))
    hall := p.hall.foldl (fun h e => h.set (a / 64 + e.1) e.2) (m.hall.filter (fun e => out 64 e.1)) }

/-- A page in a frame lies in the local store of one core (R329). -/
def State.frameStore (s : State) (f : Nat) (page : PMem) : State :=
  match s.logCore (f / 48 * 16 + f % 48 / 3) with
  | some k => s.setLs k { (s.lsOf k).paste (f % 48 % 3 * 0x10000) 0x10000 { page with full := [], hall := [] } with
      full := [], hall := [], fresh := [] }
  | none => s

/-- The next token that names no page. -/
def State.freeToken (s : State) : Nat :=
  let used (t : Nat) : Bool := t % 65536 == 0 || s.frames.any (fun e => e.2.used && e.2.token == t % 65536)
  (((upto (s.frames.length + 2)).map (s.nextToken + ·)).find? (!used ·)).getD 0 % 65536

/-- The completion doubleword goes to a page of another chip, as a store of mode .wf (R330). -/
def State.victimSend (s : State) (part : Nat) (r : VReq) (v peer : Nat) : State :=
  let q := { s.newReq .st r.hi .d .wf with thread := 0, key := 0, ctx := 0, asid := r.asid, part := part, core := 0, d := ⟨bv v, false⟩ }
  (s.pushReq q).sendReq q peer

/-- The completion doubleword, with mode .wf; a DONE address that takes no such store gets none. Where several statuses apply, an evict gives
4 before 2 before 1, and a recall 2 before 3 (R330; the order is a DESIGN CHOICE, log 99). -/
def State.victimDone (s : State) (part : Nat) (r : VReq) (status token : Nat) : State :=
  let s := (s.modPart part (fun e => { e with vreqs := e.vreqs.drop 1 })).walkCome none r.asid r.hi.toNat
  let v := status * 2 ^ 56 + token
  match (if r.hi.toNat % 8 = 0 && canonical r.hi then s.asked r.asid r.hi.toNat else .invalid) with
  | .page t =>
    if !t.w then s
    else match t.aper with
      | 0 =>
        let pa := t.pa r.hi.toNat
        let s := s.bring pa 8
        let s := s.keepPart pa 8 { s with mem := (s.mem.write pa 8 v false).setFull (pa / 8) true }
        (s.dirtyView pa 8).wordChanged (pa / 8)
      | 2 => if t.frame == s.peer || (s.peerFault part t.frame).isSome then s else s.victimSend part r v t.frame
      | _ => s
  | .hostPage _ => s | .notValid _ => s | .invalid => s

/-- The page that a request names, when it is backed GDDR7 of the partition. -/
def State.victimPage (s : State) (part : Nat) (r : VReq) : Option Nat :=
  let a := fieldOf r.lo.toNat 16 24 * 65536
  if s.hdm a 0x10000 && s.ownerOf a == some part then some a else none

/-- VICTIM_EVICT: the partition's oldest request takes its page into a free frame, or is answered why not. -/
def execVictimEvict (part frame : Nat) (s : State) : Out :=
  match (s.part part).vreqs with
  | [] => .next s
  | r :: _ =>
    let op := fieldOf r.lo.toNat 62 2
    if s.boot.away || op = 1 then .next s
    else if op != 0 || fieldOf r.lo.toNat 0 16 != 0 then .next (s.victimDone part r 4 0)
    else match s.victimPage part r with
      | none => .next (s.victimDone part r 2 0)
      | some a =>
        if !s.anyFrame then .next (s.victimDone part r 1 0)
        else if !s.frameFree frame then .next s
        else
          let s := (s.recall a 0x10000).verifyRun none 2 a 0x10000
          let page := s.mem.slice a 0x10000 0
          let t := s.freeToken
          let s : State := { s with frames := s.frames.set frame ⟨true, t, part, page⟩, nextToken := (t + 1) % 65536 }
          .next ((s.frameStore frame page).victimDone part r 0 t)

/-- The frame that holds a token's page. -/
def State.frameOf (s : State) (part token : Nat) : Option Nat :=
  (s.frames.find? (fun e => e.2.used && e.2.token == token && e.2.part == part)).map (·.1)

/-- VICTIM_RECALL: the partition's oldest request returns its page to GDDR7, and the token is free. -/
def execVictimRecall (part : Nat) (s : State) : Out :=
  match (s.part part).vreqs with
  | [] => .next s
  | r :: _ =>
    let token := fieldOf r.lo.toNat 0 16
    if s.boot.away || fieldOf r.lo.toNat 62 2 != 1 then .next s
    else match s.victimPage part r with
      | none => .next (s.victimDone part r 2 token)
      | some a => match s.frameOf part token with
        | none => .next (s.victimDone part r 3 token)
        | some f =>
          let s := s.recall a 0x10000
          let s : State := { s with mem := s.mem.paste a 0x10000 (s.vframe f).page, frames := s.frames.del f }
          .next ((s.verifyRun none 2 a 0x10000).victimDone part r 0 token)

/-- VICTIM_MIGRATE: a page moves to a free frame of another retained quadrant, under its token. -/
def execVictimMigrate (token frame : Nat) (s : State) : Out :=
  match s.frames.find? (fun e => e.2.used && e.2.token == token) with
  | none => .next s
  | some e =>
    if frame / 48 = e.1 / 48 || !s.frameFree frame then .next s
    else .next ({ s with frames := (s.frames.del e.1).set frame e.2 }.frameStore frame e.2.page)

/-! ## Power-gating and wake-up (R331, R349, R373, R440) -/

/-- Pages in a quadrant, by partition. -/
def State.pagesIn (s : State) (q : Nat) : List Nat :=
  s.frames.foldl (fun l e => if e.2.used && e.1 / 48 == q then setIns e.2.part l else l) []

/-- A frame of another quadrant is free. -/
def State.frameElsewhere (s : State) (q : Nat) : Bool :=
  s.gated.any (fun r => r != q && (upto 48).any (fun i => s.frameFree (48 * r + i)))

/-- ISLAND_WAKE: a gated core, quadrant or cluster wakes; a quadrant with victim pages only after they have moved, and when
none can move each partition with pages there is told, in its log and by its service-request interrupt (R331). -/
def execIslandWake (core : Nat) (s : State) : Out :=
  let ph := s.physCore core
  let q := ph / 16
  if s.clusOff.contains (ph / 64) then .next { s with clusOff := s.clusOff.filter (· != ph / 64) }
  else if s.gated.contains q then
    match s.pagesIn q with
    | [] => .next ({ s with gated := s.gated.filter (· != q) }.modCore core (fun c => { c with gated := false, idleSince := s.clk }))
    | l => .next (if s.frameElsewhere q then s else l.foldl (fun s p => (s.log p 10 0 0 0 0 q).irq p 1) s)
  else .next (s.modCore core (fun c => { c with gated := false, idleSince := s.clk }))

/-- Cores of an island of n physical cores from c are idle, and every slot of them permits the state. -/
def State.mayGate (s : State) (c n pwr : Nat) : Bool :=
  (upto n).all (fun i => pwr ≤ (s.slots.get slotBlank (c + i)).pwr &&
    (match s.logCore (c + i) with | some k => (s.coreAt k).st == .idle && (s.coreAt k).sel.isNone | none => true))

/-- ISLAND_POWER_GATING: island numbers a quadrant, which keeps its local stores, or with off the quadrant's cluster. R335 names no
loss of power among what changes a local store, and none is changed here (log 70). -/
def execIslandPowerGating (island : Nat) (off : Bool) (s : State) : Out :=
  let c := island / 4
  if 256 ≤ island || s.boot.stopped then .next s
  else if off then
    .next (if s.mayGate (64 * c) 64 3 && !s.clusOff.contains c && (upto 4).all (fun i => (s.pagesIn (4 * c + i)).isEmpty) then
      { s with clusOff := setIns c s.clusOff, gated := s.gated.filter (fun q => q / 4 != c) } else s)
  else .next (if s.mayGate (16 * island) 16 2 && !s.clusOff.contains c then { s with gated := setIns island s.gated } else s)

/-- CARVE_OUT_CHANGE. -/
def execCarveOutChange (steps : Nat) (s : State) : Out :=
  .next (if 1 ≤ steps && steps ≤ 48 && s.allSaved && !s.boot.stopped then { s with carve := steps } else s)

/-! ## Errors that no code corrects (R319, R326, R328, R404) -/

/-- A stage's table is lost. -/
def State.loseStage (s : State) (asid stage table : Nat) : State :=
  let k := stageKey asid stage
  let p := (s.stageAt k).part
  if !(s.stageAt k).inst then s
  else ((s.modStage k (fun r => { r with bad := true })).stopStage k 0).logTable p table

/-- A granule of core k's local store is struck: v is the value that ECC returns, kept as read. A page of the victim tier that lies there
is struck with it (R319, R328, R329). -/
def State.strikeLs (s : State) (k g : Nat) (v : Word) : State :=
  let ph := s.physCore k
  let f := 48 * (ph / 16) + 3 * (ph % 16) + g / 0x2000
  let h := g % 0x2000
  let s := s.setLs k (((s.lsOf k).write (8 * g) 8 v.toNat false).setPoison g true)
  if !(s.vframe f).used then s
  else { s with frames := s.frames.set f { s.vframe f with
    page := ((s.vframe f).page.corrupt (h / 8) ((upto 8).map (fun i => (8 * h + i, BitVec.ofNat 8 (v.toNat / 256 ^ i))))).setPoison h true } }

/-- The ECC over the marks of a line of core k's local store fails: all its poison bits are set, in a page of the victim tier too (R328,
R329). -/
def State.strikeMarks (s : State) (k line : Nat) : State :=
  let ph := s.physCore k
  let f := 48 * (ph / 16) + 3 * (ph % 16) + line / 0x400
  let s := s.setLs k ((s.lsOf k).poisonLine line)
  if !(s.vframe f).used then s
  else { s with frames := s.frames.set f { s.vframe f with page := (s.vframe f).page.poisonLine (line % 0x400) } }

/-- A memory of the package holds the line: a host line only when the L2 or the stacked SRAM has it (R328). -/
def State.holdsLine (s : State) (ln : Nat) : Bool := !isHostLine ln || s.stk.any (·.line == ln) || s.l2.any (·.pa == ln)

/-- SOFT_ERROR: v is the value that is read from now on, where a granule is struck. -/
def execSoftError (loc : ErrLoc) (v : Word) (s : State) : Out :=
  .next (match loc with
    | .lsGranule k g => if g < 0x6000 then s.strikeLs k g v else s
    | .memGranule g =>
      let k := ownLine (g / 8)
      let noise := (upto 8).map (fun i => (8 * (g % 8) + i, BitVec.ofNat 8 (v.toNat / 256 ^ i)))
      if s.holdsLine (g / 8) then s.setMemOf (g / 8) (((s.memOf (g / 8)).corrupt k noise).setPoison (8 * k + g % 8) true) else s
    | .memMarks ln => if s.holdsLine ln then s.setMemOf ln ((s.memOf ln).poisonLine (ownLine ln)) else s
    | .lsMarks k line => if line < 0xC00 then s.strikeMarks k line else s
    | .tltEntry t => (s.loseThread t).logTable (s.thr t).part 3
    | .slotEntry c =>
      let p := (s.slots.get slotBlank c).part
      (s.putSlot c { s.slots.get slotBlank c with v := false }).logTable p 6
    | .bufDesc k i =>
      let t := (s.coreAt k).thread
      if (s.coreAt k).st == .idle then s
      else (s.modUnit t (fun u => { u with bufs := u.bufs.set i .reset })).logTable (s.unitAt t).part 7
    | .window w =>
      let s := s.disableWindow w
      (s.setWindow w { s.window w with err := true }).logTable (s.window w).part 8
    | .clusterMirror _ => (upto 16).foldl (fun s p => s.logTable p 9) s
    | .krtEntry a st => s.loseStage a st 4
    | .stageEntry a st => s.loseStage a st 5
    | .trvSram => if s.boot.stage < 7 || s.boot.stopped then s else { s with boot := { s.boot with down := some (s.clk + 15000000) } })

/-- DEVICE_ERROR_REPORT: the line comes back with all its poison bits set, and the controller logs it. -/
def execDeviceErrorReport (line : Nat) (s : State) : Out :=
  .next { s with mem := s.mem.poisonLine line, pkgLog := s.pkgLog ++ [(64 * line, 2)] }

end Sys2Proof.Machine
end

