-- ==== Sys2Proof/Machine/Boot.lean ====
section
/-!
DEFINITION. Bring-up, identity, attestation and power (R405, R433 to R439).
-/
namespace Sys2Proof.Machine

/-! ## Power-on reset and the image slots (R433 to R435) -/

/-- POWER_ON_RESET: everything returns to its reset value; the host's memory, the fuses and the environment's do not. -/
def execPowerOnReset (s : State) : Out :=
  .next { State.reset with
    hostMem := s.hostMem, nclus := s.nclus, dies := s.dies, gdev := s.gdev, partNo := s.partNo
    boot := { Boot.reset with fuseSvn := s.boot.fuseSvn, uds := Config.uds } }

/-- A number of 48 bytes, big-endian, as a field of a header whose byte 0 is in bits 7:0 (R2, R434). -/
def be48 (n : Nat) : Nat := lineNat (natLine 48 n).reverse

/-- The 256-byte header of a slot as a number: reserved bits 127:96, then 2047:1280; digest and signature big-endian (R434). -/
def imgHeader (i : BootImage) : Nat :=
  i.magic % 2 ^ 32 + i.svn % 2 ^ 32 * 2 ^ 32 + i.len % 2 ^ 32 * 2 ^ 64 + i.reserved % 2 ^ 32 * 2 ^ 96 + be48 i.digest * 2 ^ 128 +
  be48 i.sigr * 2 ^ 512 + be48 i.sigs * 2 ^ 896 + i.reserved / 2 ^ 32 * 2 ^ 1280

/-- SHA-384 of the header and the body (R436). -/
def imgDigest (i : BootImage) : Nat := Config.sha384 (natLine 256 (imgHeader i) ++ i.body)

/-- Why a slot is refused, as ERRA and ERRB code it; 0 when it is accepted (R434, R435). -/
def slotError (i : BootImage) (inp : BootIn) (fuse : Nat) : Nat :=
  if i.magic != 0x54525631 then 1
  else if i.reserved != 0 then 6
  else if 0x400000 < i.len || i.body.length != i.len || Config.sha384 i.body != i.digest then 2
  else if !Config.verifies i.sigr i.sigs (imgHeader i % 2 ^ 512) inp.rootKey then 3
  else if Config.sha384 (natLine 96 inp.rootKey) != inp.keyHash then 4
  else if i.svn < fuse then 5
  else 0

/-- Step 2: slot A, and slot B when A is refused. -/
def Boot.verify (b : Boot) (inp : BootIn) : Boot :=
  let ea := slotError inp.slotA inp b.fuseSvn
  let run (i : BootImage) (slot ea : Nat) : Boot :=
    { b with stage := 2, slot := slot, erra := ea, errb := 0, svn := i.svn, digest := imgDigest i }
  if ea = 0 then run inp.slotA 0 0
  else
    let eb := slotError inp.slotB inp b.fuseSvn
    if eb = 0 then run inp.slotB 1 ea else { b with slot := 15, erra := ea, errb := eb }

/-! ## The steps of the sequence (R433, R436, R437) -/

/-- Bytes of the carve-out that each partition's record pool and save areas share, once 16 MiB are set aside. -/
def poolShare (carve : Nat) : Nat := (carve * carveStep - 0x1000000) / 16 / 65536 * 65536

/-- A cluster map that bring-up can write: one exposed physical cluster for each of the part's NCLUS logical ones (R13, R355). -/
def State.cmapOk (s : State) (m : List Nat) : Bool := 1 ≤ s.nclus && m.length == s.nclus && m.all s.exposes && distinct m

/-- Step 5: the map, the TLT, slots and pools; local stores clear; every core and every uncore island clock-gated. -/
def State.setUp (s : State) (inp : BootIn) : State :=
  let n := poolShare s.carve
  let pool (p : Nat) : Part :=
    { s.part p with poolBase := carveBase + 0x1000000 + p * n, csaBase := carveBase + 0x1000000 + p * n + n / 2 }
  { s with
    cmap := (inp.cmap.zip (upto inp.cmap.length)).map (fun e => (e.2, e.1)), tltLog := inp.tltLog
    threads := [], slots := [], gens := [], parts := (upto 16).map (fun p => (p, pool p))
    cores := (upto (64 * inp.cmap.length)).map (fun k => (k, { Core.reset with gated := true }))
    islands := (upto 32).foldl (fun t i => t.set (256 + i) { t.get .reset (256 + i) with gated := true }) s.islands }

/-- Step 6: this chip's number, its peers, and a route to each; the uncore islands run from here on (DESIGN CHOICE, log 96). -/
def State.linkUp (s : State) (inp : BootIn) : State :=
  let s : State := { s with
    peer := inp.peer, peers := [(inp.peer, .self)], routes := [], islands := s.islands.map (fun e => (e.1, { e.2 with gated := false })) }
  inp.peers.foldl (fun (s : State) e => if e.1 = inp.peer || 1024 ≤ e.1 then s else
    { s with peers := s.peers.set e.1 .present, routes := s.routes.set (1024 * (e.2 % 32) + e.1) ⟨true, e.2 % 32⟩ }) s

/-- Measurement 4: fuse counter, DEVCFG and the active slot (R437). -/
def State.measure4 (s : State) : Nat := s.boot.fuseSvn + 2 ^ 8 * s.devcfg.toNat + 2 ^ 72 * s.boot.slot

/-- BOOT_STEP: the next step, when the one before it has succeeded and its own work does; once both slots are refused there is none (R434). -/
def execBootStep (inp : BootIn) (s : State) : Out :=
  let b := s.boot
  .next (match b.stage with
    | 0 => if inp.sramOk then
        { s with boot := { b with
          stage := 1, fuseSvn := max b.fuseSvn (inp.fuseSvn % 256), uds := Config.uds, inp := some inp
          deviceCert := inp.deviceCert } } else s
    | 1 => if b.slot = 15 then s else { s with boot := b.verify inp }
    | 2 =>
      let cdi := Config.hmac b.uds b.digest
      { s with boot := { b with
          stage := 3, cdi := cdi, aliasKey := Config.aliasKey cdi
          aliasCert := Config.certify (Config.deviceKey b.uds) (Config.aliasKey cdi), uds := 0
          log := b.log ++ [(1, Config.romDigest), (2, b.digest)] } }
    | 3 => if 1 ≤ inp.carve && inp.carve ≤ 48 then
        { s with mem := .blank, l2 := [], stk := [], tcs := [], carve := inp.carve, boot := { b with stage := 4 } } else s
    | 4 => if s.cmapOk inp.cmap && 16 ≤ inp.tltLog && inp.tltLog ≤ 24 then
        { s.setUp inp with boot := { b with stage := 5 } } else s
    | 5 => if inp.peer < 1024 then { s.linkUp inp with boot := { b with stage := 6 } } else s
    | 6 => { s with boot := { b with stage := 7, log := b.log ++ [(4, s.measure4)] } }
    | _ => s)

/-- BOOTST_COMMIT: the fuse counter rises to the running image's SVN, within its 8 bits. -/
def execBootstCommit (s : State) : Out :=
  let b := s.boot
  .next (if b.stage < 2 then s else { s with boot := { b with fuseSvn := max b.fuseSvn (min 255 b.svn) } })

/-! ## Treleveber's restart (R405, R434) -/

/-- clk in 60 s at 3.0 GHz. -/
def minute : Nat := 180000000000

/-- What the verification of the running slot ends with at a restart, as ERRA and ERRB code it: a check of step 2 that fails, 7 for another
image than the one measured at power-on, or 0 (R434, R435). -/
def Boot.again (b : Boot) (inp : BootIn) : Nat :=
  let i := if b.slot = 0 then inp.slotA else inp.slotB
  let e := slotError i inp b.fuseSvn
  if e != 0 then e else if imgDigest i != b.digest then 7 else 0

/-- Treleveber's restart ends (R405, R434): the running slot is verified again, and Treleveber gets the keys that the boot ROM kept; the
fourth restart within 60 s, or a slot that does not pass, leaves it stopped. What lies outside its SRAM stays as it is, which is step 5 of
a restart. -/
def State.restartTrv (s : State) (inp : BootIn) : State :=
  let b := s.boot
  if b.stage < 7 || b.stopped then s
  else
    let l := s.clk :: b.restarts.filter (fun t => s.clk < t + minute)
    let e := b.again inp
    let d := imgDigest (if b.slot = 0 then inp.slotA else inp.slotB)
    let b' := { b with
      down := none, restarts := l, log := b.log ++ [(2, d)], stopped := e != 0 || 4 ≤ l.length
      erra := if e != 0 && b.slot = 0 then e else b.erra, errb := if e != 0 && b.slot = 1 then e else b.errb }
    (upto 16).foldl (fun s p => s.log p 7 0 0 0 0 l.length) { s with boot := b' }

/-- TRELEVEBER_RESTART: what the image slots hold then. -/
def execTreleveberRestart (digest : BootIn) (s : State) : Out := .next (s.restartTrv digest)

/-- POLICY_FIRMWARE_LOAD. -/
def execPolicyFirmwareLoad (digest : Nat) (s : State) : Out :=
  let b := s.boot
  .next (if b.stage < 3 || b.stopped then s else { s with boot := { b with policy := digest, log := b.log ++ [(3, digest)] } })

/-! ## Attestation (R437) -/

/-- Digest of the measurement log as it stands. -/
def Boot.logDigest (b : Boot) : Nat := Config.sha384 (b.log.flatMap (fun e => natLine 8 e.1 ++ natLine 48 e.2))

/-- Measurement i. -/
def State.measurement (s : State) (i : Nat) : Option Nat :=
  match i with
  | 1 => some Config.romDigest | 2 => some s.boot.digest | 3 => some s.boot.policy | 4 => some s.measure4
  | 5 => some s.boot.logDigest | _ => none

/-- The chain of a certificate slot: 0 through the DeviceID certificate, 1 through the Alias certificate (R436, R437). -/
def State.chain (s : State) (slot : Nat) : List Nat :=
  if slot = 0 then [s.boot.deviceCert] else if slot = 1 then [s.boot.deviceCert, s.boot.aliasCert] else []

/-- SHA-384 of numbers of n bytes, one after another. -/
def shaOf (l : List (Nat × Nat)) : Nat := Config.sha384 (l.flatMap (fun e => natLine e.1 e.2))

/-- Digest of the chain of a slot. -/
def State.chainDigest (s : State) (slot : Nat) : Nat := shaOf ((s.chain slot).map (fun c => (4096, c)))

/-- What Treleveber answers; an empty answer is an error. The algorithms are those of R437 alone, at the bits that SPDM 1.3 gives them
(PRESUMED, log 97); an answer to CHALLENGE signs the slot, the nonce and the digest of the slot's chain. -/
def State.spdmAnswer (s : State) (r : SpdmReq) : List Nat :=
  let sign (m : Nat) : Nat := Config.spdm 1 m s.boot.aliasKey
  match r with
  | .getVersion => [0x13]
  | .getCapabilities => [Config.spdm 2 0 0]
  | .negotiateAlgorithms asym hash => [asym &&& 0x80, hash &&& 0x02]
  | .getDigests => [s.chainDigest 0, s.chainDigest 1]
  | .getCertificate slot => s.chain slot
  | .challenge slot nonce =>
    if slot < 2 then [s.chainDigest slot, sign (shaOf [(1, slot), (32, nonce), (48, s.chainDigest slot)])] else []
  | .getMeasurements i nonce => match s.measurement i with
    | some m => [i, m, sign (shaOf [(1, i), (32, nonce), (48, m)])]
    | none => []

/-- SPDM_REQUEST: answered once Treleveber runs. -/
def execSpdmRequest (r : SpdmReq) (s : State) : Out :=
  .next (if s.boot.stage < 3 || s.boot.stopped then s else { s with boot := { s.boot with answer := s.spdmAnswer r } })

/-! ## Operating points and caps (R438, R439) -/

def State.island (s : State) (i : Nat) : Island := s.islands.get .reset i
def State.setIsland (s : State) (i : Nat) (e : Island) : State := { s with islands := s.islands.set i e }

/-- Steps of an operating point below 3.0 GHz (R438). -/
def OpPoint.rank : OpPoint → Nat
  | .ghz30 => 0
  | .ghz24 => 1
  | .ghz18 => 2
  | .ghz12 => 3

/-- An island may have an operating point: an uncore island none below the rate that its links or memories require (R438; the rate is free,
log 96). -/
def pointOk (island : Nat) (p : OpPoint) : Bool := island < 256 || OpPoint.rank p ≤ Config.uncoreFloor island

/-- DVFS_CHANGE. -/
def execDvfsChange (island : Nat) (p : OpPoint) (s : State) : Out :=
  .next (if island < 288 && !s.boot.stopped && pointOk island p then s.setIsland island { s.island island with point := p } else s)

/-- MODULE_CAP_WRITE: stored as the nearer bound; CXL.io answers from the end of step 1 (R433, R439). -/
def execModuleCapWrite (v : Word) (s : State) : Out :=
  .next (if s.boot.stage = 0 then s else { s with mcap := min 1800 (max 600 (v.toNat % 2048)) })

/-- The next lower operating point. -/
def OpPoint.lower : OpPoint → OpPoint
  | .ghz30 => .ghz24
  | .ghz24 => .ghz18
  | .ghz18 => .ghz12
  | .ghz12 => .ghz12

/-- An island can fall to its next lower point. -/
def State.canSlow (s : State) (i : Nat) : Bool := (s.island i).point != .ghz12 && pointOk i (OpPoint.lower (s.island i).point)

/-- Of n islands from a, the one with the greatest draw that can be slowed; the lower number of equal ones. -/
def State.slowestOf (s : State) (a n : Nat) : Option Nat :=
  (upto n).foldl (fun (m : Option Nat) j =>
    let i := a + j
    if !s.canSlow i then m
    else match m with
      | none => some i
      | some k => if (s.island k).draw < (s.island i).draw then some i else m) none

/-- The island to slow next: a core quadrant before an uncore island, in descending order of draw (R439). -/
def State.slowest (s : State) : Option Nat :=
  match s.slowestOf 0 256 with
  | some i => some i
  | none => s.slowestOf 256 32

/-- An average against its cap: above it lowering begins, and it goes on until the average lies below (R439). -/
def nowCapping (was : Bool) (cap draw : Nat) : Bool := cap < draw || (was && draw == cap)

/-- The averages over 1 ms: the module's draw, and those of islands; with them which caps lower points now. -/
def State.measured (s : State) (draw : Nat) (draws : List (Nat × Nat)) : State :=
  let s : State := { s with mdraw := draw % 65536, capping := nowCapping s.capping s.mcap (draw % 65536) }
  draws.foldl (fun s e =>
    let x := s.island e.1
    let d := e.2 % 65536
    if e.1 < 288 then s.setIsland e.1 { x with draw := d, capping := x.cap != 0 && nowCapping x.capping x.cap d } else s) s

/-- One island falls to its next lower point. -/
def State.slower (s : State) (i : Nat) : State :=
  if s.canSlow i then s.setIsland i { s.island i with point := OpPoint.lower (s.island i).point } else s

/-- POWER_CAP_REGULATE: a 1 ms average; each island falls by one point whose own cap it has exceeded and does not yet lie below, and for
the module cap one more island does, again at every such average. -/
def execPowerCapRegulate (draw : Nat × List (Nat × Nat)) (s : State) : Out :=
  let m := s.measured draw.1 draw.2
  if m.boot.stopped then .next m
  else
    let m := ((upto 288).filter (fun i => (m.island i).capping)).foldl State.slower m
    .next (if !m.capping then m else match m.slowest with
      | none => m
      | some i => m.slower i)

end Sys2Proof.Machine
end

