-- ==== Sys2Proof/Machine/Dispatch.lean ====
section
/-!
DEFINITION. One arm per row of the opcode table, each a direct call of its meaning.
-/
namespace Sys2Proof.Machine

def exec (i : Instr) (s : State) : Host.Outcome State Fault Refusal :=
  match i with
  | .iadd ty sat o => Sys2Proof.Machine.execIadd ty sat o s
  | .isub ty sat o => Sys2Proof.Machine.execIsub ty sat o s
  | .imul ty sat o => Sys2Proof.Machine.execImul ty sat o s
  | .imulh ty o => Sys2Proof.Machine.execImulh ty o s
  | .idiv ty o => Sys2Proof.Machine.execIdiv ty o s
  | .irem ty o => Sys2Proof.Machine.execIrem ty o s
  | .imin ty o => Sys2Proof.Machine.execImin ty o s
  | .imax ty o => Sys2Proof.Machine.execImax ty o s
  | .iabs ty sat o => Sys2Proof.Machine.execIabs ty sat o s
  | .and o => Sys2Proof.Machine.execAnd o s
  | .or o => Sys2Proof.Machine.execOr o s
  | .xor o => Sys2Proof.Machine.execXor o s
  | .andn o => Sys2Proof.Machine.execAndn o s
  | .shl ty o => Sys2Proof.Machine.execShl ty o s
  | .shr ty o => Sys2Proof.Machine.execShr ty o s
  | .sra ty o => Sys2Proof.Machine.execSra ty o s
  | .rol ty o => Sys2Proof.Machine.execRol ty o s
  | .clz ty o => Sys2Proof.Machine.execClz ty o s
  | .ctz ty o => Sys2Proof.Machine.execCtz ty o s
  | .popc ty o => Sys2Proof.Machine.execPopc ty o s
  | .bswap ty o => Sys2Proof.Machine.execBswap ty o s
  | .bfx o => Sys2Proof.Machine.execBfx o s
  | .bfi o => Sys2Proof.Machine.execBfi o s
  | .iext o => Sys2Proof.Machine.execIext o s
  | .cmp cc ty o => Sys2Proof.Machine.execCmp cc ty o s
  | .sel o => Sys2Proof.Machine.execSel o s
  | .ldi d imm => Sys2Proof.Machine.execLdi d imm s
  | .ldk d imm => Sys2Proof.Machine.execLdk d imm s
  | .adda o => Sys2Proof.Machine.execAdda o s
  | .mramk o => Sys2Proof.Machine.execMramk o s
  | .self d => Sys2Proof.Machine.execSelf d s
  | .br off => Sys2Proof.Machine.execBr off s
  | .bz a off => Sys2Proof.Machine.execBz a off s
  | .bnz a off => Sys2Proof.Machine.execBnz a off s
  | .bcmp cc ty a ta b tb off => Sys2Proof.Machine.execBcmp cc ty a ta b tb off s
  | .jmp a ta => Sys2Proof.Machine.execJmp a ta s
  | .call d a off => Sys2Proof.Machine.execCall d a off s
  | .loop d off => Sys2Proof.Machine.execLoop d off s
  | .nop => Sys2Proof.Machine.execNop s
  | .empty d => Sys2Proof.Machine.execEmpty d s
  | .markf d => Sys2Proof.Machine.execMarkf d s
  | .probe d a => Sys2Proof.Machine.execProbe d a s
  | .waitf a ta => Sys2Proof.Machine.execWaitf a ta s
  | .qcfg d a imm => Sys2Proof.Machine.execQcfg d a imm s
  | .qrst d => Sys2Proof.Machine.execQrst d s
  | .qocc d a => Sys2Proof.Machine.execQocc d a s
  | .ld sz sm pol m => Sys2Proof.Machine.execLd sz sm pol m s
  | .st sz sm pol m => Sys2Proof.Machine.execSt sz sm pol m s
  | .pref lvl m => Sys2Proof.Machine.execPref lvl m s
  | .resid lvl m => Sys2Proof.Machine.execResid lvl m s
  | .evict lvl m => Sys2Proof.Machine.execEvict lvl m s
  | .fence => Sys2Proof.Machine.execFence s
  | .ldl sz sm pol lo m => Sys2Proof.Machine.execLdl sz sm pol lo m s
  | .rsend d a ta imm lo => Sys2Proof.Machine.execRsend d a ta imm lo s
  | .ldx sz sm o => Sys2Proof.Machine.execLdx sz sm o s
  | .stx sz sm o => Sys2Proof.Machine.execStx sz sm o s
  | .smfrz a => Sys2Proof.Machine.execSmfrz a s
  | .smrel a => Sys2Proof.Machine.execSmrel a s
  | .amo op l sz mreg lo m => Sys2Proof.Machine.execAmo op l sz mreg lo m s
  | .cas sz m => Sys2Proof.Machine.execCas sz m s
  | .amox op sz o => Sys2Proof.Machine.execAmox op sz o s
  | .flagf tl m => Sys2Proof.Machine.execFlagf tl m s
  | .shld v => Sys2Proof.Machine.execShld v s
  | .shst v => Sys2Proof.Machine.execShst v s
  | .shset fld v => Sys2Proof.Machine.execShset fld v s
  | .shadv v => Sys2Proof.Machine.execShadv v s
  | .shrd fld v => Sys2Proof.Machine.execShrd fld v s
  | .vadd ty md v => Sys2Proof.Machine.execVadd ty md v s
  | .vsub ty md v => Sys2Proof.Machine.execVsub ty md v s
  | .vmul ty md v => Sys2Proof.Machine.execVmul ty md v s
  | .vfma ty md v => Sys2Proof.Machine.execVfma ty md v s
  | .vmin ty md v => Sys2Proof.Machine.execVmin ty md v s
  | .vmax ty md v => Sys2Proof.Machine.execVmax ty md v s
  | .vabs ty md v => Sys2Proof.Machine.execVabs ty md v s
  | .vneg ty md v => Sys2Proof.Machine.execVneg ty md v s
  | .vand ty v => Sys2Proof.Machine.execVand ty v s
  | .vor ty v => Sys2Proof.Machine.execVor ty v s
  | .vxor ty v => Sys2Proof.Machine.execVxor ty v s
  | .vshl ty v => Sys2Proof.Machine.execVshl ty v s
  | .vshr ty v => Sys2Proof.Machine.execVshr ty v s
  | .vcmp cc ty md v => Sys2Proof.Machine.execVcmp cc ty md v s
  | .vsel ty v => Sys2Proof.Machine.execVsel ty v s
  | .vcvt ty md v => Sys2Proof.Machine.execVcvt ty md v s
  | .vcopy ty v => Sys2Proof.Machine.execVcopy ty v s
  | .vbcst ty md v => Sys2Proof.Machine.execVbcst ty md v s
  | .vgath ty v => Sys2Proof.Machine.execVgath ty v s
  | .vscat ty v => Sys2Proof.Machine.execVscat ty v s
  | .vsum ty sat v => Sys2Proof.Machine.execVsum ty sat v s
  | .vrmax ty v => Sys2Proof.Machine.execVrmax ty v s
  | .vsfu fn ty md v => Sys2Proof.Machine.execVsfu fn ty md v s
  | .vqnt ty md v => Sys2Proof.Machine.execVqnt ty md v s
  | .vdq ty md v => Sys2Proof.Machine.execVdq ty md v s
  | .vpclr ty v => Sys2Proof.Machine.execVpclr ty v s
  | .fadd ty md o => Sys2Proof.Machine.execFadd ty md o s
  | .fsub ty md o => Sys2Proof.Machine.execFsub ty md o s
  | .fmul ty md o => Sys2Proof.Machine.execFmul ty md o s
  | .ffma ty md o => Sys2Proof.Machine.execFfma ty md o s
  | .fmin ty o => Sys2Proof.Machine.execFmin ty o s
  | .fmax ty o => Sys2Proof.Machine.execFmax ty o s
  | .fabs ty o => Sys2Proof.Machine.execFabs ty o s
  | .fneg ty o => Sys2Proof.Machine.execFneg ty o s
  | .fcmp cc ty o => Sys2Proof.Machine.execFcmp cc ty o s
  | .fcvt dty sty md d a ta => Sys2Proof.Machine.execFcvt dty sty md d a ta s
  | .fclass ty o => Sys2Proof.Machine.execFclass ty o s
  | .cvp form ty md o => Sys2Proof.Machine.execCvp form ty md o s
  | .cvu ty o => Sys2Proof.Machine.execCvu ty o s
  | .fexp2 ty md o => Sys2Proof.Machine.execFexp2 ty md o s
  | .flog2 ty md o => Sys2Proof.Machine.execFlog2 ty md o s
  | .frcp ty md o => Sys2Proof.Machine.execFrcp ty md o s
  | .frsq ty md o => Sys2Proof.Machine.execFrsq ty md o s
  | .fsqrt ty md o => Sys2Proof.Machine.execFsqrt ty md o s
  | .fsin ty md o => Sys2Proof.Machine.execFsin ty md o s
  | .fcos ty md o => Sys2Proof.Machine.execFcos ty md o s
  | .ftanh ty md o => Sys2Proof.Machine.execFtanh ty md o s
  | .mma t => Sys2Proof.Machine.execMma t s
  | .mmb t => Sys2Proof.Machine.execMmb t s
  | .mms t => Sys2Proof.Machine.execMms t s
  | .mcmp t => Sys2Proof.Machine.execMcmp t s
  | .mzero t => Sys2Proof.Machine.execMzero t s
  | .mlda t => Sys2Proof.Machine.execMlda t s
  | .msta t => Sys2Proof.Machine.execMsta t s
  | .mdrn t => Sys2Proof.Machine.execMdrn t s
  | .mrsum t => Sys2Proof.Machine.execMrsum t s
  | .mcsum t => Sys2Proof.Machine.execMcsum t s
  | .mtbl t => Sys2Proof.Machine.execMtbl t s
  | .mstat t => Sys2Proof.Machine.execMstat t s
  | .cpy t => Sys2Proof.Machine.execCpy t s
  | .gath t => Sys2Proof.Machine.execGath t s
  | .scat t => Sys2Proof.Machine.execScat t s
  | .coll op t => Sys2Proof.Machine.execColl op t s
  | .tlwait tl a => Sys2Proof.Machine.execTlwait tl a s
  | .tlread d tl fld => Sys2Proof.Machine.execTlread d tl fld s
  | .tlnote d a ta imm tl => Sys2Proof.Machine.execTlnote d a ta imm tl s
  | .fqprst tl => Sys2Proof.Machine.execFqprst tl s
  | .start a off => Sys2Proof.Machine.execStart a off s
  | .hjoin a => Sys2Proof.Machine.execHjoin a s
  | .hexit => Sys2Proof.Machine.execHexit s
  | .post p => Sys2Proof.Machine.execPost p s
  | .susp p => Sys2Proof.Machine.execSusp p s
  | .yield => Sys2Proof.Machine.execYield s
  | .uexit => Sys2Proof.Machine.execUexit s
  | .enq d a b => Sys2Proof.Machine.execEnq d a b s
  | .enqw d a b => Sys2Proof.Machine.execEnqw d a b s
  | .deq => Sys2Proof.Machine.execDeq s
  | .recdone => Sys2Proof.Machine.execRecdone s
  | .splitok a => Sys2Proof.Machine.execSplitok a s
  | .mergeok => Sys2Proof.Machine.execMergeok s
  | .tballoc o => Sys2Proof.Machine.execTballoc o s
  | .tbfree a => Sys2Proof.Machine.execTbfree a s
  | .tbset st a ta b tb imm => Sys2Proof.Machine.execTbset st a ta b tb imm s
  | .tbstat o => Sys2Proof.Machine.execTbstat o s
  | .spanx => Sys2Proof.Machine.execSpanx s
  | .spanc => Sys2Proof.Machine.execSpanc s
  | .gbar => Sys2Proof.Machine.execGbar s
  | .lcnt d lvl => Sys2Proof.Machine.execLcnt d lvl s
  | .cancel lvl => Sys2Proof.Machine.execCancel lvl s
  | .pchk d a ta => Sys2Proof.Machine.execPchk d a ta s
  | .pclr d => Sys2Proof.Machine.execPclr d s
  | .pset d => Sys2Proof.Machine.execPset d s
  | .stc sz sm pol m => Sys2Proof.Machine.execStc sz sm pol m s
  | .sig v => Sys2Proof.Machine.execSig v s
  | .upret => Sys2Proof.Machine.execUpret s
  | .upmask o => Sys2Proof.Machine.execUpmask o s
  | .trap n => Sys2Proof.Machine.execTrap n s
  | .tret => Sys2Proof.Machine.execTret s
  | .csrr d n => Sys2Proof.Machine.execCsrr d n s
  | .csrw a ta n => Sys2Proof.Machine.execCsrw a ta n s
  | .tinv d a b scope => Sys2Proof.Machine.execTinv d a b scope s
  | .tsync => Sys2Proof.Machine.execTsync s
  | .l2fl mode => Sys2Proof.Machine.execL2fl mode s
  | .idle => Sys2Proof.Machine.execIdle s
  | .fetchFault k => Sys2Proof.Machine.execFetchFault k s
  | .decodeTrap cause taddr => Sys2Proof.Machine.execDecodeTrap cause taddr s
  | .trapEntry cause tpc taddr => Sys2Proof.Machine.execTrapEntry cause tpc taddr s
  | .upcallEntry cause upc uarg => Sys2Proof.Machine.execUpcallEntry cause upc uarg s
  | .noticeDelivery core ctx => Sys2Proof.Machine.execNoticeDelivery core ctx s
  | .noticeArrival idx => Sys2Proof.Machine.execNoticeArrival idx s
  | .noticeRetry idx => Sys2Proof.Machine.execNoticeRetry idx s
  | .landingDelivery idx => Sys2Proof.Machine.execLandingDelivery idx s
  | .landingRetry idx => Sys2Proof.Machine.execLandingRetry idx s
  | .landingBounce idx => Sys2Proof.Machine.execLandingBounce idx s
  | .sfuResult core => Sys2Proof.Machine.execSfuResult core s
  | .accessAccept idx ans => Sys2Proof.Machine.execAccessAccept idx ans s
  | .loadDataReturn idx => Sys2Proof.Machine.execLoadDataReturn idx s
  | .accessPerform idx => Sys2Proof.Machine.execAccessPerform idx s
  | .retryListWalk word => Sys2Proof.Machine.execRetryListWalk word s
  | .requestRetry idx => Sys2Proof.Machine.execRequestRetry idx s
  | .accessFailAtHome idx => Sys2Proof.Machine.execAccessFailAtHome idx s
  | .smfrzDrain core ctx => Sys2Proof.Machine.execSmfrzDrain core ctx s
  | .flagfWrite idx ans => Sys2Proof.Machine.execFlagfWrite idx ans s
  | .vectorChunk core => Sys2Proof.Machine.execVectorChunk core s
  | .matrixStep core => Sys2Proof.Machine.execMatrixStep core s
  | .matrixGlobalRead core ans => Sys2Proof.Machine.execMatrixGlobalRead core ans s
  | .engineOpComplete thread op => Sys2Proof.Machine.execEngineOpComplete thread op s
  | .engineAccess thread op ans => Sys2Proof.Machine.execEngineAccess thread op ans s
  | .collMatch tag order => Sys2Proof.Machine.execCollMatch tag order s
  | .tlnoteLand thread op => Sys2Proof.Machine.execTlnoteLand thread op s
  | .preemptRequest core why => Sys2Proof.Machine.execPreemptRequest core why s
  | .timeSliceExpiry core => Sys2Proof.Machine.execTimeSliceExpiry core s
  | .spinDeschedule core => Sys2Proof.Machine.execSpinDeschedule core s
  | .unitHalt core => Sys2Proof.Machine.execUnitHalt core s
  | .unitSave core => Sys2Proof.Machine.execUnitSave core s
  | .saveComplete core => Sys2Proof.Machine.execSaveComplete core s
  | .restoreBegin core thread => Sys2Proof.Machine.execRestoreBegin core thread s
  | .restoreComplete core => Sys2Proof.Machine.execRestoreComplete core s
  | .unitDiscard core => Sys2Proof.Machine.execUnitDiscard core s
  | .dispatchSelect core => Sys2Proof.Machine.execDispatchSelect core s
  | .unitBind core thread => Sys2Proof.Machine.execUnitBind core thread s
  | .recordPlacement r => Sys2Proof.Machine.execRecordPlacement r s
  | .groupBind r cores threads => Sys2Proof.Machine.execGroupBind r cores threads s
  | .groupReserve r cores => Sys2Proof.Machine.execGroupReserve r cores s
  | .recordAgeing r => Sys2Proof.Machine.execRecordAgeing r s
  | .recordEligible r => Sys2Proof.Machine.execRecordEligible r s
  | .admitLaunchRecord part ring => Sys2Proof.Machine.execAdmitLaunchRecord part ring s
  | .recordFrameRetry core ctx => Sys2Proof.Machine.execRecordFrameRetry core ctx s
  | .unitEndRelease thread => Sys2Proof.Machine.execUnitEndRelease thread s
  | .jobCompletion job => Sys2Proof.Machine.execJobCompletion job s
  | .coreClockGate core => Sys2Proof.Machine.execCoreClockGate core s
  | .islandWake core => Sys2Proof.Machine.execIslandWake core s
  | .gbarComplete launch => Sys2Proof.Machine.execGbarComplete launch s
  | .gangRollback launch => Sys2Proof.Machine.execGangRollback launch s
  | .monitorFire idx => Sys2Proof.Machine.execMonitorFire idx s
  | .invalidationComplete thread ctx => Sys2Proof.Machine.execInvalidationComplete thread ctx s
  | .victimEvict part frame => Sys2Proof.Machine.execVictimEvict part frame s
  | .victimRecall part => Sys2Proof.Machine.execVictimRecall part s
  | .stageInstall part => Sys2Proof.Machine.execStageInstall part s
  | .stageUninstall part => Sys2Proof.Machine.execStageUninstall part s
  | .instanceStart asid stage inst thread => Sys2Proof.Machine.execInstanceStart asid stage inst thread s
  | .governorSample asid stage => Sys2Proof.Machine.execGovernorSample asid stage s
  | .splitRoutineEntry asid stage inst => Sys2Proof.Machine.execSplitRoutineEntry asid stage inst s
  | .twinStart asid stage inst thread => Sys2Proof.Machine.execTwinStart asid stage inst thread s
  | .brimMove asid stage inst lane => Sys2Proof.Machine.execBrimMove asid stage inst lane s
  | .recordDelivery asid stage inst => Sys2Proof.Machine.execRecordDelivery asid stage inst s
  | .twinQuiesce asid stage inst => Sys2Proof.Machine.execTwinQuiesce asid stage inst s
  | .mergeRoutineEntry asid stage inst => Sys2Proof.Machine.execMergeRoutineEntry asid stage inst s
  | .stageStop asid stage => Sys2Proof.Machine.execStageStop asid stage s
  | .gauntletRequest idx => Sys2Proof.Machine.execGauntletRequest idx s
  | .responseReceived idx => Sys2Proof.Machine.execResponseReceived idx s
  | .functionLevelReset part => Sys2Proof.Machine.execFunctionLevelReset part s
  | .logEntryWrite part => Sys2Proof.Machine.execLogEntryWrite part s
  | .packetReceive port p q => Sys2Proof.Machine.execPacketReceive port p q s
  | .linkReplay port => Sys2Proof.Machine.execLinkReplay port s
  | .linkDown port => Sys2Proof.Machine.execLinkDown port s
  | .routeChange gw peer v port => Sys2Proof.Machine.execRouteChange gw peer v port s
  | .peerFailed peer => Sys2Proof.Machine.execPeerFailed peer s
  | .hostMemRead addr len => Sys2Proof.Machine.execHostMemRead addr len s
  | .hostMemWrite addr bytes poison => Sys2Proof.Machine.execHostMemWrite addr bytes poison s
  | .hostLockedRmw addr op v => Sys2Proof.Machine.execHostLockedRmw addr op v s
  | .hostSnoop line => Sys2Proof.Machine.execHostSnoop line s
  | .aliasDataWrite off v => Sys2Proof.Machine.execAliasDataWrite off v s
  | .aliasFullEmptyWrite off v => Sys2Proof.Machine.execAliasFullEmptyWrite off v s
  | .notifyProdWrite part ring v => Sys2Proof.Machine.execNotifyProdWrite part ring v s
  | .notifyErrClear part ring => Sys2Proof.Machine.execNotifyErrClear part ring s
  | .notifyReprioritise part ring v => Sys2Proof.Machine.execNotifyReprioritise part ring v s
  | .windowEnable part w => Sys2Proof.Machine.execWindowEnable part w s
  | .windowDisable part w => Sys2Proof.Machine.execWindowDisable part w s
  | .poisonReportClear part => Sys2Proof.Machine.execPoisonReportClear part s
  | .bootstCommit => Sys2Proof.Machine.execBootstCommit s
  | .moduleCapWrite v => Sys2Proof.Machine.execModuleCapWrite v s
  | .registerWrite wr r v => Sys2Proof.Machine.execRegisterWrite wr r v s
  | .powerOnReset => Sys2Proof.Machine.execPowerOnReset s
  | .bootStep inp => Sys2Proof.Machine.execBootStep inp s
  | .treleveberRestart digest => Sys2Proof.Machine.execTreleveberRestart digest s
  | .spdmRequest r => Sys2Proof.Machine.execSpdmRequest r s
  | .dvfsChange island p => Sys2Proof.Machine.execDvfsChange island p s
  | .powerCapRegulate draw => Sys2Proof.Machine.execPowerCapRegulate draw s
  | .softError loc v => Sys2Proof.Machine.execSoftError loc v s
  | .deviceErrorReport line => Sys2Proof.Machine.execDeviceErrorReport line s
  | .peerSetPresent peer => Sys2Proof.Machine.execPeerSetPresent peer s
  | .carveOutChange steps => Sys2Proof.Machine.execCarveOutChange steps s
  | .islandPowerGating island off => Sys2Proof.Machine.execIslandPowerGating island off s
  | .policyFirmwareLoad digest => Sys2Proof.Machine.execPolicyFirmwareLoad digest s
  | .slotWrite c gen v => Sys2Proof.Machine.execSlotWrite c gen v s
  | .clusterRemap m => Sys2Proof.Machine.execClusterRemap m s
  | .tltEntryLost t => Sys2Proof.Machine.execTltEntryLost t s
  | .priResponse part asid va ans => Sys2Proof.Machine.execPriResponse part asid va ans s
  | .atsInvalidation part asid va len => Sys2Proof.Machine.execAtsInvalidation part asid va len s
  | .l2Fill asid va noise => Sys2Proof.Machine.execL2Fill asid va noise s
  | .l2Writeback asid va noise => Sys2Proof.Machine.execL2Writeback asid va noise s
  | .l2ModeChange priv => Sys2Proof.Machine.execL2ModeChange priv s
  | .viewLineAssemble w n => Sys2Proof.Machine.execViewLineAssemble w n s
  | .viewLineEvict w n => Sys2Proof.Machine.execViewLineEvict w n s
  | .victimMigrate token frame => Sys2Proof.Machine.execVictimMigrate token frame s

end Sys2Proof.Machine
end

