-- ==== Sys2Proof/Machine/Due.lean ====
section
/-!
DEFINITION. The machine's own work: which steps of its queues, cores, engines and tables could come next, and the one that the
model's step takes. The spec orders these steps only where its rules do; this file chooses among the rest (log 2).
-/
namespace Sys2Proof.Machine

/-! ## Candidates -/

/-- A step makes a difference. -/
def State.acts (s : State) (i : Instr) : Bool :=
  match exec i s with
  | .next t => t != s
  | .fault _ => false
  | .refused _ => false

/-- Steps of an access. -/
def Req.steps (r : Req) : List Instr :=
  match r.phase with
  | .issued => [.accessAccept r.id .notPresent]
  | .accepted => [.accessPerform r.id, .flagfWrite r.id .notPresent, .accessFailAtHome r.id]
  | .released => [.accessPerform r.id, .accessFailAtHome r.id]
  | .performed => [.loadDataReturn r.id]
  | .refused => [.accessFailAtHome r.id, .requestRetry r.id]
  | .listed => [.accessFailAtHome r.id]
  | .sent => [.accessFailAtHome r.id]
  | .frozen => []
  | .heldGang => []

/-- Landings, notices, accesses and packets in flight. -/
def State.flightSteps (s : State) : List Instr :=
  (upto s.resps.length).map .responseReceived ++ (upto s.inbound.length).map .gauntletRequest ++ s.reqs.flatMap Req.steps ++
  (upto s.flight.length).flatMap (fun i => [.landingBounce i, .landingDelivery i, .landingRetry i]) ++
  (upto s.notes.length).flatMap (fun i => [.noticeArrival i, .noticeRetry i]) ++
  (upto s.monitors.length).map .monitorFire ++ s.invs.map (fun v => .invalidationComplete v.thread v.ctx)

/-- A core's queues, its unit's wait for a map, its halt, save and restore. -/
def State.coreSteps (s : State) (k : Nat) : List Instr :=
  let c := s.coreAt k
  let waits (w : Wait) : List Nat := ((s.unitAt c.thread).ctxs.filter (fun x => x.2.live && x.2.wait == w)).map (·.1)
  (if c.sfu.isEmpty then [] else [.sfuResult k]) ++
  match c.st with
  | .idle => []
  | .running =>
    (waits .smfrz).map (.smfrzDrain k) ++ [.vectorChunk k, .matrixGlobalRead k .notPresent, .matrixStep k, .unitHalt k, .spinDeschedule k]
  | .halted => [.unitDiscard k, .unitSave k]
  | .saving => [.unitDiscard k, .saveComplete k]
  | .restoring => [.unitDiscard k, .restoreComplete k]

/-- Outstanding operations of a thread's timelines. -/
def engineSteps (t : Nat) (e : Thread) : List Instr :=
  e.ops.zip (upto e.ops.length) |>.flatMap (fun o =>
    [.engineOpComplete t o.2] ++
    match o.1.k with
    | .cpy _ _ _ _ _ => [.engineAccess t o.2 .notPresent]
    | .gath _ _ _ _ _ _ _ => [.engineAccess t o.2 .notPresent]
    | .scat _ _ _ _ _ _ _ => [.engineAccess t o.2 .notPresent]
    | .coll _ _ _ _ _ _ d _ _ => [.collMatch d.tag (upto d.n, [])]
    | .note _ _ => [.tlnoteLand t o.2]
    | .flagf _ _ _ => []
    | .land => []
    | .mat => [])

/-- The n lowest free thread numbers. -/
def State.freeThreads (s : State) (n : Nat) : List Nat := ((upto (s.threads.length + n + 1)).filter s.threadFree).take n
def State.freeThread (s : State) : Nat := (s.freeThreads 1).headD 0

/-- Steps of an installed stage; a copy whose page the host has yet to translate waits for its answer. -/
def State.stageSteps (s : State) (k : Nat) : List Instr :=
  let r := s.stageAt k
  let a := k / 256
  let g := k % 256
  let t := s.freeThread
  let lanes (x : Nat × Inst) : List Instr :=
    let told := !s.untold a ((s.stage a g).xfer + 2 ^ (s.stage a g).lg * x.1 + x.2.pos)
    if x.2.thread = 0 then (if told then [.twinStart a g x.1 (t, .notPresent)] else []) ++ [.instanceStart a g x.1 t]
    else
      (if x.2.deq then [.recordDelivery a g x.1, .splitRoutineEntry a g x.1, .mergeRoutineEntry a g x.1] ++
        (if told then [.twinQuiesce a g (x.1, .notPresent)] else []) else []) ++
      [.brimMove a g x.1 0, .brimMove a g x.1 1, .brimMove a g x.1 2]
  if !r.inst || r.stopped then []
  else .stageStop a g :: ((if r.insts.any (·.1 == 0) then [] else [(0, Inst.reset)]) ++ r.insts).flatMap lanes

/-- Steps of a partition's registers and rings; a ring whose page the host has yet to translate waits for its answer. -/
def State.partSteps (s : State) (p : Nat) (e : Part) : List Instr :=
  (e.rings.filter (fun r => !s.untold r.2.rasid r.2.next)).map (fun r => .admitLaunchRecord p (r.1, .notPresent)) ++
  (if e.logq.isEmpty then [] else [.logEntryWrite p]) ++
  e.jobsDone.map (fun j => .jobCompletion (inPart p j.1, .notPresent)) ++
  (if e.stCmd.isSome then [.stageInstall p, .stageUninstall p] else []) ++
  (if e.inReset then [.functionLevelReset p] else [])

/-- The oldest victim request of a partition. -/
def State.victimSteps (s : State) (p : Nat) : List Instr :=
  let f := ((s.gated.flatMap (fun q => (upto 48).map (48 * q + ·))).find? s.frameFree).getD 0
  if (s.part p).vreqs.isEmpty then [] else [.victimEvict p f, .victimRecall p]

/-! ## Groups (R45, R48, R366) -/

/-- Binding a group, and reserving for one. -/
def State.groupSteps (s : State) (r : Rec) : List Instr :=
  match s.groupOf r with
  | none => []
  | some g =>
    let l := s.nextCores r g
    [.groupBind r.id l (if r.k == .source then s.freeThreads g.length else []), .groupReserve r.id l]

/-! ## The dispatcher -/

/-- A core that has committed to a record binds it; another may select one, or gate its clock. -/
def State.dispatchSteps (s : State) : List Instr :=
  let bind (e : Nat × Core) : List Instr := match e.2.sel.bind s.rec? with
    | none => [.unitBind e.1 0]
    | some r => match r.k with
      | .saved => [.restoreBegin e.1 r.thread]
      | .suspended => [.unitBind e.1 r.thread]
      | .source => [.unitBind e.1 s.freeThread]
      | .posted => [.unitBind e.1 s.freeThread]
  let kept := s.stages.flatMap (fun e => e.2.insts.flatMap (fun x => if x.2.taken then [.restoreBegin x.2.core x.2.thread] else []))
  s.cores.flatMap (fun e => if e.2.sel.isSome then bind e else []) ++ kept ++
  s.recs.flatMap (fun r => [.recordEligible r.id, .recordAgeing r.id]) ++
  (if s.recs.isEmpty then [] else s.boundCores.map .dispatchSelect) ++
  s.recs.flatMap (fun r => s.groupSteps r ++ [.recordPlacement r.id]) ++ s.boundCores.map .coreClockGate

/-- A list from its place n on, round to what stands before it. -/
def turned {α : Type} (n : Nat) (l : List α) : List α := l.drop (n % (l.length + 1)) ++ l.take (n % (l.length + 1))

/-- The groups of the machine's own work. -/
def State.workGroups (s : State) : List (List Instr) :=
  [s.flightSteps, s.cores.flatMap (fun e => s.coreSteps e.1),
   s.threads.flatMap (fun e => if e.2.freed then [.unitEndRelease e.1] else []),
   s.launches.flatMap (fun e => if e.2.rolling then [.gangRollback e.1] else if e.2.gang then [.gbarComplete e.1] else []),
   s.parts.flatMap (fun e => s.partSteps e.1 e.2 ++ s.victimSteps e.1), s.stages.flatMap (fun e => s.stageSteps e.1),
   s.dispatchSteps, s.threads.flatMap (fun e => engineSteps e.1 e.2)]

/-- Everything that the machine itself could do next, in the order in which the model looks at it: from another group at each look, and
in each group from another step on, so that no kind of work, and no core, thread or access, keeps another from its turn for good
(R53, log 2). -/
def State.work (s : State) : List Instr := (turned (s.clk / 2) (s.workGroups.map (turned (s.clk / 18)))).flatten

/-- The work that the model's step takes. -/
def State.due (s : State) : Option Instr := s.work.find? s.acts

/-! ## Events of the clock (R38, R361, R377) -/

/-- A multiple of 2^n lies in the clk after a, up to b, counted from z. -/
def passes (n z a b : Nat) : Bool := (a - z) / 2 ^ n != (b - z) / 2 ^ n

/-- Slice ends, renewed requests for a frame and governor samples that the clk from a to b brings. -/
def State.clocked (s : State) (a b : Nat) : List Instr :=
  s.cores.flatMap (fun e =>
    let u := s.unitAt e.2.thread
    if e.2.st != .running then []
    else (if passes (s.part u.part).slice u.bindClk a b then [.timeSliceExpiry e.1] else []) ++
      (u.ctxs.filter (fun x => x.2.wait == .frame && passes 6 x.2.waitSince a b)).map (fun x => .recordFrameRetry e.1 x.1)) ++
  s.stages.flatMap (fun e =>
    if e.2.inst && !e.2.stopped && passes (s.stage (e.1 / 256) (e.1 % 256)).sper 0 a b then
      [.governorSample (e.1 / 256) (e.1 % 256)] else [])

/-! ## Waits -/

/-- A wait that ends by the waiting instruction's own next attempt. -/
def Wait.again : Wait → Bool
  | .gbar => false
  | .frame => false
  | .idle => false
  | .smfrz => false
  | .no => true | .reg => true | .link => true | .hjoin => true | .tlwait => true | .uexit => true | .tsync => true
  | .sfu => true | .engines => true | .fqprst => true | .shape => true | .unitIdle => true | .hold => true | .woken => true
  | .enqw _ _ _ => true
  | .frameDue => true

/-! ## One context's instruction -/

/-- PAD: the rest of the fetch block is skipped, a parcel at a time (R82). -/
def State.skipPad (s : State) : State := s.modCtx s.th s.ctx (fun c => { c with pc := c.pc + 4 })

/-- The context that has issued is the one from which the next search of its core starts (R144), and its core is awake (R302); one that
waits has not issued. -/
def noteIssue (k c : Nat) : Out → Out
  | .next t => .next (if ((t.unitAt (t.coreAt k).thread).ctxAt c).wait = .no then
      { t.modCore k (fun x => { x with lastCtx := c, gated := false }) with issued := some k } else t)
  | .fault f => .fault f
  | .refused r => .refused r

/-- The acting context at its boundary: what its fetch stops on first, a notice next, and then its instruction (R294, R398). -/
def State.issue (s : State) : Out :=
  let f := s.fetchAt
  match f.2 with
  | .fault k _ => execFetchFault (k, .notPresent) s
  | .reject c a => execDecodeTrap c a s
  | .pad => if (s.noticeDue s.core s.ctx).isSome then execNoticeDelivery s.core s.ctx s else .next f.1.skipPad
  | .instr i ir len =>
    if (s.noticeDue s.core s.ctx).isSome then execNoticeDelivery s.core s.ctx s
    else noteIssue s.core s.ctx (exec i { f.1 with ir := ir, len := len })

/-! ## Contexts that can issue (R144) -/

/-- Context c of core k makes an attempt: it does not wait, or its attempt would end or change its wait. -/
def State.ready (s : State) (k c : Nat) : Bool :=
  let x := (s.unitAt (s.coreAt k).thread).ctxAt c
  x.live && x.busy == .no &&
  (x.wait == .no || (s.noticeDue k c).isSome ||
    (x.wait.again && (match ({ s with core := k, ctx := c } : State).issue with
      | .next t => ((t.unitAt (t.coreAt k).thread).ctxAt c).wait != x.wait
      | .fault _ => true
      | .refused _ => true)))

/-- Contexts 0 to 10 from the one after n, wrapping (R144). -/
def ctxOrder (n : Nat) : List Nat := (upto 11).map (fun i => (n + 1 + i) % 11)

/-- The context of core k that issues next: none of a gang that rolls back, or of a unit that the governor copies from (R382, R401);
before a halt only one that stops at its boundary (R398). -/
def State.nextOf (s : State) (k : Nat) : Option Nat :=
  let c := s.coreAt k
  if c.st != .running || s.rolling c.thread || s.midCopy c.thread then none
  else (ctxOrder c.lastCtx).find? (fun x => s.ready k x && (c.halt.isNone || s.boundaryStop k x))

/-- The cores, from the one after the core that issued last. -/
def State.coreOrder (s : State) : List Nat :=
  let l := s.cores.map (·.1)
  l.filter (s.core < ·) ++ l.filter (· ≤ s.core)

/-- The core and the context that issue next. -/
def State.next? (s : State) : Option (Nat × Nat) :=
  firstSome (fun k => (s.nextOf k).map (fun c => (k, c))) s.coreOrder

/-! ## One step -/

/-- Clk events 0x00, 0x02 and 0x03 of a running unit over d clk, in the first of which its core has issued or not (R394). -/
def UnitSt.pmTick (u : UnitSt) (d : Nat) (issued : Bool) : UnitSt :=
  if u.pmctl = [] then u
  else
    let u := (u.pmClk 0 d).pmClk 2 (if issued then d - 1 else d)
    if u.ctxs.any (fun x => x.2.live && x.2.wait == .reg) then u.pmClk 3 d else u

/-- The clk events of every unit on a core (R394). -/
def State.pmPass (s : State) (d : Nat) : State :=
  s.cores.foldl (fun s e => if e.2.st == .running && (s.unitAt e.2.thread).pmctl != [] then
    s.modUnit e.2.thread (·.pmTick d (s.issued == some e.1)) else s) s

/-- What the lines written since the last step do: a run of loads on one of them is over (R310), and a monitor whose entry now reads
V = 1 has seen its write (R340). -/
def State.lookFresh (s : State) : State :=
  let dev := s.mem.fresh
  let host := s.hostMem.fresh
  if dev = [] && host = [] then s
  else
    let changed (ln : Nat) : Bool := if isHostLine ln then host.contains (ln - 2 ^ 60) else dev.contains ln
    let seen (m : Monitor) : Bool := match m.pte with
      | some a => dev.contains (a / 64) && (s.mem.read a 8).testBit 0
      | none => false
    { s with
      mem := { s.mem with fresh := [] }, hostMem := { s.hostMem with fresh := [] }
      monitors := s.monitors.map (fun m => if seen m then { m with hit := true } else m)
      units := s.units.map (fun e => (e.1, { e.2 with ctxs := e.2.ctxs.map (fun x =>
        (x.1, if x.2.spin.n != 0 && changed x.2.spin.line then x.2.noSpin else x.2)) })) }

/-- The clk advances, by one and what the environment adds; what falls in that time joins the steps that the clk has brought, and a
restart of Treleveber that has had its 5 ms is over (R405). -/
def State.tick (s : State) : State :=
  let n := s.clk + 1 + s.pace.headD 0
  let s := (s.pmPass (n - s.clk)).lookFresh
  let s := if s.boot.down.any (· ≤ n) then (match s.boot.inp with | some i => s.restartTrv i | none => s) else s
  { s with clk := n, pace := s.pace.drop 1, timed := s.timed ++ (s.clocked s.clk n).filter (!s.timed.contains ·), issued := none }

/-- The step that the clk has brought, in every other clk of those in which one waits: it keeps nothing else from its turn (R53). -/
def State.timedNow (s : State) : Option Instr := if s.clk % 2 = 0 then s.timed.head? else none

/-- A step that neither the agenda nor the clk fills: work and instructions take turns when both are there. -/
def State.freeStep (s : State) : Out :=
  match (if s.turn then s.due else none) with
  | some i => exec i { s with turn := false }
  | none => match s.next? with
    | some (k, c) => ({ s with turn := true, core := k, ctx := c } : State).issue
    | none => match s.due with
      | some i => exec i s
      | none => .next s

/-- After the tick: the agenda's first step, else one that the clk has brought, else a free one. An encoded instruction in the agenda is
no step of its own. -/
def State.afterTick (s : State) : Out :=
  match s.agenda with
  | i :: l => if i.isStep then exec i { s with agenda := l } else .next { s with agenda := l }
  | [] => match s.timedNow with
    | some i => exec i { s with timed := s.timed.drop 1 }
    | none => s.freeStep

/-! ## Placing an instruction (log 6) -/

/-- Where the coming step fetches, when it is to fetch from device memory and nothing comes before. -/
def State.fetchPlace (s : State) : Option Nat :=
  let t := s.tick
  if !t.agenda.isEmpty || t.timedNow.isSome || (t.turn && t.due.isSome) then none
  else match t.next? with
    | none => none
    | some (k, c) =>
      let u : State := { t with core := k, ctx := c }
      if (u.noticeDue k c).isSome then none
      else match u.translate u.un.asid u.cx.pc.toNat with
        | .page p => if p.x && p.aper = 0 then some (p.pa u.cx.pc.toNat) else none
        | .hostPage _ => none | .notValid _ => none | .invalid => none

/-- Page tables and code of the placed unit: tables at 64 KiB, a page of 1 GiB at 1 GiB, executable, readable, writable. -/
def placeTables (m : PMem) (asBase : Nat) : PMem :=
  (((m.write (asBase + 64) 64 0x10001 false).write 0x10000 8 0x11001 false).write 0x11000 8 0x12001 false).write
    0x12008 8 (0x70000040000000 + 0x3F) false

/-- A unit of address space 1 runs on core 0 as thread 1, at the first byte of its page; no other core
holds a unit, and no stage is installed. -/
def State.placeUnit (s : State) : State :=
  let u := { UnitSt.reset with asid := 1, ctxs := [(0, { Ctx.reset with live := true, pc := 0x40000000 })], bindClk := s.clk }
  { s with
    boot := { s.boot with stage := 7 }, agenda := [], timed := [], pace := [], turn := false, core := 0, ctx := 0, tcs := []
    mem := placeTables s.mem s.asBase
    cores := [(0, { s.coreAt 0 with st := .running, thread := 1, halt := none, gated := false, sel := none })], stages := []
    threads := s.threads.set 1 { Thread.reset with st := .resident, asid := 1, loc := 0, counted := true }
    units := s.units.set 1 u }

/-- The bytes of an instruction go where the coming step fetches; with nothing running, to a unit that runs. -/
def State.placeInstr (s : State) (w : Nat) : State :=
  match s.fetchPlace with
  | some pa => { s with mem := s.mem.write pa 16 w false }
  | none => let s := s.placeUnit; { s with mem := s.mem.write 0x40000000 16 w false }

end Sys2Proof.Machine
end

