-- ==== Sys2Proof/Machine/Step.lean ====
section
/-!
DEFINITION. One step of the machine, and an instruction placed where the coming step fetches it (log 2, log 6).
-/
namespace Sys2Proof.Machine

/-- One step: the clk advances, and then one thing happens. -/
def step (s : State) : Host.Outcome State Fault Refusal := s.tick.afterTick

/-- s with the instruction whose bits are w placed where step fetches next; the bits from nbits up are zero. -/
def State.withFetchWord (s : State) (nbits w : Nat) : State := s.placeInstr (w % 2 ^ nbits)

end Sys2Proof.Machine
end

