-- ==== Sys2Proof/Laws/Decode.lean ====
section
/-!
SUPPORT. The codes of an instruction's fields are read back as the fields, and a packed form is read back as the form:
decoding the parcels of a form whose operands have codes of their own answers what `Form.instr` reads from that form.
-/
namespace Sys2Proof

/-! ## Bit fields of a concatenation -/

theorem append_extract_low {a b : Nat} (x : BitVec a) (y : BitVec b) (s n : Nat) (h : s + n ≤ b) :
    (x ++ y).extractLsb' s n = y.extractLsb' s n := by
  ext i hi
  simp [BitVec.getLsbD_append, show s + i < b by omega]

theorem append_extract_high {a b p : Nat} (x : BitVec a) (y : BitVec b) (h : p = b) :
    (x ++ y).extractLsb' p a = x := by
  subst h
  ext i hi
  simp only [BitVec.getElem_extractLsb', BitVec.getLsbD_append, show ¬ (p + i < p) by omega,
    show p + i - p = i by omega]
  exact BitVec.getLsbD_eq_getElem hi

theorem extract_all {b : Nat} (y : BitVec b) : y.extractLsb' 0 b = y := by
  ext i hi
  simp

theorem append_get_low {a b : Nat} (x : BitVec a) (y : BitVec b) (s : Nat) (h : s < b) :
    (x ++ y).getLsbD s = y.getLsbD s := by
  simp [BitVec.getLsbD_append, h]

theorem append_get_high {b p : Nat} (x : Bool) (y : BitVec b) (h : p = b) : (BitVec.ofBool x ++ y).getLsbD p = x := by
  subst h
  cases x <;> simp [BitVec.getElem_append]

/-! ## Codes read back -/

/-- An operand whose code names it: every operand but a reserved one that wears another's code. -/
def Opd.Clean (o : Opd) : Prop := Opd.ofCode o.code = o

theorem Opd.clean_of_not_rsv (o : Opd) (h : o.isRsv = false) : o.Clean := by
  cases o with
  | g n => revert n; unfold Opd.Clean; decide
  | link d => revert d; unfold Opd.Clean; decide
  | x k => revert k; unfold Opd.Clean; decide
  | imm => unfold Opd.Clean; decide
  | rsv c => simp [Opd.isRsv] at h

theorem Opd.clean_g (n : BitVec 5) : (Opd.g n).Clean := Opd.clean_of_not_rsv _ rfl
theorem Opd.clean_imm : Opd.imm.Clean := Opd.clean_of_not_rsv _ rfl

@[simp] theorem Ty.ofCode_code (t : Ty) : Ty.ofCode t.code = some t := by cases t <;> rfl
@[simp] theorem Md.ofCode_code (m : Md) : Md.ofCode m.code = some m := by
  rcases m with ⟨r, s⟩
  cases r <;> cases s <;> rfl
@[simp] theorem satCode_get (s : Bool) : (satCode s).getLsbD 3 = s := by cases s <;> rfl
@[simp] theorem Cc.ofCode_code (c : Cc) : Cc.ofCode c.code = some c := by cases c <;> rfl
@[simp] theorem Sz.ofCode_code (c : Sz) : Sz.ofCode c.code = some c := by cases c <;> rfl
@[simp] theorem Sm.ofCode_code (c : Sm) : Sm.ofCode c.code = some c := by cases c <;> rfl
@[simp] theorem Space.ofCode_code (c : Space) : Space.ofCode c.code = some c := by cases c <;> rfl
@[simp] theorem AOp.ofCode_code (c : AOp) : AOp.ofCode c.code = some c := by cases c <;> rfl
@[simp] theorem SfuFn.ofCode_code (c : SfuFn) : SfuFn.ofCode c.code = some c := by cases c <;> rfl
@[simp] theorem PackForm.ofCode_code (c : PackForm) : PackForm.ofCode c.code = some c := by cases c <;> rfl
@[simp] theorem BufState.ofCode_code (c : BufState) : BufState.ofCode c.code = some c := by cases c <;> rfl
@[simp] theorem Policy.ofCode_code (c : Policy) : Policy.ofCode c.code = some c := by cases c <;> rfl
@[simp] theorem Level.ofCode_code (c : Level) : Level.ofCode c.code = some c := by cases c <;> rfl
@[simp] theorem CollOp.ofCode_code (c : CollOp) : CollOp.ofCode c.code = some c := by cases c <;> rfl
@[simp] theorem ShField.ofCode_code (c : ShField) : ShField.ofCode c.code = some c := by
  cases c with
  | ext d => revert d; decide
  | stride d => revert d; decide
  | cur d => revert d; decide
  | base => rfl
  | esz => rfl
  | rank => rfl
  | remain => rfl
  | index => rfl
  | rewind => rfl

@[simp] theorem LandOpt.ofCode_code (l : LandOpt) : LandOpt.ofCode l.code = l := by
  rcases l with ⟨u, t, tl⟩
  revert u t tl
  decide

@[simp] theorem Ty.ofCode_zero : Ty.ofCode 0#4 = some .i64 := rfl
@[simp] theorem Sz.ofCode_three : Sz.ofCode 3#4 = some .d := rfl
@[simp] theorem Space.code_ofCode_glob : Space.ofCode 0#2 = some .glob := rfl

@[simp] theorem Md.ofCode_zero : Md.ofCode 0#4 = some ⟨.rne, false⟩ := rfl
@[simp] theorem Md.ofCode_satCode (s : Bool) : Md.ofCode (satCode s) = some ⟨.rne, s⟩ := by cases s <;> rfl

/-! ## Parts of coded fields -/

@[simp] theorem hintOf_landOpt (lo : LandOpt) (low : BitVec 9) : (hintOf lo low).extractLsb' 9 5 = lo.code :=
  append_extract_high _ _ rfl
@[simp] theorem hintOf_policy (lo : LandOpt) (pol : Policy) :
    Policy.ofCode (hintOf lo (pol.code.extractLsb' 0 9)) = some pol := by
  rcases lo with ⟨u, t, tl⟩
  cases pol <;> revert u t tl <;> decide
@[simp] theorem hintOf_reg (lo : LandOpt) (c : BitVec 6) : (hintOf lo (0#3 ++ c)).extractLsb' 0 6 = c :=
  (append_extract_low _ _ 0 6 (by omega)).trans ((append_extract_low _ _ 0 6 (by omega)).trans (extract_all _))
@[simp] theorem landOpt_field (lo : LandOpt) : ((0#3 ++ lo.code : BitVec 8)).extractLsb' 0 5 = lo.code :=
  (append_extract_low _ _ 0 5 (by omega)).trans (extract_all _)
@[simp] theorem setWidth_field {n k : Nat} (x : BitVec n) (h : n ≤ k) : (x.setWidth k).extractLsb' 0 n = x := by
  ext i hi
  simp [show i < k by omega, hi]
@[simp] theorem tlTy_field (tl : BitVec 3) : (tlTy tl).extractLsb' 0 3 = tl :=
  (append_extract_low _ _ 0 3 (by omega)).trans (extract_all _)

theorem nc_field (b : Bool) (c : BitVec 4) : (0#3 ++ (BitVec.ofBool b ++ c) : BitVec 8).getLsbD 4 = b :=
  (append_get_low _ _ 4 (by omega)).trans (append_get_high _ _ rfl)
theorem nc_fn (b : Bool) (c : BitVec 4) : (0#3 ++ (BitVec.ofBool b ++ c) : BitVec 8).extractLsb' 0 4 = c :=
  (append_extract_low _ _ 0 4 (by omega)).trans
    ((append_extract_low _ _ 0 4 (by omega)).trans (extract_all _))

@[simp] theorem ShardOp.a64_shard (o : ShardOp) (fn md ty : BitVec 4) : (o.a64 fn md ty).shard = o :=
  congrArg (fun b => (⟨o.d, o.a, o.ta, o.b, o.tb, b, o.imm⟩ : ShardOp)) (nc_field o.nc fn)
@[simp] theorem ShardOp.a64_fn (o : ShardOp) (fn md ty : BitVec 4) : (o.a64 fn md ty).fn.extractLsb' 0 4 = fn :=
  nc_fn o.nc fn
@[simp] theorem ShardOp.a64_md (o : ShardOp) (fn md ty : BitVec 4) : (o.a64 fn md ty).md = md := rfl
@[simp] theorem ShardOp.a64_ty (o : ShardOp) (fn md ty : BitVec 4) : (o.a64 fn md ty).ty = ty := rfl

theorem land_field (b : Bool) (c : BitVec 4) : (BitVec.ofBool b ++ (0#3 ++ c) : BitVec 8).getLsbD 7 = b :=
  append_get_high _ _ rfl
theorem land_op (b : Bool) (c : BitVec 4) : (BitVec.ofBool b ++ (0#3 ++ c) : BitVec 8).extractLsb' 0 4 = c :=
  (append_extract_low _ _ 0 4 (by omega)).trans
    ((append_extract_low _ _ 0 4 (by omega)).trans (extract_all _))

theorem PostOp.a64_postOp (p : PostOp) : p.a64.postOp p.off = p := by
  have h1 : (0#1 ++ p.ntb : BitVec 4).extractLsb' 0 3 = p.ntb :=
    (append_extract_low _ _ 0 3 (by omega)).trans (extract_all _)
  have h2 : (BitVec.ofBool p.prioSet ++ p.prio : BitVec 8).getLsbD 7 = p.prioSet := append_get_high _ _ rfl
  have h3 : (BitVec.ofBool p.prioSet ++ p.prio : BitVec 8).extractLsb' 0 7 = p.prio :=
    (append_extract_low _ _ 0 7 (by omega)).trans (extract_all _)
  exact (PostOp.mk.injEq ..).mpr ⟨rfl, rfl, rfl, rfl, h1, h2, h3⟩

/-! ## Parcels read back -/

theorem A64.p0_fields (f : A64) (op : BitVec 8) (l : BitVec 2) :
    (f.p0 op l).extractLsb' 0 2 = l ∧ opOf (f.p0 op l) = op ∧ (f.p0 op l).extractLsb' 10 6 = f.d.code ∧
    (f.p0 op l).extractLsb' 16 6 = f.a.code ∧ (f.p0 op l).extractLsb' 22 6 = f.b.code ∧
    (f.p0 op l).getLsbD 28 = f.ta ∧ (f.p0 op l).getLsbD 29 = f.tb := by
  unfold A64.p0 opOf
  refine ⟨?_, ?_, ?_, ?_, ?_, ?_, ?_⟩
  · repeat refine (append_extract_low _ _ _ _ (by omega)).trans ?_
    exact extract_all _
  all_goals first
    | (repeat refine (append_extract_low _ _ _ _ (by omega)).trans ?_); exact append_extract_high _ _ rfl
    | (repeat refine (append_get_low _ _ _ (by omega)).trans ?_); exact append_get_high _ _ rfl

theorem A64.p1_fields (f : A64) :
    f.p1.extractLsb' 16 16 = f.imm ∧ f.p1.extractLsb' 8 8 = f.fn ∧ f.p1.extractLsb' 4 4 = f.md ∧
    f.p1.extractLsb' 0 4 = f.ty := by
  unfold A64.p1
  refine ⟨?_, ?_, ?_, ?_⟩
  iterate 3
    (repeat refine (append_extract_low _ _ _ _ (by omega)).trans ?_); exact append_extract_high _ _ rfl
  repeat refine (append_extract_low _ _ _ _ (by omega)).trans ?_
  exact extract_all _

theorem A64.ofParcels_parcels (f : A64) (op : BitVec 8) (l : BitVec 2) (hd : f.d.Clean) (ha : f.a.Clean)
    (hb : f.b.Clean) : A64.ofParcels (f.p0 op l) f.p1 = f := by
  obtain ⟨-, -, h1, h2, h3, h4, h5⟩ := f.p0_fields op l
  obtain ⟨h6, h7, h8, h9⟩ := f.p1_fields
  unfold A64.ofParcels
  rw [h1, h2, h3, h4, h5, h6, h7, h8, h9, hd, ha, hb]

theorem M96.ofParcels_parcels (f : M96) (op : BitVec 8) (hd : f.v.Clean) (ha : f.base.Clean) (hb : f.index.Clean) :
    ∃ p0 p1 p2, f.parcels op = [p0, p1, p2] ∧ p0.extractLsb' 0 2 = 1#2 ∧ opOf p0 = op ∧
      M96.ofParcels p0 p1 p2 = f := by
  refine ⟨_, _, _, rfl, ?_, ?_, ?_⟩
  · repeat refine (append_extract_low _ _ _ _ (by omega)).trans ?_
    exact extract_all _
  · unfold opOf
    repeat refine (append_extract_low _ _ _ _ (by omega)).trans ?_
    exact append_extract_high _ _ rfl
  · rcases f with ⟨sc, tv, index, base, v, hint, sp, fn, sm, sz, disp⟩
    simp only [M96.ofParcels, M96.mk.injEq]
    and_intros
    · exact append_extract_high _ _ rfl
    · repeat refine (append_get_low _ _ _ (by omega)).trans ?_
      exact append_get_high _ _ rfl
    · refine Eq.trans (congrArg Opd.ofCode ?_) hb
      repeat refine (append_extract_low _ _ _ _ (by omega)).trans ?_
      exact append_extract_high _ _ rfl
    · refine Eq.trans (congrArg Opd.ofCode ?_) ha
      repeat refine (append_extract_low _ _ _ _ (by omega)).trans ?_
      exact append_extract_high _ _ rfl
    · refine Eq.trans (congrArg Opd.ofCode ?_) hd
      repeat refine (append_extract_low _ _ _ _ (by omega)).trans ?_
      exact append_extract_high _ _ rfl
    iterate 4
      (repeat refine (append_extract_low _ _ _ _ (by omega)).trans ?_); exact append_extract_high _ _ rfl
    · repeat refine (append_extract_low _ _ _ _ (by omega)).trans ?_
      exact extract_all _
    · trivial

theorem V96.ofParcels_parcels (f : V96) (op : BitVec 8) (hg : f.gs.Clean) :
    ∃ p0 p1 p2, f.parcels op = [p0, p1, p2] ∧ p0.extractLsb' 0 2 = 1#2 ∧ opOf p0 = op ∧
      V96.ofParcels p0 p1 p2 = f := by
  refine ⟨_, _, _, rfl, ?_, ?_, ?_⟩
  · repeat refine (append_extract_low _ _ _ _ (by omega)).trans ?_
    exact extract_all _
  · unfold opOf
    repeat refine (append_extract_low _ _ _ _ (by omega)).trans ?_
    exact append_extract_high _ _ rfl
  · rcases f with ⟨gs, sbf, sc, sb, sa, sd, count, fn, md, ty, imm⟩
    simp only [V96.ofParcels, V96.mk.injEq]
    and_intros
    · refine Eq.trans (congrArg Opd.ofCode ?_) hg
      repeat refine (append_extract_low _ _ _ _ (by omega)).trans ?_
      exact append_extract_high _ _ rfl
    · repeat refine (append_get_low _ _ _ (by omega)).trans ?_
      exact append_get_high _ _ rfl
    iterate 7
      (repeat refine (append_extract_low _ _ _ _ (by omega)).trans ?_); exact append_extract_high _ _ rfl
    · repeat refine (append_extract_low _ _ _ _ (by omega)).trans ?_
      exact extract_all _
    · trivial

/-- A 6-bit code from its top two and low four bits. -/
theorem code_join (c : BitVec 6) : c.extractLsb' 4 2 ++ c.extractLsb' 0 4 = c := by
  revert c
  decide

theorem join_congr {x x' : BitVec 2} {y y' : BitVec 4} (hx : x = x') (hy : y = y') :
    (x ++ y : BitVec 6) = x' ++ y' := by rw [hx, hy]

theorem T128.ofParcels_parcels (f : T128) (op : BitVec 8) (ha : f.ga.Clean) (hb : f.gb.Clean) (hc : f.gc.Clean)
    (hd : f.gd.Clean) :
    ∃ p0 p1 p2 p3, f.parcels op = [p0, p1, p2, p3] ∧ p0.extractLsb' 0 2 = 2#2 ∧ opOf p0 = op ∧
      T128.ofParcels p0 p1 p2 = f := by
  refine ⟨_, _, _, _, rfl, ?_, ?_, ?_⟩
  · repeat refine (append_extract_low _ _ _ _ (by omega)).trans ?_
    exact extract_all _
  · unfold opOf
    repeat refine (append_extract_low _ _ _ _ (by omega)).trans ?_
    exact append_extract_high _ _ rfl
  · rcases f with ⟨ga, gb, gc, gd, osrc, fn, accmode, sb, sa, tyb, tya, acc, notify, tle, tl, step, kcnt⟩
    simp only [T128.ofParcels, T128.mk.injEq]
    and_intros
    · refine Eq.trans (congrArg Opd.ofCode ?_) ha
      repeat refine (append_extract_low _ _ _ _ (by omega)).trans ?_
      exact append_extract_high _ _ rfl
    · refine Eq.trans (congrArg Opd.ofCode ?_) hb
      repeat refine (append_extract_low _ _ _ _ (by omega)).trans ?_
      exact append_extract_high _ _ rfl
    · refine Eq.trans (congrArg Opd.ofCode ?_) hc
      repeat refine (append_extract_low _ _ _ _ (by omega)).trans ?_
      exact append_extract_high _ _ rfl
    · refine Eq.trans (congrArg Opd.ofCode ?_) hd
      refine Eq.trans (join_congr ?_ ?_) (code_join gd.code)
      · repeat refine (append_extract_low _ _ _ _ (by omega)).trans ?_
        exact extract_all _
      · exact append_extract_high _ _ rfl
    all_goals first
      | (repeat refine (append_extract_low _ _ _ _ (by omega)).trans ?_); exact append_extract_high _ _ rfl
      | (repeat refine (append_get_low _ _ _ (by omega)).trans ?_); exact append_get_high _ _ rfl
      | (repeat refine (append_extract_low _ _ _ _ (by omega)).trans ?_); exact extract_all _

/-! ## Forms read back -/

/-- The major opcode of a form. -/
def Form.op : Form → BitVec 8
  | .a64 op _ | .i96 op _ _ | .i128 op _ _ _ | .m96 op _ | .v96 op _ | .t128 op _ => op

/-- The format of a form. -/
def Form.fmt : Form → Fmt
  | .a64 _ _ => .a64
  | .i96 _ _ _ => .i96
  | .i128 _ _ _ _ => .i128
  | .m96 _ _ => .m96
  | .v96 _ _ => .v96
  | .t128 _ _ => .t128

/-- Every operand of the form has a code of its own. I128 names no function (R84). -/
def Form.Clean : Form → Prop
  | .a64 _ f | .i96 _ f _ => f.d.Clean ∧ f.a.Clean ∧ f.b.Clean
  | .i128 _ d _ _ => d.Clean
  | .m96 _ f => f.v.Clean ∧ f.base.Clean ∧ f.index.Clean
  | .v96 _ f => f.gs.Clean
  | .t128 _ f => f.ga.Clean ∧ f.gb.Clean ∧ f.gc.Clean ∧ f.gd.Clean

/-- The parcels of a form start with its length and opcode, and its format reads the form back from them. -/
theorem Form.parcels_read (f : Form) (h : f.Clean) (rest : List Parcel) :
    ∃ p0 ps, f.parcels = p0 :: ps ∧ p0.extractLsb' 0 2 = f.fmt.len ∧ opOf p0 = f.op ∧
      f.parcels.length = 2 + f.fmt.len.toNat ∧ Form.ofParcels f.fmt (f.parcels ++ rest) = some f := by
  cases f with
  | a64 op f =>
    obtain ⟨h1, h2, -⟩ := f.p0_fields op 0
    refine ⟨_, _, rfl, h1, h2, rfl, ?_⟩
    show some (Form.a64 (opOf _) (.ofParcels _ _)) = _
    rw [h2, f.ofParcels_parcels op 0 h.1 h.2.1 h.2.2]
  | i96 op f imm =>
    obtain ⟨h1, h2, -⟩ := f.p0_fields op 1
    refine ⟨_, _, rfl, h1, h2, rfl, ?_⟩
    show some (Form.i96 (opOf _) (.ofParcels _ _) _) = _
    rw [h2, f.ofParcels_parcels op 1 h.1 h.2.1 h.2.2]
  | i128 op d fn imm =>
    have h1 : opOf (0#16 ++ (d.code ++ (op ++ 2#2)) : BitVec 32) = op := by
      unfold opOf
      repeat refine (append_extract_low _ _ _ _ (by omega)).trans ?_
      exact append_extract_high _ _ rfl
    refine ⟨_, _, rfl, ?_, h1, rfl, ?_⟩
    · repeat refine (append_extract_low _ _ _ _ (by omega)).trans ?_
      exact extract_all _
    · show some (Form.i128 (opOf _) (.ofCode _) _ _) = _
      rw [h1]
      refine congrArg some ((Form.i128.injEq ..).mpr ⟨rfl, Eq.trans (congrArg Opd.ofCode ?_) h, ?_, ?_⟩)
      · repeat refine (append_extract_low _ _ _ _ (by omega)).trans ?_
        exact append_extract_high _ _ rfl
      · repeat refine (append_extract_low _ _ _ _ (by omega)).trans ?_
        exact append_extract_high _ _ rfl
      · ext i hi
        simp only [BitVec.getElem_append, BitVec.getElem_extractLsb']
        split
        · simp only [Nat.zero_add]; exact BitVec.getLsbD_eq_getElem hi
        · rw [show 32 + (i - 32) = i by omega]; exact BitVec.getLsbD_eq_getElem hi
  | m96 op f =>
    obtain ⟨p0, p1, p2, e, h1, h2, h3⟩ := f.ofParcels_parcels op h.1 h.2.1 h.2.2
    refine ⟨p0, [p1, p2], e, h1, h2, ?_, ?_⟩
    · show (f.parcels op).length = _
      rw [e]; rfl
    · show Form.ofParcels .m96 (f.parcels op ++ rest) = _
      rw [e]
      show some (Form.m96 (opOf p0) (.ofParcels p0 p1 p2)) = _
      rw [h2, h3]
  | v96 op f =>
    obtain ⟨p0, p1, p2, e, h1, h2, h3⟩ := f.ofParcels_parcels op h
    refine ⟨p0, [p1, p2], e, h1, h2, ?_, ?_⟩
    · show (f.parcels op).length = _
      rw [e]; rfl
    · show Form.ofParcels .v96 (f.parcels op ++ rest) = _
      rw [e]
      show some (Form.v96 (opOf p0) (.ofParcels p0 p1 p2)) = _
      rw [h2, h3]
  | t128 op f =>
    obtain ⟨p0, p1, p2, p3, e, h1, h2, h3⟩ := f.ofParcels_parcels op h.1 h.2.1 h.2.2.1 h.2.2.2
    refine ⟨p0, [p1, p2, p3], e, h1, h2, ?_, ?_⟩
    · show (f.parcels op).length = _
      rw [e]; rfl
    · show Form.ofParcels .t128 (f.parcels op ++ rest) = _
      rw [e]
      show some (Form.t128 (opOf p0) (.ofParcels p0 p1 p2)) = _
      rw [h2, h3]

theorem Fmt.len_ne_three (f : Fmt) : f.len ≠ 3#2 := by cases f <;> decide

theorem lenOf_eq (p0 : Parcel) : lenOf p0 = 8 + 4 * (p0.extractLsb' 0 2).toNat := by
  simp [lenOf, BitVec.extractLsb'_toNat]

/-- Decoding what an instruction's form packs to answers the instruction, when its opcode has that format, its operands
have codes of their own, `Form.instr` reads it and no static cause applies. -/
theorem decode_of_form {i : Instr} {f : Form} (hf : i.form = some f) (hop : fmtOf f.op = some f.fmt) (hc : f.Clean)
    (hr : f.instr = some i) (hw : i.WellFormed = true) (off : Nat) (rest : List Parcel)
    (hl : off + 4 * (encode i).length ≤ 32) : decode off (encode i ++ rest) = .ok i := by
  have he : encode i = f.parcels := by simp [encode, hf]
  obtain ⟨p0, ps, e, h1, h2, h3, h4⟩ := f.parcels_read hc rest
  simp only [Instr.WellFormed, Bool.and_eq_true] at hw
  obtain ⟨⟨⟨w1, w2⟩, w3⟩, w4⟩ := hw
  have hdf : decodeFields f (encode i ++ rest) = .ok i := by
    simp [decodeFields, hr, w1, w2, w3]
  have hpad : p0 ≠ 0xFFFFFFFF#32 := by
    intro hp
    apply f.fmt.len_ne_three
    rw [← h1, hp]
    decide
  have hfill : p0.extractLsb' 0 2 ≠ 3#2 := by rw [h1]; exact f.fmt.len_ne_three
  have hlen : ¬ 32 < off + lenOf p0 := by
    rw [lenOf_eq, h1]
    rw [he, h3] at hl
    omega
  rw [he] at hdf
  rw [e, List.cons_append] at h4 hdf
  have hform : decodeForm p0 (ps ++ rest) = .ok f := by
    simp [decodeForm, h2, hop, h1, h4]
  rw [he, e, List.cons_append]
  simp [decode, decodeParcels, hpad, hfill, hlen, hform, hdf, w4]

end Sys2Proof
end

