-- ==== Sys2Proof/Laws/PerInstr.lean ====
section
/-!
SUPPORT. Statements made per instruction. RoundTrip: an encoded instruction that is well formed is read back from its own
parcels, wherever they stand in a fetch block that they do not leave and whatever follows them; a machine step has no
parcels.
-/
namespace Sys2Proof.Laws.RoundTrip

set_option Elab.async false
set_option linter.unusedSimpArgs false

def Statement (i : Instr) : Prop :=
  (i.isStep = false → i.WellFormed = true → ∀ (off : Nat) (rest : List Parcel), off + 4 * (encode i).length ≤ 32 →
    decode off (encode i ++ rest) = .ok i) ∧
  (i.isStep = true → encode i = [])

theorem of_step {i : Instr} (h : i.isStep = true) (hf : i.form = none) : Statement i :=
  ⟨fun h' => absurd h (by simp [h']), fun _ => by simp [encode, hf]⟩

theorem satCode_getElem (s : Bool) : (satCode s)[3] = s := by cases s <;> rfl

/-- An encoded instruction with form f and operand fields l, whose condition on coded fields is c. -/
theorem of_form {i : Instr} (f : Form) (l : List (Opd × Accept)) (c : Bool) (h : i.isStep = false)
    (hf : i.form = some f) (hop : fmtOf f.op = some f.fmt) (hl : i.opds = l) (hc : i.coded = c)
    (hr : (∀ p ∈ l, p.1.Clean) → c = true → f.Clean ∧ f.instr = some i) : Statement i := by
  refine ⟨fun _ hw off rest hlen => ?_, fun h' => absurd h' (by simp [h])⟩
  have hw' := hw
  simp only [Instr.WellFormed, Bool.and_eq_true] at hw'
  have hn : ∀ p ∈ l, p.1.Clean := by
    intro p hp
    have := List.all_eq_true.mp hw'.1.1.2 p (hl ▸ hp)
    exact p.1.clean_of_not_rsv (by simpa using this)
  obtain ⟨h1, h2⟩ := hr hn (hc ▸ hw'.1.1.1)
  exact decode_of_form hf hop h1 h2 hw off rest hlen

theorem iadd (ty : Ty) (sat : Bool) (o : Bin) : Statement (.iadd ty sat o) := by
  refine of_form (.a64 0x01 (o.a64 0 (satCode sat) ty.code)) (o.opds) (ty.isInt && o.ok) rfl rfl rfl rfl rfl
    (fun h hc => ?_)
  simp [Bin.opds, Un.opds, MemOp.addr, ShardOp.opds] at h hc
  constructor
  · simp [Form.Clean, Bin.a64, Un.a64, Src.a64, ShardOp.a64, Opd.clean_g, Opd.clean_imm, h, hc]
  · simp [Form.instr, intInstr, Bin.a64, Un.a64, Src.a64, ShardOp.a64, A64.bin, A64.un, A64.src, A64.shard, A64.sat, A64.tl, satCode_getElem]

theorem isub (ty : Ty) (sat : Bool) (o : Bin) : Statement (.isub ty sat o) := by
  refine of_form (.a64 0x02 (o.a64 0 (satCode sat) ty.code)) (o.opds) (ty.isInt && o.ok) rfl rfl rfl rfl rfl
    (fun h hc => ?_)
  simp [Bin.opds, Un.opds, MemOp.addr, ShardOp.opds] at h hc
  constructor
  · simp [Form.Clean, Bin.a64, Un.a64, Src.a64, ShardOp.a64, Opd.clean_g, Opd.clean_imm, h, hc]
  · simp [Form.instr, intInstr, Bin.a64, Un.a64, Src.a64, ShardOp.a64, A64.bin, A64.un, A64.src, A64.shard, A64.sat, A64.tl, satCode_getElem]

theorem imul (ty : Ty) (sat : Bool) (o : Bin) : Statement (.imul ty sat o) := by
  refine of_form (.a64 0x03 (o.a64 0 (satCode sat) ty.code)) (o.opds) (ty.isInt && o.ok) rfl rfl rfl rfl rfl
    (fun h hc => ?_)
  simp [Bin.opds, Un.opds, MemOp.addr, ShardOp.opds] at h hc
  constructor
  · simp [Form.Clean, Bin.a64, Un.a64, Src.a64, ShardOp.a64, Opd.clean_g, Opd.clean_imm, h, hc]
  · simp [Form.instr, intInstr, Bin.a64, Un.a64, Src.a64, ShardOp.a64, A64.bin, A64.un, A64.src, A64.shard, A64.sat, A64.tl, satCode_getElem]

theorem imulh (ty : Ty) (o : Bin) : Statement (.imulh ty o) := by
  refine of_form (.a64 0x04 (o.a64 0 0 ty.code)) (o.opds) (ty.isInt && o.ok) rfl rfl rfl rfl rfl
    (fun h hc => ?_)
  simp [Bin.opds, Un.opds, MemOp.addr, ShardOp.opds] at h hc
  constructor
  · simp [Form.Clean, Bin.a64, Un.a64, Src.a64, ShardOp.a64, Opd.clean_g, Opd.clean_imm, h, hc]
  · simp [Form.instr, intInstr, Bin.a64, Un.a64, Src.a64, ShardOp.a64, A64.bin, A64.un, A64.src, A64.shard, A64.sat, A64.tl, satCode_getElem]

theorem idiv (ty : Ty) (o : Bin) : Statement (.idiv ty o) := by
  refine of_form (.a64 0x05 (o.a64 0 0 ty.code)) (o.opds) (ty.isInt && o.ok) rfl rfl rfl rfl rfl
    (fun h hc => ?_)
  simp [Bin.opds, Un.opds, MemOp.addr, ShardOp.opds] at h hc
  constructor
  · simp [Form.Clean, Bin.a64, Un.a64, Src.a64, ShardOp.a64, Opd.clean_g, Opd.clean_imm, h, hc]
  · simp [Form.instr, intInstr, Bin.a64, Un.a64, Src.a64, ShardOp.a64, A64.bin, A64.un, A64.src, A64.shard, A64.sat, A64.tl, satCode_getElem]

theorem irem (ty : Ty) (o : Bin) : Statement (.irem ty o) := by
  refine of_form (.a64 0x06 (o.a64 0 0 ty.code)) (o.opds) (ty.isInt && o.ok) rfl rfl rfl rfl rfl
    (fun h hc => ?_)
  simp [Bin.opds, Un.opds, MemOp.addr, ShardOp.opds] at h hc
  constructor
  · simp [Form.Clean, Bin.a64, Un.a64, Src.a64, ShardOp.a64, Opd.clean_g, Opd.clean_imm, h, hc]
  · simp [Form.instr, intInstr, Bin.a64, Un.a64, Src.a64, ShardOp.a64, A64.bin, A64.un, A64.src, A64.shard, A64.sat, A64.tl, satCode_getElem]

theorem imin (ty : Ty) (o : Bin) : Statement (.imin ty o) := by
  refine of_form (.a64 0x07 (o.a64 0 0 ty.code)) (o.opds) (ty.isInt && o.ok) rfl rfl rfl rfl rfl
    (fun h hc => ?_)
  simp [Bin.opds, Un.opds, MemOp.addr, ShardOp.opds] at h hc
  constructor
  · simp [Form.Clean, Bin.a64, Un.a64, Src.a64, ShardOp.a64, Opd.clean_g, Opd.clean_imm, h, hc]
  · simp [Form.instr, intInstr, Bin.a64, Un.a64, Src.a64, ShardOp.a64, A64.bin, A64.un, A64.src, A64.shard, A64.sat, A64.tl, satCode_getElem]

theorem imax (ty : Ty) (o : Bin) : Statement (.imax ty o) := by
  refine of_form (.a64 0x08 (o.a64 0 0 ty.code)) (o.opds) (ty.isInt && o.ok) rfl rfl rfl rfl rfl
    (fun h hc => ?_)
  simp [Bin.opds, Un.opds, MemOp.addr, ShardOp.opds] at h hc
  constructor
  · simp [Form.Clean, Bin.a64, Un.a64, Src.a64, ShardOp.a64, Opd.clean_g, Opd.clean_imm, h, hc]
  · simp [Form.instr, intInstr, Bin.a64, Un.a64, Src.a64, ShardOp.a64, A64.bin, A64.un, A64.src, A64.shard, A64.sat, A64.tl, satCode_getElem]

theorem iabs (ty : Ty) (sat : Bool) (o : Un) : Statement (.iabs ty sat o) := by
  refine of_form (.a64 0x09 (o.a64 0 (satCode sat) ty.code)) (o.opds) (ty.isInt && o.ok) rfl rfl rfl rfl rfl
    (fun h hc => ?_)
  simp [Bin.opds, Un.opds, MemOp.addr, ShardOp.opds] at h hc
  constructor
  · simp [Form.Clean, Bin.a64, Un.a64, Src.a64, ShardOp.a64, Opd.clean_g, Opd.clean_imm, h, hc]
  · simp [Form.instr, intInstr, Bin.a64, Un.a64, Src.a64, ShardOp.a64, A64.bin, A64.un, A64.src, A64.shard, A64.sat, A64.tl, satCode_getElem]

theorem and (o : Bin) : Statement (.and o) := by
  refine of_form (.a64 0x0A (o.a64)) (o.opds) (o.ok) rfl rfl rfl rfl rfl
    (fun h hc => ?_)
  simp [Bin.opds, Un.opds, MemOp.addr, ShardOp.opds] at h hc
  constructor
  · simp [Form.Clean, Bin.a64, Un.a64, Src.a64, ShardOp.a64, Opd.clean_g, Opd.clean_imm, h, hc]
  · simp [Form.instr, intInstr, Bin.a64, Un.a64, Src.a64, ShardOp.a64, A64.bin, A64.un, A64.src, A64.shard, A64.sat, A64.tl, satCode_getElem]

theorem or (o : Bin) : Statement (.or o) := by
  refine of_form (.a64 0x0B (o.a64)) (o.opds) (o.ok) rfl rfl rfl rfl rfl
    (fun h hc => ?_)
  simp [Bin.opds, Un.opds, MemOp.addr, ShardOp.opds] at h hc
  constructor
  · simp [Form.Clean, Bin.a64, Un.a64, Src.a64, ShardOp.a64, Opd.clean_g, Opd.clean_imm, h, hc]
  · simp [Form.instr, intInstr, Bin.a64, Un.a64, Src.a64, ShardOp.a64, A64.bin, A64.un, A64.src, A64.shard, A64.sat, A64.tl, satCode_getElem]

theorem xor (o : Bin) : Statement (.xor o) := by
  refine of_form (.a64 0x0C (o.a64)) (o.opds) (o.ok) rfl rfl rfl rfl rfl
    (fun h hc => ?_)
  simp [Bin.opds, Un.opds, MemOp.addr, ShardOp.opds] at h hc
  constructor
  · simp [Form.Clean, Bin.a64, Un.a64, Src.a64, ShardOp.a64, Opd.clean_g, Opd.clean_imm, h, hc]
  · simp [Form.instr, intInstr, Bin.a64, Un.a64, Src.a64, ShardOp.a64, A64.bin, A64.un, A64.src, A64.shard, A64.sat, A64.tl, satCode_getElem]

theorem andn (o : Bin) : Statement (.andn o) := by
  refine of_form (.a64 0x0D (o.a64)) (o.opds) (o.ok) rfl rfl rfl rfl rfl
    (fun h hc => ?_)
  simp [Bin.opds, Un.opds, MemOp.addr, ShardOp.opds] at h hc
  constructor
  · simp [Form.Clean, Bin.a64, Un.a64, Src.a64, ShardOp.a64, Opd.clean_g, Opd.clean_imm, h, hc]
  · simp [Form.instr, intInstr, Bin.a64, Un.a64, Src.a64, ShardOp.a64, A64.bin, A64.un, A64.src, A64.shard, A64.sat, A64.tl, satCode_getElem]

theorem shl (ty : Ty) (o : Bin) : Statement (.shl ty o) := by
  refine of_form (.a64 0x0E (o.a64 0 0 ty.code)) (o.opds) (ty.isInt && o.ok) rfl rfl rfl rfl rfl
    (fun h hc => ?_)
  simp [Bin.opds, Un.opds, MemOp.addr, ShardOp.opds] at h hc
  constructor
  · simp [Form.Clean, Bin.a64, Un.a64, Src.a64, ShardOp.a64, Opd.clean_g, Opd.clean_imm, h, hc]
  · simp [Form.instr, intInstr, Bin.a64, Un.a64, Src.a64, ShardOp.a64, A64.bin, A64.un, A64.src, A64.shard, A64.sat, A64.tl, satCode_getElem]

theorem shr (ty : Ty) (o : Bin) : Statement (.shr ty o) := by
  refine of_form (.a64 0x0F (o.a64 0 0 ty.code)) (o.opds) (ty.isInt && o.ok) rfl rfl rfl rfl rfl
    (fun h hc => ?_)
  simp [Bin.opds, Un.opds, MemOp.addr, ShardOp.opds] at h hc
  constructor
  · simp [Form.Clean, Bin.a64, Un.a64, Src.a64, ShardOp.a64, Opd.clean_g, Opd.clean_imm, h, hc]
  · simp [Form.instr, intInstr, Bin.a64, Un.a64, Src.a64, ShardOp.a64, A64.bin, A64.un, A64.src, A64.shard, A64.sat, A64.tl, satCode_getElem]

theorem sra (ty : Ty) (o : Bin) : Statement (.sra ty o) := by
  refine of_form (.a64 0x10 (o.a64 0 0 ty.code)) (o.opds) (ty.isInt && o.ok) rfl rfl rfl rfl rfl
    (fun h hc => ?_)
  simp [Bin.opds, Un.opds, MemOp.addr, ShardOp.opds] at h hc
  constructor
  · simp [Form.Clean, Bin.a64, Un.a64, Src.a64, ShardOp.a64, Opd.clean_g, Opd.clean_imm, h, hc]
  · simp [Form.instr, intInstr, Bin.a64, Un.a64, Src.a64, ShardOp.a64, A64.bin, A64.un, A64.src, A64.shard, A64.sat, A64.tl, satCode_getElem]

theorem rol (ty : Ty) (o : Bin) : Statement (.rol ty o) := by
  refine of_form (.a64 0x11 (o.a64 0 0 ty.code)) (o.opds) (ty.isInt && o.ok) rfl rfl rfl rfl rfl
    (fun h hc => ?_)
  simp [Bin.opds, Un.opds, MemOp.addr, ShardOp.opds] at h hc
  constructor
  · simp [Form.Clean, Bin.a64, Un.a64, Src.a64, ShardOp.a64, Opd.clean_g, Opd.clean_imm, h, hc]
  · simp [Form.instr, intInstr, Bin.a64, Un.a64, Src.a64, ShardOp.a64, A64.bin, A64.un, A64.src, A64.shard, A64.sat, A64.tl, satCode_getElem]

theorem clz (ty : Ty) (o : Un) : Statement (.clz ty o) := by
  refine of_form (.a64 0x12 (o.a64 0 0 ty.code)) (o.opds) (ty.isInt && o.ok) rfl rfl rfl rfl rfl
    (fun h hc => ?_)
  simp [Bin.opds, Un.opds, MemOp.addr, ShardOp.opds] at h hc
  constructor
  · simp [Form.Clean, Bin.a64, Un.a64, Src.a64, ShardOp.a64, Opd.clean_g, Opd.clean_imm, h, hc]
  · simp [Form.instr, intInstr, Bin.a64, Un.a64, Src.a64, ShardOp.a64, A64.bin, A64.un, A64.src, A64.shard, A64.sat, A64.tl, satCode_getElem]

theorem ctz (ty : Ty) (o : Un) : Statement (.ctz ty o) := by
  refine of_form (.a64 0x13 (o.a64 0 0 ty.code)) (o.opds) (ty.isInt && o.ok) rfl rfl rfl rfl rfl
    (fun h hc => ?_)
  simp [Bin.opds, Un.opds, MemOp.addr, ShardOp.opds] at h hc
  constructor
  · simp [Form.Clean, Bin.a64, Un.a64, Src.a64, ShardOp.a64, Opd.clean_g, Opd.clean_imm, h, hc]
  · simp [Form.instr, intInstr, Bin.a64, Un.a64, Src.a64, ShardOp.a64, A64.bin, A64.un, A64.src, A64.shard, A64.sat, A64.tl, satCode_getElem]

theorem popc (ty : Ty) (o : Un) : Statement (.popc ty o) := by
  refine of_form (.a64 0x14 (o.a64 0 0 ty.code)) (o.opds) (ty.isInt && o.ok) rfl rfl rfl rfl rfl
    (fun h hc => ?_)
  simp [Bin.opds, Un.opds, MemOp.addr, ShardOp.opds] at h hc
  constructor
  · simp [Form.Clean, Bin.a64, Un.a64, Src.a64, ShardOp.a64, Opd.clean_g, Opd.clean_imm, h, hc]
  · simp [Form.instr, intInstr, Bin.a64, Un.a64, Src.a64, ShardOp.a64, A64.bin, A64.un, A64.src, A64.shard, A64.sat, A64.tl, satCode_getElem]

theorem bswap (ty : Ty) (o : Un) : Statement (.bswap ty o) := by
  refine of_form (.a64 0x15 (o.a64 0 0 ty.code)) (o.opds) (ty.isInt && ty != .i8 && ty != .ui8 && o.ok) rfl rfl rfl rfl rfl
    (fun h hc => ?_)
  simp [Bin.opds, Un.opds, MemOp.addr, ShardOp.opds] at h hc
  constructor
  · simp [Form.Clean, Bin.a64, Un.a64, Src.a64, ShardOp.a64, Opd.clean_g, Opd.clean_imm, h, hc]
  · simp [Form.instr, intInstr, Bin.a64, Un.a64, Src.a64, ShardOp.a64, A64.bin, A64.un, A64.src, A64.shard, A64.sat, A64.tl, satCode_getElem]

theorem bfx (o : Bin) : Statement (.bfx o) := by
  refine of_form (.a64 0x16 (o.a64)) (o.opds) (o.ok) rfl rfl rfl rfl rfl
    (fun h hc => ?_)
  simp [Bin.opds, Un.opds, MemOp.addr, ShardOp.opds] at h hc
  constructor
  · simp [Form.Clean, Bin.a64, Un.a64, Src.a64, ShardOp.a64, Opd.clean_g, Opd.clean_imm, h, hc]
  · simp [Form.instr, intInstr, Bin.a64, Un.a64, Src.a64, ShardOp.a64, A64.bin, A64.un, A64.src, A64.shard, A64.sat, A64.tl, satCode_getElem]

theorem bfi (o : Bin) : Statement (.bfi o) := by
  refine of_form (.a64 0x17 (o.a64)) (o.opds) (o.ok) rfl rfl rfl rfl rfl
    (fun h hc => ?_)
  simp [Bin.opds, Un.opds, MemOp.addr, ShardOp.opds] at h hc
  constructor
  · simp [Form.Clean, Bin.a64, Un.a64, Src.a64, ShardOp.a64, Opd.clean_g, Opd.clean_imm, h, hc]
  · simp [Form.instr, intInstr, Bin.a64, Un.a64, Src.a64, ShardOp.a64, A64.bin, A64.un, A64.src, A64.shard, A64.sat, A64.tl, satCode_getElem]

theorem iext (o : Bin) : Statement (.iext o) := by
  refine of_form (.a64 0x18 (o.a64)) (o.opds) (o.ok) rfl rfl rfl rfl rfl
    (fun h hc => ?_)
  simp [Bin.opds, Un.opds, MemOp.addr, ShardOp.opds] at h hc
  constructor
  · simp [Form.Clean, Bin.a64, Un.a64, Src.a64, ShardOp.a64, Opd.clean_g, Opd.clean_imm, h, hc]
  · simp [Form.instr, intInstr, Bin.a64, Un.a64, Src.a64, ShardOp.a64, A64.bin, A64.un, A64.src, A64.shard, A64.sat, A64.tl, satCode_getElem]

theorem cmp (cc : Cc) (ty : Ty) (o : Bin) : Statement (.cmp cc ty o) := by
  refine of_form (.a64 0x19 (o.a64 cc.code 0 ty.code)) (o.opds) (ty.isInt && o.ok) rfl rfl rfl rfl rfl
    (fun h hc => ?_)
  simp [Bin.opds, Un.opds, MemOp.addr, ShardOp.opds] at h hc
  constructor
  · simp [Form.Clean, Bin.a64, Un.a64, Src.a64, ShardOp.a64, Opd.clean_g, Opd.clean_imm, h, hc]
  · simp [Form.instr, intInstr, Bin.a64, Un.a64, Src.a64, ShardOp.a64, A64.bin, A64.un, A64.src, A64.shard, A64.sat, A64.tl, satCode_getElem]

theorem sel (o : Bin) : Statement (.sel o) := by
  refine of_form (.a64 0x1A (o.a64)) (o.opds) (o.ok) rfl rfl rfl rfl rfl
    (fun h hc => ?_)
  simp [Bin.opds, Un.opds, MemOp.addr, ShardOp.opds] at h hc
  constructor
  · simp [Form.Clean, Bin.a64, Un.a64, Src.a64, ShardOp.a64, Opd.clean_g, Opd.clean_imm, h, hc]
  · simp [Form.instr, intInstr, Bin.a64, Un.a64, Src.a64, ShardOp.a64, A64.bin, A64.un, A64.src, A64.shard, A64.sat, A64.tl, satCode_getElem]

theorem ldi (d : Opd) (imm : BitVec 32) : Statement (.ldi d imm) := by
  refine of_form (.i96 0x1B { d := d } imm) ([(d, .gen)]) (true) rfl rfl rfl rfl rfl
    (fun h hc => ?_)
  simp [Bin.opds, Un.opds, MemOp.addr, ShardOp.opds] at h hc
  constructor
  · simp [Form.Clean, Src.a64, PostOp.a64, Opd.clean_g, Opd.clean_imm, h, hc]
  · simp [Form.instr, longInstr, Src.a64, PostOp.a64, A64.src, A64.postOp]

theorem ldk (d : Opd) (imm : BitVec 64) : Statement (.ldk d imm) := by
  refine of_form (.i128 0x1C d 0 imm) ([(d, .gen)]) (true) rfl rfl rfl rfl rfl
    (fun h hc => ?_)
  simp [Bin.opds, Un.opds, MemOp.addr, ShardOp.opds] at h hc
  constructor
  · simp [Form.Clean, Opd.clean_g, Opd.clean_imm, h, hc]
  · simp [Form.instr]

theorem adda (o : Bin) : Statement (.adda o) := by
  refine of_form (.a64 0x1D (o.a64)) (o.opds) (takeOk o.a o.ta && takeOk o.b o.tb && (o.b == .imm || o.imm.toNat < 4)) rfl rfl rfl rfl rfl
    (fun h hc => ?_)
  simp [Bin.opds, Un.opds, MemOp.addr, ShardOp.opds] at h hc
  constructor
  · simp [Form.Clean, Bin.a64, Un.a64, Src.a64, ShardOp.a64, Opd.clean_g, Opd.clean_imm, h, hc]
  · simp [Form.instr, intInstr, Bin.a64, Un.a64, Src.a64, ShardOp.a64, A64.bin, A64.un, A64.src, A64.shard, A64.sat, A64.tl, satCode_getElem]

theorem mramk (o : Bin) : Statement (.mramk o) := by
  refine of_form (.a64 0x1E (o.a64)) (o.opds) (o.ok) rfl rfl rfl rfl rfl
    (fun h hc => ?_)
  simp [Bin.opds, Un.opds, MemOp.addr, ShardOp.opds] at h hc
  constructor
  · simp [Form.Clean, Bin.a64, Un.a64, Src.a64, ShardOp.a64, Opd.clean_g, Opd.clean_imm, h, hc]
  · simp [Form.instr, intInstr, Bin.a64, Un.a64, Src.a64, ShardOp.a64, A64.bin, A64.un, A64.src, A64.shard, A64.sat, A64.tl, satCode_getElem]

theorem self (d : Opd) : Statement (.self d) := by
  refine of_form (.a64 0x1F { d := d }) ([(d, .gen)]) (true) rfl rfl rfl rfl rfl
    (fun h hc => ?_)
  simp [Bin.opds, Un.opds, MemOp.addr, ShardOp.opds] at h hc
  constructor
  · simp [Form.Clean, Bin.a64, Un.a64, Src.a64, ShardOp.a64, Opd.clean_g, Opd.clean_imm, h, hc]
  · simp [Form.instr, intInstr, Bin.a64, Un.a64, Src.a64, ShardOp.a64, A64.bin, A64.un, A64.src, A64.shard, A64.sat, A64.tl, satCode_getElem]

theorem br (off : BitVec 32) : Statement (.br off) := by
  refine of_form (.i96 0x20 {} off) ([]) (true) rfl rfl rfl rfl rfl
    (fun h hc => ?_)
  simp [Bin.opds, Un.opds, MemOp.addr, ShardOp.opds] at h hc
  constructor
  · simp [Form.Clean, Src.a64, PostOp.a64, Opd.clean_g, Opd.clean_imm, h, hc]
  · simp [Form.instr, longInstr, Src.a64, PostOp.a64, A64.src, A64.postOp]

theorem bz (a : Src) (off : BitVec 32) : Statement (.bz a off) := by
  refine of_form (.i96 0x21 a.a64 off) ([(a.a, .src)]) (a.ok) rfl rfl rfl rfl rfl
    (fun h hc => ?_)
  simp [Bin.opds, Un.opds, MemOp.addr, ShardOp.opds] at h hc
  constructor
  · simp [Form.Clean, Src.a64, PostOp.a64, Opd.clean_g, Opd.clean_imm, h, hc]
  · simp [Form.instr, longInstr, Src.a64, PostOp.a64, A64.src, A64.postOp]

theorem bnz (a : Src) (off : BitVec 32) : Statement (.bnz a off) := by
  refine of_form (.i96 0x22 a.a64 off) ([(a.a, .src)]) (a.ok) rfl rfl rfl rfl rfl
    (fun h hc => ?_)
  simp [Bin.opds, Un.opds, MemOp.addr, ShardOp.opds] at h hc
  constructor
  · simp [Form.Clean, Src.a64, PostOp.a64, Opd.clean_g, Opd.clean_imm, h, hc]
  · simp [Form.instr, longInstr, Src.a64, PostOp.a64, A64.src, A64.postOp]

theorem bcmp (cc : Cc) (ty : Ty) (a : Opd) (ta : Bool) (b : Opd) (tb : Bool) (off : BitVec 16) : Statement (.bcmp cc ty a ta b tb off) := by
  refine of_form (.a64 0x23 { a := a, b := b, ta := ta, tb := tb, imm := off, fn := cc.code, ty := ty.code }) ([(a, .srcReg), (b, .srcReg)]) (ty.isInt && takeOk a ta && takeOk b tb) rfl rfl rfl rfl rfl
    (fun h hc => ?_)
  simp [Bin.opds, Un.opds, MemOp.addr, ShardOp.opds] at h hc
  constructor
  · simp [Form.Clean, Bin.a64, Un.a64, Src.a64, ShardOp.a64, Opd.clean_g, Opd.clean_imm, h, hc]
  · simp [Form.instr, ctlInstr, Bin.a64, Un.a64, Src.a64, ShardOp.a64, A64.bin, A64.un, A64.src, A64.shard, A64.sat, A64.tl, satCode_getElem]

theorem jmp (a : Opd) (ta : Bool) : Statement (.jmp a ta) := by
  refine of_form (.a64 0x24 { a := a, ta := ta }) ([(a, .srcReg)]) (takeOk a ta) rfl rfl rfl rfl rfl
    (fun h hc => ?_)
  simp [Bin.opds, Un.opds, MemOp.addr, ShardOp.opds] at h hc
  constructor
  · simp [Form.Clean, Bin.a64, Un.a64, Src.a64, ShardOp.a64, Opd.clean_g, Opd.clean_imm, h, hc]
  · simp [Form.instr, ctlInstr, Bin.a64, Un.a64, Src.a64, ShardOp.a64, A64.bin, A64.un, A64.src, A64.shard, A64.sat, A64.tl, satCode_getElem]

theorem call (d : Opd) (a : Opd) (off : BitVec 32) : Statement (.call d a off) := by
  refine of_form (.i96 0x25 { d := d, a := a } off) ([(d, .gen), (a, .src)]) (a == .imm || off == 0) rfl rfl rfl rfl rfl
    (fun h hc => ?_)
  simp [Bin.opds, Un.opds, MemOp.addr, ShardOp.opds] at h hc
  constructor
  · simp [Form.Clean, Src.a64, PostOp.a64, Opd.clean_g, Opd.clean_imm, h, hc]
  · simp [Form.instr, longInstr, Src.a64, PostOp.a64, A64.src, A64.postOp]

theorem loop (d : Opd) (off : BitVec 32) : Statement (.loop d off) := by
  refine of_form (.i96 0x26 { d := d } off) ([(d, .gen)]) (true) rfl rfl rfl rfl rfl
    (fun h hc => ?_)
  simp [Bin.opds, Un.opds, MemOp.addr, ShardOp.opds] at h hc
  constructor
  · simp [Form.Clean, Src.a64, PostOp.a64, Opd.clean_g, Opd.clean_imm, h, hc]
  · simp [Form.instr, longInstr, Src.a64, PostOp.a64, A64.src, A64.postOp]

theorem nop : Statement (.nop) := by
  refine of_form (.a64 0x27 {}) ([]) (true) rfl rfl rfl rfl rfl
    (fun h hc => ?_)
  simp [Bin.opds, Un.opds, MemOp.addr, ShardOp.opds] at h hc
  constructor
  · simp [Form.Clean, Bin.a64, Un.a64, Src.a64, ShardOp.a64, Opd.clean_g, Opd.clean_imm, h, hc]
  · simp [Form.instr, ctlInstr, Bin.a64, Un.a64, Src.a64, ShardOp.a64, A64.bin, A64.un, A64.src, A64.shard, A64.sat, A64.tl, satCode_getElem]

theorem empty (d : Opd) : Statement (.empty d) := by
  refine of_form (.a64 0x30 { d := d }) ([(d, .gOnly)]) (true) rfl rfl rfl rfl rfl
    (fun h hc => ?_)
  simp [Bin.opds, Un.opds, MemOp.addr, ShardOp.opds] at h hc
  constructor
  · simp [Form.Clean, Bin.a64, Un.a64, Src.a64, ShardOp.a64, Opd.clean_g, Opd.clean_imm, h, hc]
  · simp [Form.instr, ctlInstr, Bin.a64, Un.a64, Src.a64, ShardOp.a64, A64.bin, A64.un, A64.src, A64.shard, A64.sat, A64.tl, satCode_getElem]

theorem markf (d : Opd) : Statement (.markf d) := by
  refine of_form (.a64 0x31 { d := d }) ([(d, .gOnly)]) (true) rfl rfl rfl rfl rfl
    (fun h hc => ?_)
  simp [Bin.opds, Un.opds, MemOp.addr, ShardOp.opds] at h hc
  constructor
  · simp [Form.Clean, Bin.a64, Un.a64, Src.a64, ShardOp.a64, Opd.clean_g, Opd.clean_imm, h, hc]
  · simp [Form.instr, ctlInstr, Bin.a64, Un.a64, Src.a64, ShardOp.a64, A64.bin, A64.un, A64.src, A64.shard, A64.sat, A64.tl, satCode_getElem]

theorem probe (d : Opd) (a : Opd) : Statement (.probe d a) := by
  refine of_form (.a64 0x32 { d := d, a := a }) ([(d, .gen), (a, .gOnly)]) (true) rfl rfl rfl rfl rfl
    (fun h hc => ?_)
  simp [Bin.opds, Un.opds, MemOp.addr, ShardOp.opds] at h hc
  constructor
  · simp [Form.Clean, Bin.a64, Un.a64, Src.a64, ShardOp.a64, Opd.clean_g, Opd.clean_imm, h, hc]
  · simp [Form.instr, ctlInstr, Bin.a64, Un.a64, Src.a64, ShardOp.a64, A64.bin, A64.un, A64.src, A64.shard, A64.sat, A64.tl, satCode_getElem]

theorem waitf (a : Opd) (ta : Bool) : Statement (.waitf a ta) := by
  refine of_form (.a64 0x33 { a := a, ta := ta }) ([(a, .gOnly)]) (takeOk a ta) rfl rfl rfl rfl rfl
    (fun h hc => ?_)
  simp [Bin.opds, Un.opds, MemOp.addr, ShardOp.opds] at h hc
  constructor
  · simp [Form.Clean, Bin.a64, Un.a64, Src.a64, ShardOp.a64, Opd.clean_g, Opd.clean_imm, h, hc]
  · simp [Form.instr, ctlInstr, Bin.a64, Un.a64, Src.a64, ShardOp.a64, A64.bin, A64.un, A64.src, A64.shard, A64.sat, A64.tl, satCode_getElem]

theorem qcfg (d : Opd) (a : Opd) (imm : BitVec 16) : Statement (.qcfg d a imm) := by
  refine of_form (.a64 0x34 { d := d, a := a, imm := imm }) ([(d, .gOnly), (a, .src)]) (immOk imm [a]) rfl rfl rfl rfl rfl
    (fun h hc => ?_)
  simp [Bin.opds, Un.opds, MemOp.addr, ShardOp.opds] at h hc
  constructor
  · simp [Form.Clean, Bin.a64, Un.a64, Src.a64, ShardOp.a64, Opd.clean_g, Opd.clean_imm, h, hc]
  · simp [Form.instr, ctlInstr, Bin.a64, Un.a64, Src.a64, ShardOp.a64, A64.bin, A64.un, A64.src, A64.shard, A64.sat, A64.tl, satCode_getElem]

theorem qrst (d : Opd) : Statement (.qrst d) := by
  refine of_form (.a64 0x35 { d := d }) ([(d, .gOnly)]) (true) rfl rfl rfl rfl rfl
    (fun h hc => ?_)
  simp [Bin.opds, Un.opds, MemOp.addr, ShardOp.opds] at h hc
  constructor
  · simp [Form.Clean, Bin.a64, Un.a64, Src.a64, ShardOp.a64, Opd.clean_g, Opd.clean_imm, h, hc]
  · simp [Form.instr, ctlInstr, Bin.a64, Un.a64, Src.a64, ShardOp.a64, A64.bin, A64.un, A64.src, A64.shard, A64.sat, A64.tl, satCode_getElem]

theorem qocc (d : Opd) (a : Opd) : Statement (.qocc d a) := by
  refine of_form (.a64 0x36 { d := d, a := a }) ([(d, .gen), (a, .gOnly)]) (true) rfl rfl rfl rfl rfl
    (fun h hc => ?_)
  simp [Bin.opds, Un.opds, MemOp.addr, ShardOp.opds] at h hc
  constructor
  · simp [Form.Clean, Bin.a64, Un.a64, Src.a64, ShardOp.a64, Opd.clean_g, Opd.clean_imm, h, hc]
  · simp [Form.instr, ctlInstr, Bin.a64, Un.a64, Src.a64, ShardOp.a64, A64.bin, A64.un, A64.src, A64.shard, A64.sat, A64.tl, satCode_getElem]

theorem ld (sz : Sz) (sm : Sm) (pol : Policy) (m : MemOp) : Statement (.ld sz sm pol m) := by
  refine of_form (.m96 0x40 (m.m96 sz.code sm.code pol.code)) ((m.v, .gx) :: m.addr) (m.ok sz sm && sm.loads && !m.tv) rfl rfl rfl rfl rfl
    (fun h hc => ?_)
  simp [Bin.opds, Un.opds, MemOp.addr, ShardOp.opds] at h hc
  constructor
  · simp [Form.Clean, MemOp.m96, Opd.clean_g, Opd.clean_imm, h, hc]
  · simp [Form.instr, memInstr, MemOp.m96, M96.memOp, M96.lo]

theorem st (sz : Sz) (sm : Sm) (pol : Policy) (m : MemOp) : Statement (.st sz sm pol m) := by
  refine of_form (.m96 0x41 (m.m96 sz.code sm.code pol.code)) ((m.v, .gx) :: m.addr) (m.ok sz sm && sm.stores) rfl rfl rfl rfl rfl
    (fun h hc => ?_)
  simp [Bin.opds, Un.opds, MemOp.addr, ShardOp.opds] at h hc
  constructor
  · simp [Form.Clean, MemOp.m96, Opd.clean_g, Opd.clean_imm, h, hc]
  · simp [Form.instr, memInstr, MemOp.m96, M96.memOp, M96.lo]

theorem pref (lvl : Level) (m : MemOp) : Statement (.pref lvl m) := by
  refine of_form (.m96 0x42 (m.m96 0 0 lvl.code)) ((m.v, .gx) :: m.addr) (m.ok .b .plain && m.sp == .glob) rfl rfl rfl rfl rfl
    (fun h hc => ?_)
  simp [Bin.opds, Un.opds, MemOp.addr, ShardOp.opds] at h hc
  constructor
  · simp [Form.Clean, MemOp.m96, Opd.clean_g, Opd.clean_imm, h, hc]
  · simp [Form.instr, memInstr, MemOp.m96, M96.memOp, M96.lo]

theorem resid (lvl : Level) (m : MemOp) : Statement (.resid lvl m) := by
  refine of_form (.m96 0x43 (m.m96 0 0 lvl.code)) ((m.v, .gx) :: m.addr) (m.ok .b .plain && m.sp == .glob) rfl rfl rfl rfl rfl
    (fun h hc => ?_)
  simp [Bin.opds, Un.opds, MemOp.addr, ShardOp.opds] at h hc
  constructor
  · simp [Form.Clean, MemOp.m96, Opd.clean_g, Opd.clean_imm, h, hc]
  · simp [Form.instr, memInstr, MemOp.m96, M96.memOp, M96.lo]

theorem evict (lvl : Level) (m : MemOp) : Statement (.evict lvl m) := by
  refine of_form (.m96 0x44 (m.m96 0 0 lvl.code)) ((m.v, .gx) :: m.addr) (m.ok .b .plain && m.sp == .glob) rfl rfl rfl rfl rfl
    (fun h hc => ?_)
  simp [Bin.opds, Un.opds, MemOp.addr, ShardOp.opds] at h hc
  constructor
  · simp [Form.Clean, MemOp.m96, Opd.clean_g, Opd.clean_imm, h, hc]
  · simp [Form.instr, memInstr, MemOp.m96, M96.memOp, M96.lo]

theorem fence : Statement (.fence) := by
  refine of_form (.a64 0x45 {}) ([]) (true) rfl rfl rfl rfl rfl
    (fun h hc => ?_)
  simp [Bin.opds, Un.opds, MemOp.addr, ShardOp.opds] at h hc
  constructor
  · simp [Form.Clean, Bin.a64, Un.a64, Src.a64, ShardOp.a64, Opd.clean_g, Opd.clean_imm, h, hc]
  · simp [Form.instr, ctlInstr, Bin.a64, Un.a64, Src.a64, ShardOp.a64, A64.bin, A64.un, A64.src, A64.shard, A64.sat, A64.tl, satCode_getElem]

theorem ldl (sz : Sz) (sm : Sm) (pol : Policy) (lo : LandOpt) (m : MemOp) : Statement (.ldl sz sm pol lo m) := by
  refine of_form (.m96 0x60 (m.m96 sz.code sm.code (hintOf lo (pol.code.extractLsb' 0 9)))) ((m.v, .gx) :: m.addr) (m.ok sz sm && sm.loads) rfl rfl rfl rfl rfl
    (fun h hc => ?_)
  simp [Bin.opds, Un.opds, MemOp.addr, ShardOp.opds] at h hc
  constructor
  · simp [Form.Clean, MemOp.m96, Opd.clean_g, Opd.clean_imm, h, hc]
  · simp [Form.instr, memInstr, MemOp.m96, M96.memOp, M96.lo]

theorem rsend (d : Opd) (a : Opd) (ta : Bool) (imm : BitVec 16) (lo : LandOpt) : Statement (.rsend d a ta imm lo) := by
  refine of_form (.a64 0x61 { d := d, a := a, ta := ta, imm := imm, fn := (0#3 ++ lo.code : BitVec 8) }) ([(d, .gx), (a, .gxi)]) (takeOk a ta && immOk imm [a]) rfl rfl rfl rfl rfl
    (fun h hc => ?_)
  simp [Bin.opds, Un.opds, MemOp.addr, ShardOp.opds] at h hc
  constructor
  · simp [Form.Clean, Bin.a64, Un.a64, Src.a64, ShardOp.a64, Opd.clean_g, Opd.clean_imm, h, hc]
  · simp [Form.instr, ctlInstr, Bin.a64, Un.a64, Src.a64, ShardOp.a64, A64.bin, A64.un, A64.src, A64.shard, A64.sat, A64.tl, satCode_getElem]

theorem ldx (sz : Sz) (sm : Sm) (o : ShardOp) : Statement (.ldx sz sm o) := by
  refine of_form (.a64 0x62 (o.a64 0 sm.code sz.code)) (o.opds) (o.ok && sm.loads && (sm == .plain || sz == .d)) rfl rfl rfl rfl rfl
    (fun h hc => ?_)
  simp [Bin.opds, Un.opds, MemOp.addr, ShardOp.opds] at h hc
  constructor
  · simp [Form.Clean, Bin.a64, Un.a64, Src.a64, ShardOp.a64, Opd.clean_g, Opd.clean_imm, h, hc]
  · simp [Form.instr, ctlInstr]

theorem stx (sz : Sz) (sm : Sm) (o : ShardOp) : Statement (.stx sz sm o) := by
  refine of_form (.a64 0x63 (o.a64 0 sm.code sz.code)) (o.opds) (o.ok && sm.stores && (sm == .plain || sz == .d)) rfl rfl rfl rfl rfl
    (fun h hc => ?_)
  simp [Bin.opds, Un.opds, MemOp.addr, ShardOp.opds] at h hc
  constructor
  · simp [Form.Clean, Bin.a64, Un.a64, Src.a64, ShardOp.a64, Opd.clean_g, Opd.clean_imm, h, hc]
  · simp [Form.instr, ctlInstr]

theorem smfrz (a : Src) : Statement (.smfrz a) := by
  refine of_form (.a64 0x64 a.a64) ([(a.a, .gxi)]) (a.ok) rfl rfl rfl rfl rfl
    (fun h hc => ?_)
  simp [Bin.opds, Un.opds, MemOp.addr, ShardOp.opds] at h hc
  constructor
  · simp [Form.Clean, Bin.a64, Un.a64, Src.a64, ShardOp.a64, Opd.clean_g, Opd.clean_imm, h, hc]
  · simp [Form.instr, ctlInstr, Bin.a64, Un.a64, Src.a64, ShardOp.a64, A64.bin, A64.un, A64.src, A64.shard, A64.sat, A64.tl, satCode_getElem]

theorem smrel (a : Src) : Statement (.smrel a) := by
  refine of_form (.a64 0x65 a.a64) ([(a.a, .gxi)]) (a.ok) rfl rfl rfl rfl rfl
    (fun h hc => ?_)
  simp [Bin.opds, Un.opds, MemOp.addr, ShardOp.opds] at h hc
  constructor
  · simp [Form.Clean, Bin.a64, Un.a64, Src.a64, ShardOp.a64, Opd.clean_g, Opd.clean_imm, h, hc]
  · simp [Form.instr, ctlInstr, Bin.a64, Un.a64, Src.a64, ShardOp.a64, A64.bin, A64.un, A64.src, A64.shard, A64.sat, A64.tl, satCode_getElem]

theorem amo (op : AOp) (l : Bool) (sz : Sz) (mreg : Opd) (lo : LandOpt) (m : MemOp) : Statement (.amo op l sz mreg lo m) := by
  refine of_form (.m96 0x70 (m.m96 sz.code 0 (hintOf lo (0#3 ++ mreg.code)) (BitVec.ofBool l ++ (0#3 ++ op.code)))) ((m.v, .gx) :: (mreg, .gx) :: m.addr) ( m.ok sz .plain && (sz == .w || sz == .d) && m.sp == .glob && (op != .fadd || sz == .w) && (l || (!m.tv && mreg == .g 0 && lo == ⟨false, false, 0⟩))) rfl rfl rfl rfl rfl
    (fun h hc => ?_)
  simp [Bin.opds, Un.opds, MemOp.addr, ShardOp.opds] at h hc
  constructor
  · simp [Form.Clean, MemOp.m96, Opd.clean_g, Opd.clean_imm, h, hc]
  · have h1 := land_field l op.code
    have h2 := land_op l op.code
    have h3 : (Opd.ofCode mreg.code) = mreg := h.2.1
    simp [Form.instr, memInstr, MemOp.m96, M96.memOp, M96.lo, -BitVec.getLsbD_eq_getElem, h1, h2, h3]

theorem cas (sz : Sz) (m : MemOp) : Statement (.cas sz m) := by
  refine of_form (.m96 0x71 (m.m96 sz.code 0)) ((m.v, .gx) :: m.addr) ((sz == .w || sz == .d) && m.sp == .glob && m.sc == 0 && !m.tv) rfl rfl rfl rfl rfl
    (fun h hc => ?_)
  simp [Bin.opds, Un.opds, MemOp.addr, ShardOp.opds] at h hc
  constructor
  · simp [Form.Clean, MemOp.m96, Opd.clean_g, Opd.clean_imm, h, hc]
  · simp [Form.instr, memInstr, MemOp.m96, M96.memOp, M96.lo]

theorem amox (op : AOp) (sz : Sz) (o : ShardOp) : Statement (.amox op sz o) := by
  refine of_form (.a64 0x72 (o.a64 op.code 0 sz.code)) (o.opds) (o.ok && (sz == .w || sz == .d) && (op != .fadd || sz == .w)) rfl rfl rfl rfl rfl
    (fun h hc => ?_)
  simp [Bin.opds, Un.opds, MemOp.addr, ShardOp.opds] at h hc
  constructor
  · simp [Form.Clean, Bin.a64, Un.a64, Src.a64, ShardOp.a64, Opd.clean_g, Opd.clean_imm, h, hc]
  · simp [Form.instr, ctlInstr]

theorem flagf (tl : BitVec 3) (m : MemOp) : Statement (.flagf tl m) := by
  refine of_form (.m96 0x73 (m.m96 3 0 (hintOf ⟨false, true, tl⟩ 0))) ((m.v, .gx) :: m.addr) (m.index == .imm && m.sc == 0 && m.sp == .glob) rfl rfl rfl rfl rfl
    (fun h hc => ?_)
  simp [Bin.opds, Un.opds, MemOp.addr, ShardOp.opds] at h hc
  constructor
  · simp [Form.Clean, MemOp.m96, Opd.clean_g, Opd.clean_imm, h, hc]
  · simp [Form.instr, memInstr, MemOp.m96, M96.memOp, M96.lo]

theorem shld (v : VecOp) : Statement (.shld v) := by
  refine of_form (.v96 0x80 (v.v96 0)) ([(v.gs, .src)]) (v.dOnly && v.count == 0) rfl rfl rfl rfl rfl
    (fun h hc => ?_)
  simp [Bin.opds, Un.opds, MemOp.addr, ShardOp.opds] at h hc
  constructor
  · simp [Form.Clean, VecOp.v96, Opd.clean_g, Opd.clean_imm, h, hc]
  · simp [Form.instr, shapeInstr, VecOp.v96, V96.vecOp, satCode_getElem]

theorem shst (v : VecOp) : Statement (.shst v) := by
  refine of_form (.v96 0x81 (v.v96 0)) ([(v.gs, .src)]) (v.aOnly && v.count == 0) rfl rfl rfl rfl rfl
    (fun h hc => ?_)
  simp [Bin.opds, Un.opds, MemOp.addr, ShardOp.opds] at h hc
  constructor
  · simp [Form.Clean, VecOp.v96, Opd.clean_g, Opd.clean_imm, h, hc]
  · simp [Form.instr, shapeInstr, VecOp.v96, V96.vecOp, satCode_getElem]

theorem shset (fld : ShField) (v : VecOp) : Statement (.shset fld v) := by
  refine of_form (.v96 0x82 (v.v96 fld.code)) ([(v.gs, .src)]) ( v.dOnly && v.count == 0 && v.gsVal && fld != .remain && fld != .index && (fld != .rewind || (v.gs == .imm && v.imm == 0))) rfl rfl rfl rfl rfl
    (fun h hc => ?_)
  simp [Bin.opds, Un.opds, MemOp.addr, ShardOp.opds] at h hc
  constructor
  · simp [Form.Clean, VecOp.v96, Opd.clean_g, Opd.clean_imm, h, hc]
  · simp [Form.instr, shapeInstr, VecOp.v96, V96.vecOp, satCode_getElem]

theorem shadv (v : VecOp) : Statement (.shadv v) := by
  refine of_form (.v96 0x83 (v.v96 0)) ([(v.gs, .src)]) (v.dOnly && v.count == 0 && v.gsVal) rfl rfl rfl rfl rfl
    (fun h hc => ?_)
  simp [Bin.opds, Un.opds, MemOp.addr, ShardOp.opds] at h hc
  constructor
  · simp [Form.Clean, VecOp.v96, Opd.clean_g, Opd.clean_imm, h, hc]
  · simp [Form.instr, shapeInstr, VecOp.v96, V96.vecOp, satCode_getElem]

theorem shrd (fld : ShField) (v : VecOp) : Statement (.shrd fld v) := by
  refine of_form (.v96 0x84 (v.v96 fld.code)) ([(v.gs, .gx)]) (v.aOnly && v.count == 0 && v.imm == 0 && fld != .rewind) rfl rfl rfl rfl rfl
    (fun h hc => ?_)
  simp [Bin.opds, Un.opds, MemOp.addr, ShardOp.opds] at h hc
  constructor
  · simp [Form.Clean, VecOp.v96, Opd.clean_g, Opd.clean_imm, h, hc]
  · simp [Form.instr, shapeInstr, VecOp.v96, V96.vecOp, satCode_getElem]

theorem vadd (ty : Ty) (md : Md) (v : VecOp) : Statement (.vadd ty md v) := by
  refine of_form (.v96 0x85 (v.v96 0 md.code ty.code)) ([(v.gs, .src)]) (ty.vecArith && v.sc == 0 && v.bOk && mdOk ty md true) rfl rfl rfl rfl rfl
    (fun h hc => ?_)
  simp [Bin.opds, Un.opds, MemOp.addr, ShardOp.opds] at h hc
  constructor
  · simp [Form.Clean, VecOp.v96, Opd.clean_g, Opd.clean_imm, h, hc]
  · simp [Form.instr, vecInstr, VecOp.v96, V96.vecOp, satCode_getElem]

theorem vsub (ty : Ty) (md : Md) (v : VecOp) : Statement (.vsub ty md v) := by
  refine of_form (.v96 0x86 (v.v96 0 md.code ty.code)) ([(v.gs, .src)]) (ty.vecArith && v.sc == 0 && v.bOk && mdOk ty md true) rfl rfl rfl rfl rfl
    (fun h hc => ?_)
  simp [Bin.opds, Un.opds, MemOp.addr, ShardOp.opds] at h hc
  constructor
  · simp [Form.Clean, VecOp.v96, Opd.clean_g, Opd.clean_imm, h, hc]
  · simp [Form.instr, vecInstr, VecOp.v96, V96.vecOp, satCode_getElem]

theorem vmul (ty : Ty) (md : Md) (v : VecOp) : Statement (.vmul ty md v) := by
  refine of_form (.v96 0x87 (v.v96 0 md.code ty.code)) ([(v.gs, .src)]) (ty.vecArith && v.sc == 0 && v.bOk && mdOk ty md true) rfl rfl rfl rfl rfl
    (fun h hc => ?_)
  simp [Bin.opds, Un.opds, MemOp.addr, ShardOp.opds] at h hc
  constructor
  · simp [Form.Clean, VecOp.v96, Opd.clean_g, Opd.clean_imm, h, hc]
  · simp [Form.instr, vecInstr, VecOp.v96, V96.vecOp, satCode_getElem]

theorem vfma (ty : Ty) (md : Md) (v : VecOp) : Statement (.vfma ty md v) := by
  refine of_form (.v96 0x88 (v.v96 0 md.code ty.code)) ([(v.gs, .src)]) (ty.isIeee && v.bOk) rfl rfl rfl rfl rfl
    (fun h hc => ?_)
  simp [Bin.opds, Un.opds, MemOp.addr, ShardOp.opds] at h hc
  constructor
  · simp [Form.Clean, VecOp.v96, Opd.clean_g, Opd.clean_imm, h, hc]
  · simp [Form.instr, vecInstr, VecOp.v96, V96.vecOp, satCode_getElem]

theorem vmin (ty : Ty) (md : Md) (v : VecOp) : Statement (.vmin ty md v) := by
  refine of_form (.v96 0x89 (v.v96 0 md.code ty.code)) ([(v.gs, .src)]) (ty.vecArith && v.sc == 0 && v.bOk && mdOk ty md false) rfl rfl rfl rfl rfl
    (fun h hc => ?_)
  simp [Bin.opds, Un.opds, MemOp.addr, ShardOp.opds] at h hc
  constructor
  · simp [Form.Clean, VecOp.v96, Opd.clean_g, Opd.clean_imm, h, hc]
  · simp [Form.instr, vecInstr, VecOp.v96, V96.vecOp, satCode_getElem]

theorem vmax (ty : Ty) (md : Md) (v : VecOp) : Statement (.vmax ty md v) := by
  refine of_form (.v96 0x8A (v.v96 0 md.code ty.code)) ([(v.gs, .src)]) (ty.vecArith && v.sc == 0 && v.bOk && mdOk ty md false) rfl rfl rfl rfl rfl
    (fun h hc => ?_)
  simp [Bin.opds, Un.opds, MemOp.addr, ShardOp.opds] at h hc
  constructor
  · simp [Form.Clean, VecOp.v96, Opd.clean_g, Opd.clean_imm, h, hc]
  · simp [Form.instr, vecInstr, VecOp.v96, V96.vecOp, satCode_getElem]

theorem vabs (ty : Ty) (md : Md) (v : VecOp) : Statement (.vabs ty md v) := by
  refine of_form (.v96 0x8B (v.v96 0 md.code ty.code)) ([(v.gs, .src)]) (ty.vecArith && v.da && v.noGs && mdOk ty md true) rfl rfl rfl rfl rfl
    (fun h hc => ?_)
  simp [Bin.opds, Un.opds, MemOp.addr, ShardOp.opds] at h hc
  constructor
  · simp [Form.Clean, VecOp.v96, Opd.clean_g, Opd.clean_imm, h, hc]
  · simp [Form.instr, vecInstr, VecOp.v96, V96.vecOp, satCode_getElem]

theorem vneg (ty : Ty) (md : Md) (v : VecOp) : Statement (.vneg ty md v) := by
  refine of_form (.v96 0x8C (v.v96 0 md.code ty.code)) ([(v.gs, .src)]) (ty.vecArith && v.da && v.noGs && mdOk ty md true) rfl rfl rfl rfl rfl
    (fun h hc => ?_)
  simp [Bin.opds, Un.opds, MemOp.addr, ShardOp.opds] at h hc
  constructor
  · simp [Form.Clean, VecOp.v96, Opd.clean_g, Opd.clean_imm, h, hc]
  · simp [Form.instr, vecInstr, VecOp.v96, V96.vecOp, satCode_getElem]

theorem vand (ty : Ty) (v : VecOp) : Statement (.vand ty v) := by
  refine of_form (.v96 0x8D (v.v96 0 0 ty.code)) ([(v.gs, .src)]) (ty.isInt && v.sc == 0 && v.bOk) rfl rfl rfl rfl rfl
    (fun h hc => ?_)
  simp [Bin.opds, Un.opds, MemOp.addr, ShardOp.opds] at h hc
  constructor
  · simp [Form.Clean, VecOp.v96, Opd.clean_g, Opd.clean_imm, h, hc]
  · simp [Form.instr, vecInstr, VecOp.v96, V96.vecOp, satCode_getElem]

theorem vor (ty : Ty) (v : VecOp) : Statement (.vor ty v) := by
  refine of_form (.v96 0x8E (v.v96 0 0 ty.code)) ([(v.gs, .src)]) (ty.isInt && v.sc == 0 && v.bOk) rfl rfl rfl rfl rfl
    (fun h hc => ?_)
  simp [Bin.opds, Un.opds, MemOp.addr, ShardOp.opds] at h hc
  constructor
  · simp [Form.Clean, VecOp.v96, Opd.clean_g, Opd.clean_imm, h, hc]
  · simp [Form.instr, vecInstr, VecOp.v96, V96.vecOp, satCode_getElem]

theorem vxor (ty : Ty) (v : VecOp) : Statement (.vxor ty v) := by
  refine of_form (.v96 0x8F (v.v96 0 0 ty.code)) ([(v.gs, .src)]) (ty.isInt && v.sc == 0 && v.bOk) rfl rfl rfl rfl rfl
    (fun h hc => ?_)
  simp [Bin.opds, Un.opds, MemOp.addr, ShardOp.opds] at h hc
  constructor
  · simp [Form.Clean, VecOp.v96, Opd.clean_g, Opd.clean_imm, h, hc]
  · simp [Form.instr, vecInstr, VecOp.v96, V96.vecOp, satCode_getElem]

theorem vshl (ty : Ty) (v : VecOp) : Statement (.vshl ty v) := by
  refine of_form (.v96 0x90 (v.v96 0 0 ty.code)) ([(v.gs, .src)]) (ty.isInt && v.sc == 0 && v.bOk) rfl rfl rfl rfl rfl
    (fun h hc => ?_)
  simp [Bin.opds, Un.opds, MemOp.addr, ShardOp.opds] at h hc
  constructor
  · simp [Form.Clean, VecOp.v96, Opd.clean_g, Opd.clean_imm, h, hc]
  · simp [Form.instr, vecInstr, VecOp.v96, V96.vecOp, satCode_getElem]

theorem vshr (ty : Ty) (v : VecOp) : Statement (.vshr ty v) := by
  refine of_form (.v96 0x91 (v.v96 0 0 ty.code)) ([(v.gs, .src)]) (ty.isInt && v.sc == 0 && v.bOk) rfl rfl rfl rfl rfl
    (fun h hc => ?_)
  simp [Bin.opds, Un.opds, MemOp.addr, ShardOp.opds] at h hc
  constructor
  · simp [Form.Clean, VecOp.v96, Opd.clean_g, Opd.clean_imm, h, hc]
  · simp [Form.instr, vecInstr, VecOp.v96, V96.vecOp, satCode_getElem]

theorem vcmp (cc : Cc) (ty : Ty) (md : Md) (v : VecOp) : Statement (.vcmp cc ty md v) := by
  refine of_form (.v96 0x92 (v.v96 cc.code md.code ty.code)) ([(v.gs, .src)]) ( ty.vecArith && v.sc == 0 && v.bOk && mdOk ty md false && (ty.isInt || (cc != .ltu && cc != .leu && cc != .gtu && cc != .geu))) rfl rfl rfl rfl rfl
    (fun h hc => ?_)
  simp [Bin.opds, Un.opds, MemOp.addr, ShardOp.opds] at h hc
  constructor
  · simp [Form.Clean, VecOp.v96, Opd.clean_g, Opd.clean_imm, h, hc]
  · simp [Form.instr, vecInstr, VecOp.v96, V96.vecOp, satCode_getElem]

theorem vsel (ty : Ty) (v : VecOp) : Statement (.vsel ty v) := by
  refine of_form (.v96 0x93 (v.v96 0 0 ty.code)) ([(v.gs, .src)]) (ty.isElem && v.bOk) rfl rfl rfl rfl rfl
    (fun h hc => ?_)
  simp [Bin.opds, Un.opds, MemOp.addr, ShardOp.opds] at h hc
  constructor
  · simp [Form.Clean, VecOp.v96, Opd.clean_g, Opd.clean_imm, h, hc]
  · simp [Form.instr, vecInstr, VecOp.v96, V96.vecOp, satCode_getElem]

theorem vcvt (ty : Ty) (md : Md) (v : VecOp) : Statement (.vcvt ty md v) := by
  refine of_form (.v96 0x94 (v.v96 0 md.code ty.code)) ([(v.gs, .src)]) (ty.isElem && v.da && v.gs == .imm && v.imm.toNat ≤ 12) rfl rfl rfl rfl rfl
    (fun h hc => ?_)
  simp [Bin.opds, Un.opds, MemOp.addr, ShardOp.opds] at h hc
  constructor
  · simp [Form.Clean, VecOp.v96, Opd.clean_g, Opd.clean_imm, h, hc]
  · simp [Form.instr, vecInstr, VecOp.v96, V96.vecOp, satCode_getElem]

theorem vcopy (ty : Ty) (v : VecOp) : Statement (.vcopy ty v) := by
  refine of_form (.v96 0x95 (v.v96 0 0 ty.code)) ([(v.gs, .src)]) ((ty.isElem || ty == .blk) && v.da && v.noGs) rfl rfl rfl rfl rfl
    (fun h hc => ?_)
  simp [Bin.opds, Un.opds, MemOp.addr, ShardOp.opds] at h hc
  constructor
  · simp [Form.Clean, VecOp.v96, Opd.clean_g, Opd.clean_imm, h, hc]
  · simp [Form.instr, vecInstr, VecOp.v96, V96.vecOp, satCode_getElem]

theorem vbcst (ty : Ty) (md : Md) (v : VecOp) : Statement (.vbcst ty md v) := by
  refine of_form (.v96 0x96 (v.v96 0 md.code ty.code)) ([(v.gs, .src)]) (ty.isElem && v.dOnly && v.gsVal && mdOk ty md false) rfl rfl rfl rfl rfl
    (fun h hc => ?_)
  simp [Bin.opds, Un.opds, MemOp.addr, ShardOp.opds] at h hc
  constructor
  · simp [Form.Clean, VecOp.v96, Opd.clean_g, Opd.clean_imm, h, hc]
  · simp [Form.instr, vecInstr, VecOp.v96, V96.vecOp, satCode_getElem]

theorem vgath (ty : Ty) (v : VecOp) : Statement (.vgath ty v) := by
  refine of_form (.v96 0x97 (v.v96 0 0 ty.code)) ([(v.gs, .src)]) ((ty.isElem || ty == .blk) && v.sc == 0 && !v.sbf && v.noGs) rfl rfl rfl rfl rfl
    (fun h hc => ?_)
  simp [Bin.opds, Un.opds, MemOp.addr, ShardOp.opds] at h hc
  constructor
  · simp [Form.Clean, VecOp.v96, Opd.clean_g, Opd.clean_imm, h, hc]
  · simp [Form.instr, vecInstr, VecOp.v96, V96.vecOp, satCode_getElem]

theorem vscat (ty : Ty) (v : VecOp) : Statement (.vscat ty v) := by
  refine of_form (.v96 0x98 (v.v96 0 0 ty.code)) ([(v.gs, .src)]) ((ty.isElem || ty == .blk) && v.sc == 0 && !v.sbf && v.noGs) rfl rfl rfl rfl rfl
    (fun h hc => ?_)
  simp [Bin.opds, Un.opds, MemOp.addr, ShardOp.opds] at h hc
  constructor
  · simp [Form.Clean, VecOp.v96, Opd.clean_g, Opd.clean_imm, h, hc]
  · simp [Form.instr, vecInstr, VecOp.v96, V96.vecOp, satCode_getElem]

theorem vsum (ty : Ty) (sat : Bool) (v : VecOp) : Statement (.vsum ty sat v) := by
  refine of_form (.v96 0x99 (v.v96 0 (satCode sat) ty.code)) ([(v.gs, .gx)]) (ty.vecArith && v.aOnly && v.imm == 0 && (!sat || ty.isInt)) rfl rfl rfl rfl rfl
    (fun h hc => ?_)
  simp [Bin.opds, Un.opds, MemOp.addr, ShardOp.opds] at h hc
  constructor
  · simp [Form.Clean, VecOp.v96, Opd.clean_g, Opd.clean_imm, h, hc]
  · simp [Form.instr, vecInstr, VecOp.v96, V96.vecOp, satCode_getElem]

theorem vrmax (ty : Ty) (v : VecOp) : Statement (.vrmax ty v) := by
  refine of_form (.v96 0x9A (v.v96 0 0 ty.code)) ([(v.gs, .gx)]) (ty.vecArith && v.aOnly && v.imm == 0) rfl rfl rfl rfl rfl
    (fun h hc => ?_)
  simp [Bin.opds, Un.opds, MemOp.addr, ShardOp.opds] at h hc
  constructor
  · simp [Form.Clean, VecOp.v96, Opd.clean_g, Opd.clean_imm, h, hc]
  · simp [Form.instr, vecInstr, VecOp.v96, V96.vecOp, satCode_getElem]

theorem vsfu (fn : SfuFn) (ty : Ty) (md : Md) (v : VecOp) : Statement (.vsfu fn ty md v) := by
  refine of_form (.v96 0x9B (v.v96 fn.code md.code ty.code)) ([(v.gs, .src)]) (ty.isIeee && v.da && v.noGs) rfl rfl rfl rfl rfl
    (fun h hc => ?_)
  simp [Bin.opds, Un.opds, MemOp.addr, ShardOp.opds] at h hc
  constructor
  · simp [Form.Clean, VecOp.v96, Opd.clean_g, Opd.clean_imm, h, hc]
  · simp [Form.instr, vecInstr, VecOp.v96, V96.vecOp, satCode_getElem]

theorem vqnt (ty : Ty) (md : Md) (v : VecOp) : Statement (.vqnt ty md v) := by
  refine of_form (.v96 0x9C (v.v96 0 md.code ty.code)) ([(v.gs, .src)]) ( ty.isBlockFmt && v.da && v.gs == .imm && v.imm.toNat ≤ ty.slots && (ty != .l4 || md == ⟨.rne, false⟩)) rfl rfl rfl rfl rfl
    (fun h hc => ?_)
  simp [Bin.opds, Un.opds, MemOp.addr, ShardOp.opds] at h hc
  constructor
  · simp [Form.Clean, VecOp.v96, Opd.clean_g, Opd.clean_imm, h, hc]
  · simp [Form.instr, vecInstr, VecOp.v96, V96.vecOp, satCode_getElem]

theorem vdq (ty : Ty) (md : Md) (v : VecOp) : Statement (.vdq ty md v) := by
  refine of_form (.v96 0x9D (v.v96 0 md.code ty.code)) ([(v.gs, .src)]) (ty.isBlockFmt && v.da && v.noGs) rfl rfl rfl rfl rfl
    (fun h hc => ?_)
  simp [Bin.opds, Un.opds, MemOp.addr, ShardOp.opds] at h hc
  constructor
  · simp [Form.Clean, VecOp.v96, Opd.clean_g, Opd.clean_imm, h, hc]
  · simp [Form.instr, vecInstr, VecOp.v96, V96.vecOp, satCode_getElem]

theorem vpclr (ty : Ty) (v : VecOp) : Statement (.vpclr ty v) := by
  refine of_form (.v96 0x9E (v.v96 0 0 ty.code)) ([(v.gs, .src)]) ((ty.isElem || ty == .blk) && v.dOnly && v.noGs) rfl rfl rfl rfl rfl
    (fun h hc => ?_)
  simp [Bin.opds, Un.opds, MemOp.addr, ShardOp.opds] at h hc
  constructor
  · simp [Form.Clean, VecOp.v96, Opd.clean_g, Opd.clean_imm, h, hc]
  · simp [Form.instr, vecInstr, VecOp.v96, V96.vecOp, satCode_getElem]

theorem fadd (ty : Ty) (md : Md) (o : Bin) : Statement (.fadd ty md o) := by
  refine of_form (.a64 0xA0 (o.a64 0 md.code ty.code)) (o.opds) (ty.isIeee && o.ok) rfl rfl rfl rfl rfl
    (fun h hc => ?_)
  simp [Bin.opds, Un.opds, MemOp.addr, ShardOp.opds] at h hc
  constructor
  · simp [Form.Clean, Bin.a64, Un.a64, Src.a64, ShardOp.a64, Opd.clean_g, Opd.clean_imm, h, hc]
  · simp [Form.instr, floatInstr, Bin.a64, Un.a64, Src.a64, ShardOp.a64, A64.bin, A64.un, A64.src, A64.shard, A64.sat, A64.tl, satCode_getElem]

theorem fsub (ty : Ty) (md : Md) (o : Bin) : Statement (.fsub ty md o) := by
  refine of_form (.a64 0xA1 (o.a64 0 md.code ty.code)) (o.opds) (ty.isIeee && o.ok) rfl rfl rfl rfl rfl
    (fun h hc => ?_)
  simp [Bin.opds, Un.opds, MemOp.addr, ShardOp.opds] at h hc
  constructor
  · simp [Form.Clean, Bin.a64, Un.a64, Src.a64, ShardOp.a64, Opd.clean_g, Opd.clean_imm, h, hc]
  · simp [Form.instr, floatInstr, Bin.a64, Un.a64, Src.a64, ShardOp.a64, A64.bin, A64.un, A64.src, A64.shard, A64.sat, A64.tl, satCode_getElem]

theorem fmul (ty : Ty) (md : Md) (o : Bin) : Statement (.fmul ty md o) := by
  refine of_form (.a64 0xA2 (o.a64 0 md.code ty.code)) (o.opds) (ty.isIeee && o.ok) rfl rfl rfl rfl rfl
    (fun h hc => ?_)
  simp [Bin.opds, Un.opds, MemOp.addr, ShardOp.opds] at h hc
  constructor
  · simp [Form.Clean, Bin.a64, Un.a64, Src.a64, ShardOp.a64, Opd.clean_g, Opd.clean_imm, h, hc]
  · simp [Form.instr, floatInstr, Bin.a64, Un.a64, Src.a64, ShardOp.a64, A64.bin, A64.un, A64.src, A64.shard, A64.sat, A64.tl, satCode_getElem]

theorem ffma (ty : Ty) (md : Md) (o : Bin) : Statement (.ffma ty md o) := by
  refine of_form (.a64 0xA3 (o.a64 0 md.code ty.code)) (o.opds) (ty.isIeee && o.ok) rfl rfl rfl rfl rfl
    (fun h hc => ?_)
  simp [Bin.opds, Un.opds, MemOp.addr, ShardOp.opds] at h hc
  constructor
  · simp [Form.Clean, Bin.a64, Un.a64, Src.a64, ShardOp.a64, Opd.clean_g, Opd.clean_imm, h, hc]
  · simp [Form.instr, floatInstr, Bin.a64, Un.a64, Src.a64, ShardOp.a64, A64.bin, A64.un, A64.src, A64.shard, A64.sat, A64.tl, satCode_getElem]

theorem fmin (ty : Ty) (o : Bin) : Statement (.fmin ty o) := by
  refine of_form (.a64 0xA4 (o.a64 0 0 ty.code)) (o.opds) (ty.isIeee && o.ok) rfl rfl rfl rfl rfl
    (fun h hc => ?_)
  simp [Bin.opds, Un.opds, MemOp.addr, ShardOp.opds] at h hc
  constructor
  · simp [Form.Clean, Bin.a64, Un.a64, Src.a64, ShardOp.a64, Opd.clean_g, Opd.clean_imm, h, hc]
  · simp [Form.instr, floatInstr, Bin.a64, Un.a64, Src.a64, ShardOp.a64, A64.bin, A64.un, A64.src, A64.shard, A64.sat, A64.tl, satCode_getElem]

theorem fmax (ty : Ty) (o : Bin) : Statement (.fmax ty o) := by
  refine of_form (.a64 0xA5 (o.a64 0 0 ty.code)) (o.opds) (ty.isIeee && o.ok) rfl rfl rfl rfl rfl
    (fun h hc => ?_)
  simp [Bin.opds, Un.opds, MemOp.addr, ShardOp.opds] at h hc
  constructor
  · simp [Form.Clean, Bin.a64, Un.a64, Src.a64, ShardOp.a64, Opd.clean_g, Opd.clean_imm, h, hc]
  · simp [Form.instr, floatInstr, Bin.a64, Un.a64, Src.a64, ShardOp.a64, A64.bin, A64.un, A64.src, A64.shard, A64.sat, A64.tl, satCode_getElem]

theorem fabs (ty : Ty) (o : Un) : Statement (.fabs ty o) := by
  refine of_form (.a64 0xA6 (o.a64 0 0 ty.code)) (o.opds) (ty.isIeee && o.ok) rfl rfl rfl rfl rfl
    (fun h hc => ?_)
  simp [Bin.opds, Un.opds, MemOp.addr, ShardOp.opds] at h hc
  constructor
  · simp [Form.Clean, Bin.a64, Un.a64, Src.a64, ShardOp.a64, Opd.clean_g, Opd.clean_imm, h, hc]
  · simp [Form.instr, floatInstr, Bin.a64, Un.a64, Src.a64, ShardOp.a64, A64.bin, A64.un, A64.src, A64.shard, A64.sat, A64.tl, satCode_getElem]

theorem fneg (ty : Ty) (o : Un) : Statement (.fneg ty o) := by
  refine of_form (.a64 0xA7 (o.a64 0 0 ty.code)) (o.opds) (ty.isIeee && o.ok) rfl rfl rfl rfl rfl
    (fun h hc => ?_)
  simp [Bin.opds, Un.opds, MemOp.addr, ShardOp.opds] at h hc
  constructor
  · simp [Form.Clean, Bin.a64, Un.a64, Src.a64, ShardOp.a64, Opd.clean_g, Opd.clean_imm, h, hc]
  · simp [Form.instr, floatInstr, Bin.a64, Un.a64, Src.a64, ShardOp.a64, A64.bin, A64.un, A64.src, A64.shard, A64.sat, A64.tl, satCode_getElem]

theorem fcmp (cc : Cc) (ty : Ty) (o : Bin) : Statement (.fcmp cc ty o) := by
  refine of_form (.a64 0xA8 (o.a64 cc.code 0 ty.code)) (o.opds) (ty.isIeee && o.ok && (cc != .ltu && cc != .leu && cc != .gtu && cc != .geu)) rfl rfl rfl rfl rfl
    (fun h hc => ?_)
  simp [Bin.opds, Un.opds, MemOp.addr, ShardOp.opds] at h hc
  constructor
  · simp [Form.Clean, Bin.a64, Un.a64, Src.a64, ShardOp.a64, Opd.clean_g, Opd.clean_imm, h, hc]
  · simp [Form.instr, floatInstr, Bin.a64, Un.a64, Src.a64, ShardOp.a64, A64.bin, A64.un, A64.src, A64.shard, A64.sat, A64.tl, satCode_getElem]

theorem fcvt (dty : Ty) (sty : Ty) (md : Md) (d : Opd) (a : Opd) (ta : Bool) : Statement (.fcvt dty sty md d a ta) := by
  refine of_form (.a64 0xA9 { d := d, a := a, b := .imm, ta := ta, imm := sty.code.setWidth 16, md := md.code, ty := dty.code }) ([(d, .gen), (a, .src)]) (dty.isElem && sty.isElem && takeOk a ta) rfl rfl rfl rfl rfl
    (fun h hc => ?_)
  simp [Bin.opds, Un.opds, MemOp.addr, ShardOp.opds] at h hc
  constructor
  · simp [Form.Clean, Bin.a64, Un.a64, Src.a64, ShardOp.a64, Opd.clean_g, Opd.clean_imm, h, hc]
  · simp [Form.instr, floatInstr, Bin.a64, Un.a64, Src.a64, ShardOp.a64, A64.bin, A64.un, A64.src, A64.shard, A64.sat, A64.tl, satCode_getElem]

theorem fclass (ty : Ty) (o : Un) : Statement (.fclass ty o) := by
  refine of_form (.a64 0xAA (o.a64 0 0 ty.code)) (o.opds) (ty.isFloat && o.ok) rfl rfl rfl rfl rfl
    (fun h hc => ?_)
  simp [Bin.opds, Un.opds, MemOp.addr, ShardOp.opds] at h hc
  constructor
  · simp [Form.Clean, Bin.a64, Un.a64, Src.a64, ShardOp.a64, Opd.clean_g, Opd.clean_imm, h, hc]
  · simp [Form.instr, floatInstr, Bin.a64, Un.a64, Src.a64, ShardOp.a64, A64.bin, A64.un, A64.src, A64.shard, A64.sat, A64.tl, satCode_getElem]

theorem cvp (form : PackForm) (ty : Ty) (md : Md) (o : Bin) : Statement (.cvp form ty md o) := by
  refine of_form (.a64 0xAB (o.a64 form.code md.code ty.code)) (o.opds) (o.ok && (match form with | .h2 => ty == .f16 || ty == .bf16 | .b4 => ty == .i8 || ty == .ui8 || ty == .e4m3 || ty == .e5m2 || ty == .t8 | .q4 => ty == .l4 | .t6 => ty == .t6)) rfl rfl rfl rfl rfl
    (fun h hc => ?_)
  simp [Bin.opds, Un.opds, MemOp.addr, ShardOp.opds] at h hc
  constructor
  · simp [Form.Clean, Bin.a64, Un.a64, Src.a64, ShardOp.a64, Opd.clean_g, Opd.clean_imm, h, hc]
  · simp [Form.instr, floatInstr, Bin.a64, Un.a64, Src.a64, ShardOp.a64, A64.bin, A64.un, A64.src, A64.shard, A64.sat, A64.tl, satCode_getElem]

theorem cvu (ty : Ty) (o : Bin) : Statement (.cvu ty o) := by
  refine of_form (.a64 0xAD (o.a64 0 0 ty.code)) (o.opds) (o.ok && (ty == .f16 || ty == .bf16 || ty == .i8 || ty == .ui8 || ty == .e4m3 || ty == .e5m2 || ty == .t8 || ty == .t6 || ty == .l4)) rfl rfl rfl rfl rfl
    (fun h hc => ?_)
  simp [Bin.opds, Un.opds, MemOp.addr, ShardOp.opds] at h hc
  constructor
  · simp [Form.Clean, Bin.a64, Un.a64, Src.a64, ShardOp.a64, Opd.clean_g, Opd.clean_imm, h, hc]
  · simp [Form.instr, floatInstr, Bin.a64, Un.a64, Src.a64, ShardOp.a64, A64.bin, A64.un, A64.src, A64.shard, A64.sat, A64.tl, satCode_getElem]

theorem fexp2 (ty : Ty) (md : Md) (o : Un) : Statement (.fexp2 ty md o) := by
  refine of_form (.a64 0xAC (o.a64 SfuFn.exp2.code md.code ty.code)) ([(o.d, .sfuDst), (o.a, .src)]) (ty.isIeee && o.ok) rfl rfl rfl rfl rfl
    (fun h hc => ?_)
  simp [Bin.opds, Un.opds, MemOp.addr, ShardOp.opds] at h hc
  constructor
  · simp [Form.Clean, Bin.a64, Un.a64, Src.a64, ShardOp.a64, Opd.clean_g, Opd.clean_imm, h, hc]
  · simp [Form.instr, floatInstr, sfuInstr, Bin.a64, Un.a64, Src.a64, ShardOp.a64, A64.bin, A64.un, A64.src, A64.shard, A64.sat, A64.tl, satCode_getElem]

theorem flog2 (ty : Ty) (md : Md) (o : Un) : Statement (.flog2 ty md o) := by
  refine of_form (.a64 0xAC (o.a64 SfuFn.log2.code md.code ty.code)) ([(o.d, .sfuDst), (o.a, .src)]) (ty.isIeee && o.ok) rfl rfl rfl rfl rfl
    (fun h hc => ?_)
  simp [Bin.opds, Un.opds, MemOp.addr, ShardOp.opds] at h hc
  constructor
  · simp [Form.Clean, Bin.a64, Un.a64, Src.a64, ShardOp.a64, Opd.clean_g, Opd.clean_imm, h, hc]
  · simp [Form.instr, floatInstr, sfuInstr, Bin.a64, Un.a64, Src.a64, ShardOp.a64, A64.bin, A64.un, A64.src, A64.shard, A64.sat, A64.tl, satCode_getElem]

theorem frcp (ty : Ty) (md : Md) (o : Un) : Statement (.frcp ty md o) := by
  refine of_form (.a64 0xAC (o.a64 SfuFn.rcp.code md.code ty.code)) ([(o.d, .sfuDst), (o.a, .src)]) (ty.isIeee && o.ok) rfl rfl rfl rfl rfl
    (fun h hc => ?_)
  simp [Bin.opds, Un.opds, MemOp.addr, ShardOp.opds] at h hc
  constructor
  · simp [Form.Clean, Bin.a64, Un.a64, Src.a64, ShardOp.a64, Opd.clean_g, Opd.clean_imm, h, hc]
  · simp [Form.instr, floatInstr, sfuInstr, Bin.a64, Un.a64, Src.a64, ShardOp.a64, A64.bin, A64.un, A64.src, A64.shard, A64.sat, A64.tl, satCode_getElem]

theorem frsq (ty : Ty) (md : Md) (o : Un) : Statement (.frsq ty md o) := by
  refine of_form (.a64 0xAC (o.a64 SfuFn.rsq.code md.code ty.code)) ([(o.d, .sfuDst), (o.a, .src)]) (ty.isIeee && o.ok) rfl rfl rfl rfl rfl
    (fun h hc => ?_)
  simp [Bin.opds, Un.opds, MemOp.addr, ShardOp.opds] at h hc
  constructor
  · simp [Form.Clean, Bin.a64, Un.a64, Src.a64, ShardOp.a64, Opd.clean_g, Opd.clean_imm, h, hc]
  · simp [Form.instr, floatInstr, sfuInstr, Bin.a64, Un.a64, Src.a64, ShardOp.a64, A64.bin, A64.un, A64.src, A64.shard, A64.sat, A64.tl, satCode_getElem]

theorem fsqrt (ty : Ty) (md : Md) (o : Un) : Statement (.fsqrt ty md o) := by
  refine of_form (.a64 0xAC (o.a64 SfuFn.sqrt.code md.code ty.code)) ([(o.d, .sfuDst), (o.a, .src)]) (ty.isIeee && o.ok) rfl rfl rfl rfl rfl
    (fun h hc => ?_)
  simp [Bin.opds, Un.opds, MemOp.addr, ShardOp.opds] at h hc
  constructor
  · simp [Form.Clean, Bin.a64, Un.a64, Src.a64, ShardOp.a64, Opd.clean_g, Opd.clean_imm, h, hc]
  · simp [Form.instr, floatInstr, sfuInstr, Bin.a64, Un.a64, Src.a64, ShardOp.a64, A64.bin, A64.un, A64.src, A64.shard, A64.sat, A64.tl, satCode_getElem]

theorem fsin (ty : Ty) (md : Md) (o : Un) : Statement (.fsin ty md o) := by
  refine of_form (.a64 0xAC (o.a64 SfuFn.sin.code md.code ty.code)) ([(o.d, .sfuDst), (o.a, .src)]) (ty.isIeee && o.ok) rfl rfl rfl rfl rfl
    (fun h hc => ?_)
  simp [Bin.opds, Un.opds, MemOp.addr, ShardOp.opds] at h hc
  constructor
  · simp [Form.Clean, Bin.a64, Un.a64, Src.a64, ShardOp.a64, Opd.clean_g, Opd.clean_imm, h, hc]
  · simp [Form.instr, floatInstr, sfuInstr, Bin.a64, Un.a64, Src.a64, ShardOp.a64, A64.bin, A64.un, A64.src, A64.shard, A64.sat, A64.tl, satCode_getElem]

theorem fcos (ty : Ty) (md : Md) (o : Un) : Statement (.fcos ty md o) := by
  refine of_form (.a64 0xAC (o.a64 SfuFn.cos.code md.code ty.code)) ([(o.d, .sfuDst), (o.a, .src)]) (ty.isIeee && o.ok) rfl rfl rfl rfl rfl
    (fun h hc => ?_)
  simp [Bin.opds, Un.opds, MemOp.addr, ShardOp.opds] at h hc
  constructor
  · simp [Form.Clean, Bin.a64, Un.a64, Src.a64, ShardOp.a64, Opd.clean_g, Opd.clean_imm, h, hc]
  · simp [Form.instr, floatInstr, sfuInstr, Bin.a64, Un.a64, Src.a64, ShardOp.a64, A64.bin, A64.un, A64.src, A64.shard, A64.sat, A64.tl, satCode_getElem]

theorem ftanh (ty : Ty) (md : Md) (o : Un) : Statement (.ftanh ty md o) := by
  refine of_form (.a64 0xAC (o.a64 SfuFn.tanh.code md.code ty.code)) ([(o.d, .sfuDst), (o.a, .src)]) (ty.isIeee && o.ok) rfl rfl rfl rfl rfl
    (fun h hc => ?_)
  simp [Bin.opds, Un.opds, MemOp.addr, ShardOp.opds] at h hc
  constructor
  · simp [Form.Clean, Bin.a64, Un.a64, Src.a64, ShardOp.a64, Opd.clean_g, Opd.clean_imm, h, hc]
  · simp [Form.instr, floatInstr, sfuInstr, Bin.a64, Un.a64, Src.a64, ShardOp.a64, A64.bin, A64.un, A64.src, A64.shard, A64.sat, A64.tl, satCode_getElem]

theorem mma (t : TOp) : Statement (.mma t) := by
  refine of_form (.t128 0xB0 t.t128) ([(t.ga, .gx), (t.gb, .gx)]) (t.mulOk) rfl rfl rfl rfl rfl
    (fun h hc => ?_)
  simp [Bin.opds, Un.opds, MemOp.addr, ShardOp.opds, TOp.matOk, TOp.plainMat, TOp.mulOk, TOp.engOk] at h hc
  constructor
  · simp [Form.Clean, TOp.t128, Opd.clean_g, Opd.clean_imm, h, hc]
  · simp [Form.instr, tileInstr, TOp.t128, T128.tOp]

theorem mmb (t : TOp) : Statement (.mmb t) := by
  refine of_form (.t128 0xB1 t.t128) ([(t.ga, .gx), (t.gb, .gx)]) (t.mulOk) rfl rfl rfl rfl rfl
    (fun h hc => ?_)
  simp [Bin.opds, Un.opds, MemOp.addr, ShardOp.opds, TOp.matOk, TOp.plainMat, TOp.mulOk, TOp.engOk] at h hc
  constructor
  · simp [Form.Clean, TOp.t128, Opd.clean_g, Opd.clean_imm, h, hc]
  · simp [Form.instr, tileInstr, TOp.t128, T128.tOp]

theorem mms (t : TOp) : Statement (.mms t) := by
  refine of_form (.t128 0xB2 t.t128) ([(t.ga, .gx), (t.gb, .gx)]) (t.mulOk) rfl rfl rfl rfl rfl
    (fun h hc => ?_)
  simp [Bin.opds, Un.opds, MemOp.addr, ShardOp.opds, TOp.matOk, TOp.plainMat, TOp.mulOk, TOp.engOk] at h hc
  constructor
  · simp [Form.Clean, TOp.t128, Opd.clean_g, Opd.clean_imm, h, hc]
  · simp [Form.instr, tileInstr, TOp.t128, T128.tOp]

theorem mcmp (t : TOp) : Statement (.mcmp t) := by
  refine of_form (.t128 0xB3 t.t128) ([(t.ga, .gx), (t.gb, .gx)]) (t.plainMat && pairCode t.ga && pairCode t.gb && t.gc == .g 0 && t.acc == 0 && t.fn == 0 && kOk t.kcnt && t.step.toNat < t.kcnt.toNat) rfl rfl rfl rfl rfl
    (fun h hc => ?_)
  simp [Bin.opds, Un.opds, MemOp.addr, ShardOp.opds, TOp.matOk, TOp.plainMat, TOp.mulOk, TOp.engOk] at h hc
  constructor
  · simp [Form.Clean, TOp.t128, Opd.clean_g, Opd.clean_imm, h, hc]
  · simp [Form.instr, tileInstr, TOp.t128, T128.tOp]

theorem mzero (t : TOp) : Statement (.mzero t) := by
  refine of_form (.t128 0xB4 t.t128) ([(t.ga, .gx), (t.gb, .gx)]) (t.plainMat && t.untyped && t.ga == .g 0 && t.gb == .g 0 && t.gc == .g 0 && t.fn == 0 && t.kcnt == 0 && t.step == 0) rfl rfl rfl rfl rfl
    (fun h hc => ?_)
  simp [Bin.opds, Un.opds, MemOp.addr, ShardOp.opds, TOp.matOk, TOp.plainMat, TOp.mulOk, TOp.engOk] at h hc
  constructor
  · simp [Form.Clean, TOp.t128, Opd.clean_g, Opd.clean_imm, h, hc]
  · simp [Form.instr, tileInstr, TOp.t128, T128.tOp]

theorem mlda (t : TOp) : Statement (.mlda t) := by
  refine of_form (.t128 0xB5 t.t128) ([(t.ga, .gx), (t.gb, .gx)]) (t.plainMat && t.untyped && pairCode t.ga && t.gb == .g 0 && t.gc == .g 0 && t.fn == 0 && t.kcnt == 0 && t.step == 0) rfl rfl rfl rfl rfl
    (fun h hc => ?_)
  simp [Bin.opds, Un.opds, MemOp.addr, ShardOp.opds, TOp.matOk, TOp.plainMat, TOp.mulOk, TOp.engOk] at h hc
  constructor
  · simp [Form.Clean, TOp.t128, Opd.clean_g, Opd.clean_imm, h, hc]
  · simp [Form.instr, tileInstr, TOp.t128, T128.tOp]

theorem msta (t : TOp) : Statement (.msta t) := by
  refine of_form (.t128 0xB6 t.t128) ([(t.ga, .gx), (t.gb, .gx)]) (t.plainMat && t.untyped && pairCode t.ga && t.gb == .g 0 && t.gc == .g 0 && t.fn == 0 && t.kcnt == 0 && t.step == 0) rfl rfl rfl rfl rfl
    (fun h hc => ?_)
  simp [Bin.opds, Un.opds, MemOp.addr, ShardOp.opds, TOp.matOk, TOp.plainMat, TOp.mulOk, TOp.engOk] at h hc
  constructor
  · simp [Form.Clean, TOp.t128, Opd.clean_g, Opd.clean_imm, h, hc]
  · simp [Form.instr, tileInstr, TOp.t128, T128.tOp]

theorem mdrn (t : TOp) : Statement (.mdrn t) := by
  refine of_form (.t128 0xB7 t.t128) ([(t.ga, .gx), (t.gb, .gx), (t.gc, .gx)]) ( t.plainMat && pairCode t.ga && t.kcnt == 0 && t.step.toNat < 4 && t.fn.toNat < 64 && t.fn.toNat % 8 ≤ 5 && (if t.fn.getLsbD 5 then t.fn.toNat % 16 == 0 else t.gb == .g 0 && t.gc == .g 0)) rfl rfl rfl rfl rfl
    (fun h hc => ?_)
  simp [Bin.opds, Un.opds, MemOp.addr, ShardOp.opds, TOp.matOk, TOp.plainMat, TOp.mulOk, TOp.engOk] at h hc
  constructor
  · simp [Form.Clean, TOp.t128, Opd.clean_g, Opd.clean_imm, h, hc]
  · simp [Form.instr, tileInstr, TOp.t128, T128.tOp]

theorem mrsum (t : TOp) : Statement (.mrsum t) := by
  refine of_form (.t128 0xB8 t.t128) ([(t.ga, .gx), (t.gc, .gx)]) (t.plainMat && pairCode t.ga && t.gb == .g 0 && t.fn == 0 && kOk t.kcnt && t.step.toNat < t.kcnt.toNat) rfl rfl rfl rfl rfl
    (fun h hc => ?_)
  simp [Bin.opds, Un.opds, MemOp.addr, ShardOp.opds, TOp.matOk, TOp.plainMat, TOp.mulOk, TOp.engOk] at h hc
  constructor
  · simp [Form.Clean, TOp.t128, Opd.clean_g, Opd.clean_imm, h, hc]
  · simp [Form.instr, tileInstr, TOp.t128, T128.tOp]

theorem mcsum (t : TOp) : Statement (.mcsum t) := by
  refine of_form (.t128 0xB9 t.t128) ([(t.ga, .gx), (t.gc, .gx)]) (t.plainMat && pairCode t.ga && t.gb == .g 0 && t.fn == 0 && kOk t.kcnt && t.step.toNat < t.kcnt.toNat) rfl rfl rfl rfl rfl
    (fun h hc => ?_)
  simp [Bin.opds, Un.opds, MemOp.addr, ShardOp.opds, TOp.matOk, TOp.plainMat, TOp.mulOk, TOp.engOk] at h hc
  constructor
  · simp [Form.Clean, TOp.t128, Opd.clean_g, Opd.clean_imm, h, hc]
  · simp [Form.instr, tileInstr, TOp.t128, T128.tOp]

theorem mtbl (t : TOp) : Statement (.mtbl t) := by
  refine of_form (.t128 0xBA t.t128) ([(t.ga, .gx)]) (t.plainMat && t.untyped && t.gb == .g 0 && t.gc == .g 0 && t.acc == 0 && t.fn == 0 && t.kcnt == 0 && t.step == 0) rfl rfl rfl rfl rfl
    (fun h hc => ?_)
  simp [Bin.opds, Un.opds, MemOp.addr, ShardOp.opds, TOp.matOk, TOp.plainMat, TOp.mulOk, TOp.engOk] at h hc
  constructor
  · simp [Form.Clean, TOp.t128, Opd.clean_g, Opd.clean_imm, h, hc]
  · simp [Form.instr, tileInstr, TOp.t128, T128.tOp]

theorem mstat (t : TOp) : Statement (.mstat t) := by
  refine of_form (.t128 0xBB t.t128) ([(t.ga, .gx)]) (t.plainMat && t.untyped && t.gb == .g 0 && t.gc == .g 0 && t.fn.toNat < 2 && t.kcnt == 0 && t.step == 0) rfl rfl rfl rfl rfl
    (fun h hc => ?_)
  simp [Bin.opds, Un.opds, MemOp.addr, ShardOp.opds, TOp.matOk, TOp.plainMat, TOp.mulOk, TOp.engOk] at h hc
  constructor
  · simp [Form.Clean, TOp.t128, Opd.clean_g, Opd.clean_imm, h, hc]
  · simp [Form.instr, tileInstr, TOp.t128, T128.tOp]

theorem cpy (t : TOp) : Statement (.cpy t) := by
  refine of_form (.t128 0xC0 t.t128) ([(t.ga, .gx), (t.gb, .gx), (t.gc, .gx), (t.gd, .gxi)]) (t.engOk true && t.fn == 0 && t.tya == .i64 && !t.sa && (if t.gd == .imm then t.kcnt != 0 else t.kcnt == 0)) rfl rfl rfl rfl rfl
    (fun h hc => ?_)
  simp [Bin.opds, Un.opds, MemOp.addr, ShardOp.opds, TOp.matOk, TOp.plainMat, TOp.mulOk, TOp.engOk] at h hc
  constructor
  · simp [Form.Clean, TOp.t128, Opd.clean_g, Opd.clean_imm, h, hc]
  · simp [Form.instr, tileInstr, TOp.t128, T128.tOp]

theorem gath (t : TOp) : Statement (.gath t) := by
  refine of_form (.t128 0xC1 t.t128) ([(t.ga, .gx), (t.gb, .gx), (t.gc, .gx), (t.gd, .gx)]) (t.engOk false && t.fn.toNat ≤ 12 && t.tya == .i64 && !t.sa && t.kcnt != 0) rfl rfl rfl rfl rfl
    (fun h hc => ?_)
  simp [Bin.opds, Un.opds, MemOp.addr, ShardOp.opds, TOp.matOk, TOp.plainMat, TOp.mulOk, TOp.engOk] at h hc
  constructor
  · simp [Form.Clean, TOp.t128, Opd.clean_g, Opd.clean_imm, h, hc]
  · simp [Form.instr, tileInstr, TOp.t128, T128.tOp]

theorem scat (t : TOp) : Statement (.scat t) := by
  refine of_form (.t128 0xC2 t.t128) ([(t.ga, .gx), (t.gb, .gx), (t.gc, .gx), (t.gd, .gx)]) (t.engOk false && t.fn.toNat ≤ 12 && t.tya == .i64 && !t.sa && t.kcnt != 0) rfl rfl rfl rfl rfl
    (fun h hc => ?_)
  simp [Bin.opds, Un.opds, MemOp.addr, ShardOp.opds, TOp.matOk, TOp.plainMat, TOp.mulOk, TOp.engOk] at h hc
  constructor
  · simp [Form.Clean, TOp.t128, Opd.clean_g, Opd.clean_imm, h, hc]
  · simp [Form.instr, tileInstr, TOp.t128, T128.tOp]

theorem coll (op : CollOp) (t : TOp) : Statement (.coll op t) := by
  refine of_form (.t128 0xC3 { t.t128 with fn := op.code }) ([(t.ga, .gx), (t.gb, .gx), (t.gc, .gx), (t.gd, .gx)]) (t.engOk false && t.fn == 0 && t.kcnt == 0 && t.sa == t.tya.matSigned && (t.tya == .i64 || t.tya == .i32 || t.tya == .f32 || t.tya == .bf16)) rfl rfl rfl rfl rfl
    (fun h hc => ?_)
  simp [Bin.opds, Un.opds, MemOp.addr, ShardOp.opds, TOp.matOk, TOp.plainMat, TOp.mulOk, TOp.engOk] at h
  constructor
  · simp [Form.Clean, TOp.t128, Opd.clean_g, Opd.clean_imm, h, hc]
  · simp only [Bool.and_eq_true, beq_iff_eq] at hc
    have h1 : t = { t with fn := 0 } := by rw [← hc.1.1.1.2]
    conv => rhs; rw [h1]
    simp [Form.instr, tileInstr, TOp.t128, T128.tOp]

theorem tlwait (tl : BitVec 3) (a : Src) : Statement (.tlwait tl a) := by
  refine of_form (.a64 0xC4 { a.a64 with ty := tlTy tl }) ([(a.a, .src)]) (a.ok) rfl rfl rfl rfl rfl
    (fun h hc => ?_)
  simp [Bin.opds, Un.opds, MemOp.addr, ShardOp.opds] at h hc
  constructor
  · simp [Form.Clean, Bin.a64, Un.a64, Src.a64, ShardOp.a64, Opd.clean_g, Opd.clean_imm, h, hc]
  · simp [Form.instr, workInstr, Bin.a64, Un.a64, Src.a64, ShardOp.a64, A64.bin, A64.un, A64.src, A64.shard, A64.sat, A64.tl, satCode_getElem]

theorem tlread (d : Opd) (tl : BitVec 3) (fld : BitVec 3) : Statement (.tlread d tl fld) := by
  refine of_form (.a64 0xC5 { d := d, a := .imm, imm := fld.setWidth 16, ty := tlTy tl }) ([(d, .gen)]) (fld.toNat ≤ 5) rfl rfl rfl rfl rfl
    (fun h hc => ?_)
  simp [Bin.opds, Un.opds, MemOp.addr, ShardOp.opds] at h hc
  constructor
  · simp [Form.Clean, Bin.a64, Un.a64, Src.a64, ShardOp.a64, Opd.clean_g, Opd.clean_imm, h, hc]
  · simp [Form.instr, workInstr, Bin.a64, Un.a64, Src.a64, ShardOp.a64, A64.bin, A64.un, A64.src, A64.shard, A64.sat, A64.tl, satCode_getElem]

theorem tlnote (d : Opd) (a : Opd) (ta : Bool) (imm : BitVec 16) (tl : BitVec 3) : Statement (.tlnote d a ta imm tl) := by
  refine of_form (.a64 0xC6 { d := d, a := a, ta := ta, imm := imm, ty := tlTy tl }) ([(d, .gen), (a, .src)]) (takeOk a ta && immOk imm [a]) rfl rfl rfl rfl rfl
    (fun h hc => ?_)
  simp [Bin.opds, Un.opds, MemOp.addr, ShardOp.opds] at h hc
  constructor
  · simp [Form.Clean, Bin.a64, Un.a64, Src.a64, ShardOp.a64, Opd.clean_g, Opd.clean_imm, h, hc]
  · simp [Form.instr, workInstr, Bin.a64, Un.a64, Src.a64, ShardOp.a64, A64.bin, A64.un, A64.src, A64.shard, A64.sat, A64.tl, satCode_getElem]

theorem fqprst (tl : BitVec 3) : Statement (.fqprst tl) := by
  refine of_form (.a64 0xC7 { ty := tlTy tl }) ([]) (true) rfl rfl rfl rfl rfl
    (fun h hc => ?_)
  simp [Bin.opds, Un.opds, MemOp.addr, ShardOp.opds] at h hc
  constructor
  · simp [Form.Clean, Bin.a64, Un.a64, Src.a64, ShardOp.a64, Opd.clean_g, Opd.clean_imm, h, hc]
  · simp [Form.instr, workInstr, Bin.a64, Un.a64, Src.a64, ShardOp.a64, A64.bin, A64.un, A64.src, A64.shard, A64.sat, A64.tl, satCode_getElem]

theorem start (a : Src) (off : BitVec 32) : Statement (.start a off) := by
  refine of_form (.i96 0xD0 a.a64 off) ([(a.a, .src)]) (a.ok) rfl rfl rfl rfl rfl
    (fun h hc => ?_)
  simp [Bin.opds, Un.opds, MemOp.addr, ShardOp.opds] at h hc
  constructor
  · simp [Form.Clean, Src.a64, PostOp.a64, Opd.clean_g, Opd.clean_imm, h, hc]
  · simp [Form.instr, longInstr, Src.a64, PostOp.a64, A64.src, A64.postOp]

theorem hjoin (a : Src) : Statement (.hjoin a) := by
  refine of_form (.a64 0xD1 a.a64) ([(a.a, .src)]) (a.ok) rfl rfl rfl rfl rfl
    (fun h hc => ?_)
  simp [Bin.opds, Un.opds, MemOp.addr, ShardOp.opds] at h hc
  constructor
  · simp [Form.Clean, Bin.a64, Un.a64, Src.a64, ShardOp.a64, Opd.clean_g, Opd.clean_imm, h, hc]
  · simp [Form.instr, workInstr, Bin.a64, Un.a64, Src.a64, ShardOp.a64, A64.bin, A64.un, A64.src, A64.shard, A64.sat, A64.tl, satCode_getElem]

theorem hexit : Statement (.hexit) := by
  refine of_form (.a64 0xD2 {}) ([]) (true) rfl rfl rfl rfl rfl
    (fun h hc => ?_)
  simp [Bin.opds, Un.opds, MemOp.addr, ShardOp.opds] at h hc
  constructor
  · simp [Form.Clean, Bin.a64, Un.a64, Src.a64, ShardOp.a64, Opd.clean_g, Opd.clean_imm, h, hc]
  · simp [Form.instr, workInstr, Bin.a64, Un.a64, Src.a64, ShardOp.a64, A64.bin, A64.un, A64.src, A64.shard, A64.sat, A64.tl, satCode_getElem]

theorem post (p : PostOp) : Statement (.post p) := by
  refine of_form (.i96 0xD3 p.a64 p.off) ([(p.aff, .gx), (p.mask, .src)]) (p.ok) rfl rfl rfl rfl rfl
    (fun h hc => ?_)
  simp [Bin.opds, Un.opds, MemOp.addr, ShardOp.opds] at h hc
  constructor
  · simp [Form.Clean, Src.a64, PostOp.a64, Opd.clean_g, Opd.clean_imm, h, hc]
  · simp [Form.instr, longInstr, PostOp.a64_postOp]

theorem susp (p : PostOp) : Statement (.susp p) := by
  refine of_form (.i96 0xD4 p.a64 p.off) ([(p.aff, .gx), (p.mask, .src)]) (p.ok) rfl rfl rfl rfl rfl
    (fun h hc => ?_)
  simp [Bin.opds, Un.opds, MemOp.addr, ShardOp.opds] at h hc
  constructor
  · simp [Form.Clean, Src.a64, PostOp.a64, Opd.clean_g, Opd.clean_imm, h, hc]
  · simp [Form.instr, longInstr, PostOp.a64_postOp]

theorem yield : Statement (.yield) := by
  refine of_form (.a64 0xD5 {}) ([]) (true) rfl rfl rfl rfl rfl
    (fun h hc => ?_)
  simp [Bin.opds, Un.opds, MemOp.addr, ShardOp.opds] at h hc
  constructor
  · simp [Form.Clean, Bin.a64, Un.a64, Src.a64, ShardOp.a64, Opd.clean_g, Opd.clean_imm, h, hc]
  · simp [Form.instr, workInstr, Bin.a64, Un.a64, Src.a64, ShardOp.a64, A64.bin, A64.un, A64.src, A64.shard, A64.sat, A64.tl, satCode_getElem]

theorem uexit : Statement (.uexit) := by
  refine of_form (.a64 0xD6 {}) ([]) (true) rfl rfl rfl rfl rfl
    (fun h hc => ?_)
  simp [Bin.opds, Un.opds, MemOp.addr, ShardOp.opds] at h hc
  constructor
  · simp [Form.Clean, Bin.a64, Un.a64, Src.a64, ShardOp.a64, Opd.clean_g, Opd.clean_imm, h, hc]
  · simp [Form.instr, workInstr, Bin.a64, Un.a64, Src.a64, ShardOp.a64, A64.bin, A64.un, A64.src, A64.shard, A64.sat, A64.tl, satCode_getElem]

theorem enq (d : Opd) (a : Src) (b : Opd) : Statement (.enq d a b) := by
  refine of_form (.a64 0xD7 { a.a64 with d := d, b := b }) ([(d, .gen), (a.a, .src), (b, .gx)]) (a.ok && recordCode b) rfl rfl rfl rfl rfl
    (fun h hc => ?_)
  simp [Bin.opds, Un.opds, MemOp.addr, ShardOp.opds] at h hc
  constructor
  · simp [Form.Clean, Bin.a64, Un.a64, Src.a64, ShardOp.a64, Opd.clean_g, Opd.clean_imm, h, hc]
  · simp [Form.instr, workInstr, Bin.a64, Un.a64, Src.a64, ShardOp.a64, A64.bin, A64.un, A64.src, A64.shard, A64.sat, A64.tl, satCode_getElem]

theorem enqw (d : Opd) (a : Src) (b : Opd) : Statement (.enqw d a b) := by
  refine of_form (.a64 0xD7 { a.a64 with d := d, b := b, fn := 1 }) ([(d, .gen), (a.a, .src), (b, .gx)]) (a.ok && recordCode b) rfl rfl rfl rfl rfl
    (fun h hc => ?_)
  simp [Bin.opds, Un.opds, MemOp.addr, ShardOp.opds] at h hc
  constructor
  · simp [Form.Clean, Bin.a64, Un.a64, Src.a64, ShardOp.a64, Opd.clean_g, Opd.clean_imm, h, hc]
  · simp [Form.instr, workInstr, Bin.a64, Un.a64, Src.a64, ShardOp.a64, A64.bin, A64.un, A64.src, A64.shard, A64.sat, A64.tl, satCode_getElem]

theorem deq : Statement (.deq) := by
  refine of_form (.a64 0xD8 {}) ([]) (true) rfl rfl rfl rfl rfl
    (fun h hc => ?_)
  simp [Bin.opds, Un.opds, MemOp.addr, ShardOp.opds] at h hc
  constructor
  · simp [Form.Clean, Bin.a64, Un.a64, Src.a64, ShardOp.a64, Opd.clean_g, Opd.clean_imm, h, hc]
  · simp [Form.instr, workInstr, Bin.a64, Un.a64, Src.a64, ShardOp.a64, A64.bin, A64.un, A64.src, A64.shard, A64.sat, A64.tl, satCode_getElem]

theorem recdone : Statement (.recdone) := by
  refine of_form (.a64 0xD9 {}) ([]) (true) rfl rfl rfl rfl rfl
    (fun h hc => ?_)
  simp [Bin.opds, Un.opds, MemOp.addr, ShardOp.opds] at h hc
  constructor
  · simp [Form.Clean, Bin.a64, Un.a64, Src.a64, ShardOp.a64, Opd.clean_g, Opd.clean_imm, h, hc]
  · simp [Form.instr, workInstr, Bin.a64, Un.a64, Src.a64, ShardOp.a64, A64.bin, A64.un, A64.src, A64.shard, A64.sat, A64.tl, satCode_getElem]

theorem splitok (a : Src) : Statement (.splitok a) := by
  refine of_form (.a64 0xDA a.a64) ([(a.a, .src)]) (a.ok) rfl rfl rfl rfl rfl
    (fun h hc => ?_)
  simp [Bin.opds, Un.opds, MemOp.addr, ShardOp.opds] at h hc
  constructor
  · simp [Form.Clean, Bin.a64, Un.a64, Src.a64, ShardOp.a64, Opd.clean_g, Opd.clean_imm, h, hc]
  · simp [Form.instr, workInstr, Bin.a64, Un.a64, Src.a64, ShardOp.a64, A64.bin, A64.un, A64.src, A64.shard, A64.sat, A64.tl, satCode_getElem]

theorem mergeok : Statement (.mergeok) := by
  refine of_form (.a64 0xDA { fn := 1 }) ([]) (true) rfl rfl rfl rfl rfl
    (fun h hc => ?_)
  simp [Bin.opds, Un.opds, MemOp.addr, ShardOp.opds] at h hc
  constructor
  · simp [Form.Clean, Bin.a64, Un.a64, Src.a64, ShardOp.a64, Opd.clean_g, Opd.clean_imm, h, hc]
  · simp [Form.instr, workInstr, Bin.a64, Un.a64, Src.a64, ShardOp.a64, A64.bin, A64.un, A64.src, A64.shard, A64.sat, A64.tl, satCode_getElem]

theorem tballoc (o : Un) : Statement (.tballoc o) := by
  refine of_form (.a64 0xDB (o.a64)) (o.opds) (o.ok) rfl rfl rfl rfl rfl
    (fun h hc => ?_)
  simp [Bin.opds, Un.opds, MemOp.addr, ShardOp.opds] at h hc
  constructor
  · simp [Form.Clean, Bin.a64, Un.a64, Src.a64, ShardOp.a64, Opd.clean_g, Opd.clean_imm, h, hc]
  · simp [Form.instr, workInstr, Bin.a64, Un.a64, Src.a64, ShardOp.a64, A64.bin, A64.un, A64.src, A64.shard, A64.sat, A64.tl, satCode_getElem]

theorem tbfree (a : Src) : Statement (.tbfree a) := by
  refine of_form (.a64 0xDB { a.a64 with fn := 1 }) ([(a.a, .src)]) (a.ok) rfl rfl rfl rfl rfl
    (fun h hc => ?_)
  simp [Bin.opds, Un.opds, MemOp.addr, ShardOp.opds] at h hc
  constructor
  · simp [Form.Clean, Bin.a64, Un.a64, Src.a64, ShardOp.a64, Opd.clean_g, Opd.clean_imm, h, hc]
  · simp [Form.instr, workInstr, Bin.a64, Un.a64, Src.a64, ShardOp.a64, A64.bin, A64.un, A64.src, A64.shard, A64.sat, A64.tl, satCode_getElem]

theorem tbset (st : BufState) (a : Opd) (ta : Bool) (b : Opd) (tb : Bool) (imm : BitVec 16) : Statement (.tbset st a ta b tb imm) := by
  refine of_form (.a64 0xDC { a := a, ta := ta, b := b, tb := tb, imm := imm, md := st.code }) ([(a, .src), (b, .src)]) (takeOk a ta && takeOk b tb && immOk imm [a, b]) rfl rfl rfl rfl rfl
    (fun h hc => ?_)
  simp [Bin.opds, Un.opds, MemOp.addr, ShardOp.opds] at h hc
  constructor
  · simp [Form.Clean, Bin.a64, Un.a64, Src.a64, ShardOp.a64, Opd.clean_g, Opd.clean_imm, h, hc]
  · simp [Form.instr, workInstr, Bin.a64, Un.a64, Src.a64, ShardOp.a64, A64.bin, A64.un, A64.src, A64.shard, A64.sat, A64.tl, satCode_getElem]

theorem tbstat (o : Un) : Statement (.tbstat o) := by
  refine of_form (.a64 0xDC (o.a64 1)) (o.opds) (o.ok) rfl rfl rfl rfl rfl
    (fun h hc => ?_)
  simp [Bin.opds, Un.opds, MemOp.addr, ShardOp.opds] at h hc
  constructor
  · simp [Form.Clean, Bin.a64, Un.a64, Src.a64, ShardOp.a64, Opd.clean_g, Opd.clean_imm, h, hc]
  · simp [Form.instr, workInstr, Bin.a64, Un.a64, Src.a64, ShardOp.a64, A64.bin, A64.un, A64.src, A64.shard, A64.sat, A64.tl, satCode_getElem]

theorem spanx : Statement (.spanx) := by
  refine of_form (.a64 0xDD {}) ([]) (true) rfl rfl rfl rfl rfl
    (fun h hc => ?_)
  simp [Bin.opds, Un.opds, MemOp.addr, ShardOp.opds] at h hc
  constructor
  · simp [Form.Clean, Bin.a64, Un.a64, Src.a64, ShardOp.a64, Opd.clean_g, Opd.clean_imm, h, hc]
  · simp [Form.instr, workInstr, Bin.a64, Un.a64, Src.a64, ShardOp.a64, A64.bin, A64.un, A64.src, A64.shard, A64.sat, A64.tl, satCode_getElem]

theorem spanc : Statement (.spanc) := by
  refine of_form (.a64 0xDD { fn := 1 }) ([]) (true) rfl rfl rfl rfl rfl
    (fun h hc => ?_)
  simp [Bin.opds, Un.opds, MemOp.addr, ShardOp.opds] at h hc
  constructor
  · simp [Form.Clean, Bin.a64, Un.a64, Src.a64, ShardOp.a64, Opd.clean_g, Opd.clean_imm, h, hc]
  · simp [Form.instr, workInstr, Bin.a64, Un.a64, Src.a64, ShardOp.a64, A64.bin, A64.un, A64.src, A64.shard, A64.sat, A64.tl, satCode_getElem]

theorem gbar : Statement (.gbar) := by
  refine of_form (.a64 0xDE {}) ([]) (true) rfl rfl rfl rfl rfl
    (fun h hc => ?_)
  simp [Bin.opds, Un.opds, MemOp.addr, ShardOp.opds] at h hc
  constructor
  · simp [Form.Clean, Bin.a64, Un.a64, Src.a64, ShardOp.a64, Opd.clean_g, Opd.clean_imm, h, hc]
  · simp [Form.instr, workInstr, Bin.a64, Un.a64, Src.a64, ShardOp.a64, A64.bin, A64.un, A64.src, A64.shard, A64.sat, A64.tl, satCode_getElem]

theorem lcnt (d : Opd) (lvl : BitVec 16) : Statement (.lcnt d lvl) := by
  refine of_form (.a64 0xDF { d := d, a := .imm, imm := lvl }) ([(d, .gen)]) (true) rfl rfl rfl rfl rfl
    (fun h hc => ?_)
  simp [Bin.opds, Un.opds, MemOp.addr, ShardOp.opds] at h hc
  constructor
  · simp [Form.Clean, Bin.a64, Un.a64, Src.a64, ShardOp.a64, Opd.clean_g, Opd.clean_imm, h, hc]
  · simp [Form.instr, workInstr, Bin.a64, Un.a64, Src.a64, ShardOp.a64, A64.bin, A64.un, A64.src, A64.shard, A64.sat, A64.tl, satCode_getElem]

theorem cancel (lvl : BitVec 16) : Statement (.cancel lvl) := by
  refine of_form (.a64 0xDF { a := .imm, imm := lvl, fn := 1 }) ([]) (true) rfl rfl rfl rfl rfl
    (fun h hc => ?_)
  simp [Bin.opds, Un.opds, MemOp.addr, ShardOp.opds] at h hc
  constructor
  · simp [Form.Clean, Bin.a64, Un.a64, Src.a64, ShardOp.a64, Opd.clean_g, Opd.clean_imm, h, hc]
  · simp [Form.instr, workInstr, Bin.a64, Un.a64, Src.a64, ShardOp.a64, A64.bin, A64.un, A64.src, A64.shard, A64.sat, A64.tl, satCode_getElem]

theorem pchk (d : Opd) (a : Opd) (ta : Bool) : Statement (.pchk d a ta) := by
  refine of_form (.a64 0xE0 { d := d, a := a, ta := ta }) ([(d, .gx), (a, .gx)]) (takeOk a ta) rfl rfl rfl rfl rfl
    (fun h hc => ?_)
  simp [Bin.opds, Un.opds, MemOp.addr, ShardOp.opds] at h hc
  constructor
  · simp [Form.Clean, Bin.a64, Un.a64, Src.a64, ShardOp.a64, Opd.clean_g, Opd.clean_imm, h, hc]
  · simp [Form.instr, sysInstr, Bin.a64, Un.a64, Src.a64, ShardOp.a64, A64.bin, A64.un, A64.src, A64.shard, A64.sat, A64.tl, satCode_getElem]

theorem pclr (d : Opd) : Statement (.pclr d) := by
  refine of_form (.a64 0xE1 { d := d }) ([(d, .gx)]) (true) rfl rfl rfl rfl rfl
    (fun h hc => ?_)
  simp [Bin.opds, Un.opds, MemOp.addr, ShardOp.opds] at h hc
  constructor
  · simp [Form.Clean, Bin.a64, Un.a64, Src.a64, ShardOp.a64, Opd.clean_g, Opd.clean_imm, h, hc]
  · simp [Form.instr, sysInstr, Bin.a64, Un.a64, Src.a64, ShardOp.a64, A64.bin, A64.un, A64.src, A64.shard, A64.sat, A64.tl, satCode_getElem]

theorem pset (d : Opd) : Statement (.pset d) := by
  refine of_form (.a64 0xE2 { d := d }) ([(d, .gx)]) (true) rfl rfl rfl rfl rfl
    (fun h hc => ?_)
  simp [Bin.opds, Un.opds, MemOp.addr, ShardOp.opds] at h hc
  constructor
  · simp [Form.Clean, Bin.a64, Un.a64, Src.a64, ShardOp.a64, Opd.clean_g, Opd.clean_imm, h, hc]
  · simp [Form.instr, sysInstr, Bin.a64, Un.a64, Src.a64, ShardOp.a64, A64.bin, A64.un, A64.src, A64.shard, A64.sat, A64.tl, satCode_getElem]

theorem stc (sz : Sz) (sm : Sm) (pol : Policy) (m : MemOp) : Statement (.stc sz sm pol m) := by
  refine of_form (.m96 0xE3 (m.m96 sz.code sm.code pol.code)) ((m.v, .gx) :: m.addr) (m.ok sz sm && sm.stores) rfl rfl rfl rfl rfl
    (fun h hc => ?_)
  simp [Bin.opds, Un.opds, MemOp.addr, ShardOp.opds] at h hc
  constructor
  · simp [Form.Clean, MemOp.m96, Opd.clean_g, Opd.clean_imm, h, hc]
  · simp [Form.instr, memInstr, MemOp.m96, M96.memOp, M96.lo]

theorem sig (v : BitVec 24) : Statement (.sig v) := by
  refine of_form (.i96 0xE4 {} (v.setWidth 32)) ([]) (true) rfl rfl rfl rfl rfl
    (fun h hc => ?_)
  simp [Bin.opds, Un.opds, MemOp.addr, ShardOp.opds] at h hc
  constructor
  · simp [Form.Clean, Src.a64, PostOp.a64, Opd.clean_g, Opd.clean_imm, h, hc]
  · simp [Form.instr, longInstr, Src.a64, PostOp.a64, A64.src, A64.postOp]

theorem upret : Statement (.upret) := by
  refine of_form (.a64 0xE5 {}) ([]) (true) rfl rfl rfl rfl rfl
    (fun h hc => ?_)
  simp [Bin.opds, Un.opds, MemOp.addr, ShardOp.opds] at h hc
  constructor
  · simp [Form.Clean, Bin.a64, Un.a64, Src.a64, ShardOp.a64, Opd.clean_g, Opd.clean_imm, h, hc]
  · simp [Form.instr, sysInstr, Bin.a64, Un.a64, Src.a64, ShardOp.a64, A64.bin, A64.un, A64.src, A64.shard, A64.sat, A64.tl, satCode_getElem]

theorem upmask (o : Un) : Statement (.upmask o) := by
  refine of_form (.a64 0xE6 (o.a64)) ([(o.d, .gx), (o.a, .gxi)]) (takeOk o.a o.ta && (if o.a == .imm then o.imm.toNat ≤ 1 else o.imm == 0)) rfl rfl rfl rfl rfl
    (fun h hc => ?_)
  simp [Bin.opds, Un.opds, MemOp.addr, ShardOp.opds] at h hc
  constructor
  · simp [Form.Clean, Bin.a64, Un.a64, Src.a64, ShardOp.a64, Opd.clean_g, Opd.clean_imm, h, hc]
  · simp [Form.instr, sysInstr, Bin.a64, Un.a64, Src.a64, ShardOp.a64, A64.bin, A64.un, A64.src, A64.shard, A64.sat, A64.tl, satCode_getElem]

theorem trap (n : BitVec 5) : Statement (.trap n) := by
  refine of_form (.a64 0xF0 { imm := n.setWidth 16 }) ([]) (true) rfl rfl rfl rfl rfl
    (fun h hc => ?_)
  simp [Bin.opds, Un.opds, MemOp.addr, ShardOp.opds] at h hc
  constructor
  · simp [Form.Clean, Bin.a64, Un.a64, Src.a64, ShardOp.a64, Opd.clean_g, Opd.clean_imm, h, hc]
  · simp [Form.instr, sysInstr, Bin.a64, Un.a64, Src.a64, ShardOp.a64, A64.bin, A64.un, A64.src, A64.shard, A64.sat, A64.tl, satCode_getElem]

theorem tret : Statement (.tret) := by
  refine of_form (.a64 0xF1 {}) ([]) (true) rfl rfl rfl rfl rfl
    (fun h hc => ?_)
  simp [Bin.opds, Un.opds, MemOp.addr, ShardOp.opds] at h hc
  constructor
  · simp [Form.Clean, Bin.a64, Un.a64, Src.a64, ShardOp.a64, Opd.clean_g, Opd.clean_imm, h, hc]
  · simp [Form.instr, sysInstr, Bin.a64, Un.a64, Src.a64, ShardOp.a64, A64.bin, A64.un, A64.src, A64.shard, A64.sat, A64.tl, satCode_getElem]

theorem csrr (d : Opd) (n : BitVec 12) : Statement (.csrr d n) := by
  refine of_form (.a64 0xF2 { d := d, imm := n.setWidth 16 }) ([(d, .gx)]) (true) rfl rfl rfl rfl rfl
    (fun h hc => ?_)
  simp [Bin.opds, Un.opds, MemOp.addr, ShardOp.opds] at h hc
  constructor
  · simp [Form.Clean, Bin.a64, Un.a64, Src.a64, ShardOp.a64, Opd.clean_g, Opd.clean_imm, h, hc]
  · simp [Form.instr, sysInstr, Bin.a64, Un.a64, Src.a64, ShardOp.a64, A64.bin, A64.un, A64.src, A64.shard, A64.sat, A64.tl, satCode_getElem]

theorem csrw (a : Opd) (ta : Bool) (n : BitVec 12) : Statement (.csrw a ta n) := by
  refine of_form (.a64 0xF3 { a := a, ta := ta, imm := n.setWidth 16 }) ([(a, .gx)]) (a != .imm) rfl rfl rfl rfl rfl
    (fun h hc => ?_)
  simp [Bin.opds, Un.opds, MemOp.addr, ShardOp.opds] at h hc
  constructor
  · simp [Form.Clean, Bin.a64, Un.a64, Src.a64, ShardOp.a64, Opd.clean_g, Opd.clean_imm, h, hc]
  · simp [Form.instr, sysInstr, Bin.a64, Un.a64, Src.a64, ShardOp.a64, A64.bin, A64.un, A64.src, A64.shard, A64.sat, A64.tl, satCode_getElem]

theorem tinv (d : Opd) (a : Opd) (b : Opd) (scope : BitVec 2) : Statement (.tinv d a b scope) := by
  refine of_form (.a64 0xF4 { d := d, a := a, b := b, imm := scope.setWidth 16 }) ([(d, .gx), (a, .gx), (b, .gx)]) (a != .imm && b != .imm && scope != 3 && (scope == 0 || (a == .g 0 && b == .g 0)) && (scope != 2 || d == .g 0)) rfl rfl rfl rfl rfl
    (fun h hc => ?_)
  simp [Bin.opds, Un.opds, MemOp.addr, ShardOp.opds] at h hc
  constructor
  · simp [Form.Clean, Bin.a64, Un.a64, Src.a64, ShardOp.a64, Opd.clean_g, Opd.clean_imm, h, hc]
  · simp [Form.instr, sysInstr, Bin.a64, Un.a64, Src.a64, ShardOp.a64, A64.bin, A64.un, A64.src, A64.shard, A64.sat, A64.tl, satCode_getElem]

theorem tsync : Statement (.tsync) := by
  refine of_form (.a64 0xF5 {}) ([]) (true) rfl rfl rfl rfl rfl
    (fun h hc => ?_)
  simp [Bin.opds, Un.opds, MemOp.addr, ShardOp.opds] at h hc
  constructor
  · simp [Form.Clean, Bin.a64, Un.a64, Src.a64, ShardOp.a64, Opd.clean_g, Opd.clean_imm, h, hc]
  · simp [Form.instr, sysInstr, Bin.a64, Un.a64, Src.a64, ShardOp.a64, A64.bin, A64.un, A64.src, A64.shard, A64.sat, A64.tl, satCode_getElem]

theorem l2fl (mode : Bool) : Statement (.l2fl mode) := by
  refine of_form (.a64 0xF6 { imm := (BitVec.ofBool mode).setWidth 16 }) ([]) (true) rfl rfl rfl rfl rfl
    (fun h hc => ?_)
  simp [Bin.opds, Un.opds, MemOp.addr, ShardOp.opds] at h hc
  constructor
  · simp [Form.Clean, Bin.a64, Un.a64, Src.a64, ShardOp.a64, Opd.clean_g, Opd.clean_imm, h, hc]
  · simp [Form.instr, sysInstr, Bin.a64, Un.a64, Src.a64, ShardOp.a64, A64.bin, A64.un, A64.src, A64.shard, A64.sat, A64.tl, satCode_getElem]

theorem idle : Statement (.idle) := by
  refine of_form (.a64 0xF7 {}) ([]) (true) rfl rfl rfl rfl rfl
    (fun h hc => ?_)
  simp [Bin.opds, Un.opds, MemOp.addr, ShardOp.opds] at h hc
  constructor
  · simp [Form.Clean, Bin.a64, Un.a64, Src.a64, ShardOp.a64, Opd.clean_g, Opd.clean_imm, h, hc]
  · simp [Form.instr, sysInstr, Bin.a64, Un.a64, Src.a64, ShardOp.a64, A64.bin, A64.un, A64.src, A64.shard, A64.sat, A64.tl, satCode_getElem]

theorem fetchFault (k : FetchCause × HostAns) : Statement (.fetchFault k) := of_step rfl rfl

theorem decodeTrap (cause : Cause) (taddr : Word) : Statement (.decodeTrap cause taddr) := of_step rfl rfl

theorem trapEntry (cause : Cause) (tpc : Word) (taddr : Word) : Statement (.trapEntry cause tpc taddr) := of_step rfl rfl

theorem upcallEntry (cause : Cause) (upc : Word) (uarg : Word) : Statement (.upcallEntry cause upc uarg) := of_step rfl rfl

theorem noticeDelivery (core : Nat) (ctx : Nat) : Statement (.noticeDelivery core ctx) := of_step rfl rfl

theorem noticeArrival (i : Nat) : Statement (.noticeArrival i) := of_step rfl rfl

theorem noticeRetry (i : Nat) : Statement (.noticeRetry i) := of_step rfl rfl

theorem landingDelivery (i : Nat) : Statement (.landingDelivery i) := of_step rfl rfl

theorem landingRetry (i : Nat) : Statement (.landingRetry i) := of_step rfl rfl

theorem landingBounce (i : Nat) : Statement (.landingBounce i) := of_step rfl rfl

theorem sfuResult (core : Nat) : Statement (.sfuResult core) := of_step rfl rfl

theorem accessAccept (i : Nat) (ans : HostAns) : Statement (.accessAccept i ans) := of_step rfl rfl

theorem loadDataReturn (i : Nat) : Statement (.loadDataReturn i) := of_step rfl rfl

theorem accessPerform (i : Nat) : Statement (.accessPerform i) := of_step rfl rfl

theorem retryListWalk (word : Nat) : Statement (.retryListWalk word) := of_step rfl rfl

theorem requestRetry (i : Nat) : Statement (.requestRetry i) := of_step rfl rfl

theorem accessFailAtHome (i : Nat) : Statement (.accessFailAtHome i) := of_step rfl rfl

theorem smfrzDrain (core : Nat) (ctx : Nat) : Statement (.smfrzDrain core ctx) := of_step rfl rfl

theorem flagfWrite (i : Nat) (ans : HostAns) : Statement (.flagfWrite i ans) := of_step rfl rfl

theorem vectorChunk (core : Nat) : Statement (.vectorChunk core) := of_step rfl rfl

theorem matrixStep (core : Nat) : Statement (.matrixStep core) := of_step rfl rfl

theorem matrixGlobalRead (core : Nat) (ans : HostAns) : Statement (.matrixGlobalRead core ans) := of_step rfl rfl

theorem engineOpComplete (thread : Nat) (op : Nat) : Statement (.engineOpComplete thread op) := of_step rfl rfl

theorem engineAccess (thread : Nat) (op : Nat) (ans : HostAns) : Statement (.engineAccess thread op ans) := of_step rfl rfl

theorem collMatch (tag : Word) (order : List Nat × List (Nat × List (Byte × Bool))) : Statement (.collMatch tag order) := of_step rfl rfl

theorem tlnoteLand (thread : Nat) (op : Nat) : Statement (.tlnoteLand thread op) := of_step rfl rfl

theorem preemptRequest (core : Nat) (why : HaltWhy) : Statement (.preemptRequest core why) := of_step rfl rfl

theorem timeSliceExpiry (core : Nat) : Statement (.timeSliceExpiry core) := of_step rfl rfl

theorem spinDeschedule (core : Nat) : Statement (.spinDeschedule core) := of_step rfl rfl

theorem unitHalt (core : Nat) : Statement (.unitHalt core) := of_step rfl rfl

theorem unitSave (core : Nat) : Statement (.unitSave core) := of_step rfl rfl

theorem saveComplete (core : Nat) : Statement (.saveComplete core) := of_step rfl rfl

theorem restoreBegin (core : Nat) (thread : Nat) : Statement (.restoreBegin core thread) := of_step rfl rfl

theorem restoreComplete (core : Nat) : Statement (.restoreComplete core) := of_step rfl rfl

theorem unitDiscard (core : Nat) : Statement (.unitDiscard core) := of_step rfl rfl

theorem dispatchSelect (core : Nat) : Statement (.dispatchSelect core) := of_step rfl rfl

theorem unitBind (core : Nat) (thread : Nat) : Statement (.unitBind core thread) := of_step rfl rfl

theorem recordPlacement (r : Nat) : Statement (.recordPlacement r) := of_step rfl rfl

theorem groupBind (r : Nat) (cores : List Nat) (threads : List Nat) : Statement (.groupBind r cores threads) := of_step rfl rfl

theorem groupReserve (r : Nat) (cores : List Nat) : Statement (.groupReserve r cores) := of_step rfl rfl

theorem recordAgeing (r : Nat) : Statement (.recordAgeing r) := of_step rfl rfl

theorem recordEligible (r : Nat) : Statement (.recordEligible r) := of_step rfl rfl

theorem admitLaunchRecord (part : Nat) (ring : Nat × HostAns) : Statement (.admitLaunchRecord part ring) := of_step rfl rfl

theorem recordFrameRetry (core : Nat) (ctx : Nat) : Statement (.recordFrameRetry core ctx) := of_step rfl rfl

theorem unitEndRelease (thread : Nat) : Statement (.unitEndRelease thread) := of_step rfl rfl

theorem jobCompletion (job : Nat × HostAns) : Statement (.jobCompletion job) := of_step rfl rfl

theorem coreClockGate (core : Nat) : Statement (.coreClockGate core) := of_step rfl rfl

theorem islandWake (core : Nat) : Statement (.islandWake core) := of_step rfl rfl

theorem gbarComplete (launch : Nat) : Statement (.gbarComplete launch) := of_step rfl rfl

theorem gangRollback (launch : Nat) : Statement (.gangRollback launch) := of_step rfl rfl

theorem monitorFire (i : Nat) : Statement (.monitorFire i) := of_step rfl rfl

theorem invalidationComplete (thread : Nat) (ctx : Nat) : Statement (.invalidationComplete thread ctx) := of_step rfl rfl

theorem victimEvict (part : Nat) (frame : Nat) : Statement (.victimEvict part frame) := of_step rfl rfl

theorem victimRecall (part : Nat) : Statement (.victimRecall part) := of_step rfl rfl

theorem stageInstall (part : Nat) : Statement (.stageInstall part) := of_step rfl rfl

theorem stageUninstall (part : Nat) : Statement (.stageUninstall part) := of_step rfl rfl

theorem instanceStart (asid : Nat) (stage : Nat) (inst : Nat) (thread : Nat) : Statement (.instanceStart asid stage inst thread) := of_step rfl rfl

theorem governorSample (asid : Nat) (stage : Nat) : Statement (.governorSample asid stage) := of_step rfl rfl

theorem splitRoutineEntry (asid : Nat) (stage : Nat) (inst : Nat) : Statement (.splitRoutineEntry asid stage inst) := of_step rfl rfl

theorem twinStart (asid : Nat) (stage : Nat) (inst : Nat) (thread : Nat × HostAns) : Statement (.twinStart asid stage inst thread) := of_step rfl rfl

theorem brimMove (asid : Nat) (stage : Nat) (inst : Nat) (lane : Nat) : Statement (.brimMove asid stage inst lane) := of_step rfl rfl

theorem recordDelivery (asid : Nat) (stage : Nat) (inst : Nat) : Statement (.recordDelivery asid stage inst) := of_step rfl rfl

theorem twinQuiesce (asid : Nat) (stage : Nat) (inst : Nat × HostAns) : Statement (.twinQuiesce asid stage inst) := of_step rfl rfl

theorem mergeRoutineEntry (asid : Nat) (stage : Nat) (inst : Nat) : Statement (.mergeRoutineEntry asid stage inst) := of_step rfl rfl

theorem stageStop (asid : Nat) (stage : Nat) : Statement (.stageStop asid stage) := of_step rfl rfl

theorem gauntletRequest (i : Nat) : Statement (.gauntletRequest i) := of_step rfl rfl

theorem responseReceived (i : Nat) : Statement (.responseReceived i) := of_step rfl rfl

theorem functionLevelReset (part : Nat) : Statement (.functionLevelReset part) := of_step rfl rfl

theorem logEntryWrite (part : Nat) : Statement (.logEntryWrite part) := of_step rfl rfl

theorem packetReceive (port : Nat) (p : Packet) (fate : FlitFate × Nat) : Statement (.packetReceive port p fate) := of_step rfl rfl

theorem linkReplay (port : Nat) : Statement (.linkReplay port) := of_step rfl rfl

theorem linkDown (port : Nat) : Statement (.linkDown port) := of_step rfl rfl

theorem routeChange (gw : Nat) (peer : Nat) (v : Bool) (port : Nat) : Statement (.routeChange gw peer v port) := of_step rfl rfl

theorem peerFailed (peer : Nat) : Statement (.peerFailed peer) := of_step rfl rfl

theorem hostMemRead (addr : HostPlace) (len : Nat) : Statement (.hostMemRead addr len) := of_step rfl rfl

theorem hostMemWrite (addr : Nat) (bytes : List Byte) (poison : Bool) : Statement (.hostMemWrite addr bytes poison) := of_step rfl rfl

theorem hostLockedRmw (addr : Nat) (op : AOp) (v : Word) : Statement (.hostLockedRmw addr op v) := of_step rfl rfl

theorem hostSnoop (line : Nat × HostAct) : Statement (.hostSnoop line) := of_step rfl rfl

theorem aliasDataWrite (off : Nat) (v : Word) : Statement (.aliasDataWrite off v) := of_step rfl rfl

theorem aliasFullEmptyWrite (off : Nat) (v : Word) : Statement (.aliasFullEmptyWrite off v) := of_step rfl rfl

theorem notifyProdWrite (part : Nat) (ring : Nat) (v : BitVec 32) : Statement (.notifyProdWrite part ring v) := of_step rfl rfl

theorem notifyErrClear (part : Nat) (ring : Nat) : Statement (.notifyErrClear part ring) := of_step rfl rfl

theorem notifyReprioritise (part : Nat) (ring : Nat) (v : Word) : Statement (.notifyReprioritise part ring v) := of_step rfl rfl

theorem windowEnable (part : Nat) (w : Nat) : Statement (.windowEnable part w) := of_step rfl rfl

theorem windowDisable (part : Nat) (w : Nat) : Statement (.windowDisable part w) := of_step rfl rfl

theorem poisonReportClear (part : Nat) : Statement (.poisonReportClear part) := of_step rfl rfl

theorem bootstCommit : Statement (.bootstCommit) := of_step rfl rfl

theorem moduleCapWrite (v : Word) : Statement (.moduleCapWrite v) := of_step rfl rfl

theorem registerWrite (by_ : Writer) (r : RegName) (v : Word) : Statement (.registerWrite by_ r v) := of_step rfl rfl

theorem powerOnReset : Statement (.powerOnReset) := of_step rfl rfl

theorem bootStep (inp : BootIn) : Statement (.bootStep inp) := of_step rfl rfl

theorem treleveberRestart (digest : BootIn) : Statement (.treleveberRestart digest) := of_step rfl rfl

theorem spdmRequest (r : SpdmReq) : Statement (.spdmRequest r) := of_step rfl rfl

theorem dvfsChange (island : Nat) (p : OpPoint) : Statement (.dvfsChange island p) := of_step rfl rfl

theorem powerCapRegulate (draw : Nat × List (Nat × Nat)) : Statement (.powerCapRegulate draw) := of_step rfl rfl

theorem softError (loc : ErrLoc) (v : Word) : Statement (.softError loc v) := of_step rfl rfl

theorem deviceErrorReport (line : Nat) : Statement (.deviceErrorReport line) := of_step rfl rfl

theorem peerSetPresent (peer : Nat) : Statement (.peerSetPresent peer) := of_step rfl rfl

theorem carveOutChange (steps : Nat) : Statement (.carveOutChange steps) := of_step rfl rfl

theorem islandPowerGating (island : Nat) (off : Bool) : Statement (.islandPowerGating island off) := of_step rfl rfl

theorem policyFirmwareLoad (digest : Nat) : Statement (.policyFirmwareLoad digest) := of_step rfl rfl

theorem slotWrite (c : Nat) (gen : Nat) (v : Slot) : Statement (.slotWrite c gen v) := of_step rfl rfl

theorem clusterRemap (m : List (Nat × Nat)) : Statement (.clusterRemap m) := of_step rfl rfl

theorem tltEntryLost (t : Nat) : Statement (.tltEntryLost t) := of_step rfl rfl

theorem priResponse (part : Nat) (asid : Nat) (va : Word) (ans : PriAns) : Statement (.priResponse part asid va ans) := of_step rfl rfl

theorem atsInvalidation (part : Nat) (asid : Nat) (va : Word) (len : Word) : Statement (.atsInvalidation part asid va len) := of_step rfl rfl

theorem l2Fill (asid : Nat) (va : Word) (noise : List (Nat × Byte)) : Statement (.l2Fill asid va noise) := of_step rfl rfl

theorem l2Writeback (asid : Nat) (va : Word) (noise : List (Nat × Byte)) : Statement (.l2Writeback asid va noise) := of_step rfl rfl

theorem l2ModeChange (priv : Bool) : Statement (.l2ModeChange priv) := of_step rfl rfl

theorem viewLineAssemble (w : Nat) (n : Nat) : Statement (.viewLineAssemble w n) := of_step rfl rfl

theorem viewLineEvict (w : Nat) (n : Nat) : Statement (.viewLineEvict w n) := of_step rfl rfl

theorem victimMigrate (token : Nat) (frame : Nat) : Statement (.victimMigrate token frame) := of_step rfl rfl

end Sys2Proof.Laws.RoundTrip
end

