-- ==== Sys2Proof/Safety.lean ====
section
/-!
DEFINITION. What counts as a safe run: every memory of the machine keeps its canonical form, and no step stops. And what an instruction of one context
leaves alone, as the frames of the instructions say it.
-/
namespace Sys2Proof.Machine

/-- The device's memory, the host's, and every local store, of cores outside the cluster map too, are in canonical form. -/
def State.memOk (s : State) : Prop :=
  Memory.wf s.mem.bytes = true ∧ Memory.wf s.hostMem.bytes = true ∧ (∀ e ∈ s.cores, Memory.wf e.2.ls.bytes = true) ∧
  ∀ e ∈ s.spare, Memory.wf e.2.ls.bytes = true

/-- A step from s goes on. -/
def State.goesOn (s : State) : Prop := ∃ t, step s = .next t

/-! ## Frames -/

/-- The acting context waits before issue, for what its sources lack or for something else (R39). -/
def State.WaitsTo (s t : State) : Prop := (∃ w, t = s.waits w) ∨ ∃ imm srcs, t = s.awaits imm srcs

/-- What an instruction of the acting context leaves alone when it changes no memory: regs, xs and links say which general
registers of the context, which shadow registers and which receive buffers it may change. A landing held by the core for a
register that an instruction empties arrives there (R127), so registers that held landings name may change too. -/
structure Kept (s t : State) (regs : Nat → Prop) (xs : Nat → Prop) (links : Nat → Nat → Prop) : Prop where
  memories : t.mem = s.mem ∧ t.hostMem = s.hostMem ∧ t.frames = s.frames ∧ ∀ k, (t.coreAt k).ls = (s.coreAt k).ls
  rest : ∃ us cs th ns ps lh, t = { s with units := us, cores := cs, threads := th, notes := ns, ports := ps, linkHeld := lh }
  cores : ∀ k, ∃ b l, t.coreAt k = { s.coreAt k with lbuf := b, links := l }
  buffers : ∀ k d, ¬ links k d → t.linkBuf k d = s.linkBuf k d
  units : ∀ j, j ≠ s.th → t.unitAt j = s.unitAt j
  unit : ∃ xs c n l, t.unitAt s.th = { s.un with ctxs := xs, pmctl := c, pmcnt := n, lfsr := l }
  contexts : ∀ c, c ≠ s.ctx → ∃ g w, (t.unitAt s.th).ctxAt c = { s.un.ctxAt c with g := g, wait := w }
  context : ∃ pc g x w a, (t.unitAt s.th).ctxAt s.ctx = { s.cx with pc := pc, g := g, x := x, wait := w, assay := a }
  shadow : ∀ k, ¬ xs k → ((t.unitAt s.th).ctxAt s.ctx).xreg k = s.cx.xreg k
  general : ∀ c n, ¬ (c = s.ctx ∧ regs n) → (∀ l ∈ (s.coreAt s.core).lbuf, ¬ (mraCtx l.mra = c ∧ mraReg l.mra = n)) →
    ((t.unitAt s.th).ctxAt c).reg n = (s.un.ctxAt c).reg n

/-- The general registers that an instruction of sources srcs and destination d may change: d and the registers taken. -/
def scalarRegs (srcs : List SrcOp) (d : Option Opd) (n : Nat) : Prop :=
  ∃ m : BitVec 5, m.toNat = n ∧ (d = some (.g m) ∨ (.g m, true) ∈ srcs)

/-- The shadow register that it may change. -/
def scalarShadows (d : Option Opd) (k : Nat) : Prop := ∃ m : BitVec 3, m.toNat = k ∧ d = some (.x m)

/-- The receive buffers that it may change: those it pops, and the neighbour's that it sends to. -/
def scalarLinks (s : State) (srcs : List SrcOp) (d : Option Opd) (k e : Nat) : Prop :=
  ∃ m : BitVec 2, (k = s.core ∧ e = m.toNat ∧ ∃ b, (.link m, b) ∈ srcs) ∨
    (d = some (.link m) ∧ neighbour s.core m.toNat = some k ∧ e = (m.toNat + 2) % 4)

end Sys2Proof.Machine
end

