-- ==== Sys2Proof/Certificates/Slice0/Obligations.lean ====
section
/-!
DEFINITION. The statements made of the machine, for the provers; before each group, the words it uses.
-/
namespace Sys2Proof.Claims

end Sys2Proof.Claims

open Sys2Proof Sys2Proof.Machine Sys2Proof.Claims

/-! ## Vocabulary -/

/-- The acting context runs, every link it names is usable, every source has its value, and the result has room: the
instruction issues (R58, R59, R144). -/
def Sys2Proof.Claims.Ready (s : State) (imm : Word) (srcs : List SrcOp) (d : Option Opd) (vs : List Val) : Prop :=
  s.runs = true ∧ s.linksOk (srcs.map (·.1) ++ d.toList) = true ∧ s.srcVals imm [] srcs = some vs ∧
  d.all (s.room srcs) = true

/-- The state after an instruction that takes its sources, writes one result and retires in sequence; landings held for a
register that this has emptied then resolve (R127). -/
def Sys2Proof.Claims.after (s : State) (srcs : List SrcOp) (d : Opd) (v : Val) : State :=
  (((s.takeAll srcs).writeDst v d).retire).drain s.core

/-- Int(v, w, sg) of R146, with the width and signedness of a type (R149). -/
def Sys2Proof.Claims.num (ty : Ty) (v : Word) : Int :=
  if ty.signed then Int.bmod v.toNat (2 ^ tyWidth ty) else v.toNat % 2 ^ tyWidth ty

/-- Ext(r<w−1:0>, w, sg) of R146. -/
def Sys2Proof.Claims.put (ty : Ty) (r : Int) : Word :=
  BitVec.ofInt 64 (if ty.signed then Int.bmod r (2 ^ tyWidth ty) else r % 2 ^ tyWidth ty)

/-- Sat(TY, r): the nearest value of the type (R97). -/
def Sys2Proof.Claims.fit (ty : Ty) (sat : Bool) (r : Int) : Int :=
  if !sat then r
  else if ty.signed then max (-(2 ^ (tyWidth ty - 1))) (min (2 ^ (tyWidth ty - 1) - 1) r)
  else max 0 (min (2 ^ tyWidth ty - 1) r)

/-- The sources of a two-source instruction. -/
def Sys2Proof.Claims.two (o : Bin) : List SrcOp := [(o.a, o.ta), (o.b, o.tb)]

/-- R149, R150: the two-source integer instructions on every type and value. -/
def Sys2Proof.Claims.IntegerResults : Prop :=
  ∀ (s : State) (ty : Ty) (sat : Bool) (o : Bin) (a b : Val), ty.isInt = true →
    Ready s (sx16 o.imm) (two o) (some o.d) [a, b] →
    let x := num ty a.v
    let y := num ty b.v
    let done (r : Int) : State := after s (two o) o.d ⟨put ty r, a.p || b.p⟩
    exec (.iadd ty sat o) s = .next (done (fit ty sat (x + y))) ∧
    exec (.isub ty sat o) s = .next (done (fit ty sat (x - y))) ∧
    exec (.imul ty sat o) s = .next (done (fit ty sat (x * y))) ∧
    exec (.imulh ty o) s = .next (done (x * y / 2 ^ tyWidth ty)) ∧
    exec (.idiv ty o) s = .next (done (if y = 0 then -1 else x.tdiv y)) ∧
    exec (.irem ty o) s = .next (done (if y = 0 then x else x - y * x.tdiv y)) ∧
    exec (.imin ty o) s = .next (done (min x y)) ∧
    exec (.imax ty o) s = .next (done (max x y))

/-- R149, R150: the one-source integer instructions. Counts are given as the number of bit positions with the property. -/
def Sys2Proof.Claims.IntegerCounts : Prop :=
  ∀ (s : State) (ty : Ty) (sat : Bool) (o : Un) (a : Val), ty.isInt = true →
    Ready s (sx16 o.imm) [(o.a, o.ta)] (some o.d) [a] →
    let w := tyWidth ty
    let u := a.v.toNat % 2 ^ w
    let done (r : Int) : State := after s [(o.a, o.ta)] o.d ⟨put ty r, a.p⟩
    let count (f : Nat → Bool) : Int := ((List.range w).filter f).length
    exec (.iabs ty sat o) s = .next (done (fit ty sat ((num ty a.v).natAbs))) ∧
    exec (.clz ty o) s = .next (done (count (fun i => u < 2 ^ i))) ∧
    exec (.ctz ty o) s = .next (done (count (fun i => u % 2 ^ (i + 1) = 0))) ∧
    exec (.popc ty o) s = .next (done (count u.testBit)) ∧
    ∃ r : Nat, exec (.bswap ty o) s = .next (done r) ∧ r < 2 ^ w ∧
      ∀ i < w / 8, r / 256 ^ i % 256 = u / 256 ^ (w / 8 - 1 - i) % 256

/-- Both groups of rules above: `IntegerResults` and `IntegerCounts`. -/
def Obligations.IntegerArithmeticResults : Prop :=
  IntegerResults ∧ IntegerCounts


/-- R150, R151: logical instructions on all 64 bits, and the shifts on the low w bits. -/
def Obligations.LogicalAndShiftResults : Prop :=
  ∀ (s : State) (ty : Ty) (o : Bin) (a b : Val), ty.isInt = true →
    Ready s (sx16 o.imm) (two o) (some o.d) [a, b] →
    let w := tyWidth ty
    let x := num ty a.v
    let u := a.v.toNat % 2 ^ w
    let n := b.v.toNat % 64
    let write (v : Word) : State := after s (two o) o.d ⟨v, a.p || b.p⟩
    exec (.and o) s = .next (write (a.v &&& b.v)) ∧
    exec (.or o) s = .next (write (a.v ||| b.v)) ∧
    exec (.xor o) s = .next (write (a.v ^^^ b.v)) ∧
    exec (.andn o) s = .next (write (a.v &&& ~~~b.v)) ∧
    exec (.shl ty o) s = .next (write (put ty (if w ≤ n then 0 else x * 2 ^ n))) ∧
    exec (.shr ty o) s = .next (write (put ty (if w ≤ n then 0 else (u / 2 ^ n : Nat)))) ∧
    exec (.sra ty o) s = .next (write (put ty
      (if ty.signed then x / 2 ^ min n (w - 1) else if w ≤ n then 0 else (u / 2 ^ n : Nat)))) ∧
    exec (.rol ty o) s = .next (write (put ty ((BitVec.ofNat w u).rotateLeft (n % w)).toNat))

/-- R152, R153. The bit of the result of BFX and BFI at each position is given. -/
def Sys2Proof.Claims.FieldAndSelectResults : Prop :=
  ∀ (s : State) (ty : Ty) (cc : Cc) (o : Bin) (a b d : Val),
    let c := b.v.toNat
    let pos := c % 64
    let len := c / 64 % 128
    let bad := len = 0 ∨ 64 < pos + len
    let n := c % 128
    let trap201 : Out := .next (s.trap (cz 0x201) s.cx.pc b.v)
    (Ready s (sx16 o.imm) (two o) (some o.d) [a, b] →
      (¬ bad → ∃ r : Word, exec (.bfx o) s = .next (after s (two o) o.d ⟨r, a.p || b.p⟩) ∧
        ∀ i < 64, r.getLsbD i = (decide (i < len) && a.v.getLsbD (pos + i))) ∧
      (bad → exec (.bfx o) s = trap201) ∧
      (1 ≤ n → n ≤ 64 → exec (.iext o) s =
        .next (after s (two o) o.d ⟨BitVec.ofInt 64 (Int.bmod a.v.toNat (2 ^ n)), a.p || b.p⟩)) ∧
      (n = 0 ∨ 64 < n → exec (.iext o) s = trap201) ∧
      (ty.isInt = true → exec (.cmp cc ty o) s =
        .next (after s (two o) o.d ⟨if (match cc with
          | .eq => num ty a.v = num ty b.v
          | .ne => num ty a.v ≠ num ty b.v
          | .lt => num ty a.v < num ty b.v
          | .le => num ty a.v ≤ num ty b.v
          | .gt => num ty a.v > num ty b.v
          | .ge => num ty a.v ≥ num ty b.v
          | .ltu => a.v.toNat % 2 ^ tyWidth ty < b.v.toNat % 2 ^ tyWidth ty
          | .leu => a.v.toNat % 2 ^ tyWidth ty ≤ b.v.toNat % 2 ^ tyWidth ty
          | .gtu => a.v.toNat % 2 ^ tyWidth ty > b.v.toNat % 2 ^ tyWidth ty
          | .geu => a.v.toNat % 2 ^ tyWidth ty ≥ b.v.toNat % 2 ^ tyWidth ty : Bool) then 1 else 0, a.p || b.p⟩))) ∧
    (Ready s (sx16 o.imm) (two o ++ [(o.d, false)]) (some o.d) [a, b, d] →
      (¬ bad → ∃ r : Word,
        exec (.bfi o) s = .next (after s (two o ++ [(o.d, false)]) o.d ⟨r, d.p || a.p || b.p⟩) ∧
        ∀ i < 64, r.getLsbD i = if pos ≤ i ∧ i < pos + len then a.v.getLsbD (i - pos) else d.v.getLsbD i) ∧
      (bad → exec (.bfi o) s = trap201) ∧
      exec (.sel o) s = .next (after s (two o ++ [(o.d, false)]) o.d
        (if d.v ≠ 0 then ⟨a.v, d.p || a.p⟩ else ⟨b.v, d.p || b.p⟩)))

/-- R154 to R156, R61. -/
def Sys2Proof.Claims.ConstantAndAddressResults : Prop :=
  ∀ (s : State) (d : Opd) (i32 : BitVec 32) (i64 : BitVec 64) (o : Bin) (a b : Val),
    (Ready s 0 [] (some d) [] →
      exec (.ldi d i32) s = .next (after s [] d ⟨i32.signExtend 64, false⟩) ∧
      exec (.ldk d i64) s = .next (after s [] d ⟨i64, false⟩) ∧
      exec (.self d) s = .next (after s [] d
        ⟨BitVec.ofNat 64 (s.peer * 2 ^ 54 + s.th * 2 ^ 30 + s.un.key * 2 ^ 14), false⟩)) ∧
    (Ready s (sx16 o.imm) (two o) (some o.d) [a, b] →
      let sum := a.v + b.v * BitVec.ofNat 64 (2 ^ (if o.b = .imm then 0 else o.imm.toNat % 4))
      ((sum.extractLsb' 0 57).signExtend 64 = sum →
        exec (.adda o) s = .next (after s (two o) o.d ⟨sum, a.p || b.p⟩)) ∧
      ((sum.extractLsb' 0 57).signExtend 64 ≠ sum → exec (.adda o) s = .next (s.trap (cz 0x402) s.cx.pc sum)) ∧
      ∃ r : Word, exec (.mramk o) s = .next (after s (two o) o.d ⟨r, a.p || b.p⟩) ∧
        r.extractLsb' 14 50 = a.v.extractLsb' 14 50 ∧ r.extractLsb' 5 9 = b.v.extractLsb' 0 9 ∧
        r.extractLsb' 0 5 = 0)

/-- Both groups of rules above: `FieldAndSelectResults` and `ConstantAndAddressResults`. -/
def Obligations.FieldSelectAndConstantResults : Prop :=
  FieldAndSelectResults ∧ ConstantAndAddressResults



/-! ## Control flow, presence -/

/-- A branch target that may be taken: canonical, bits 1:0 zero (R165, R173). -/
def Sys2Proof.Claims.Target (t : Word) : Prop := (t.extractLsb' 0 57).signExtend 64 = t ∧ t.extractLsb' 0 2 = 0

/-- The state after a control instruction that has taken its sources and goes to p, ending an assay segment (R286). -/
def Sys2Proof.Claims.jumped (s : State) (srcs : List SrcOp) (p : Word) : State := ((s.takeAll srcs).retireEnd p).drain s.core

/-- R164, R165, R167: the branches and NOP. -/
def Sys2Proof.Claims.BranchesGoWhereTheirConditionSays : Prop :=
  ∀ (s : State) (off : BitVec 32) (off16 : BitVec 16) (o : Src) (cc : Cc) (ty : Ty) (a b : Opd) (ta tb : Bool)
    (v w : Val),
    let pc := s.cx.pc
    let t := pc + off.signExtend 64 * 4
    let tc := pc + off16.signExtend 64 * 4
    let next := pc + BitVec.ofNat 64 s.len
    let bad (x : Word) : Out := .next (s.trap (cz 0x401) pc x)
    let poisoned : Out := .next (s.consume (cz 0xA01) pc)
    (Ready s 0 [] none [] →
      exec .nop s = .next (s.retire.drain s.core) ∧
      (Target t → exec (.br off) s = .next (jumped s [] t)) ∧
      (¬ Target t → exec (.br off) s = bad t)) ∧
    (Ready s (sx16 o.imm) [(o.a, o.ta)] none [v] →
      (v.p = true → exec (.bz o off) s = poisoned ∧ exec (.bnz o off) s = poisoned) ∧
      (v.p = false → v.v = 0 → exec (.bnz o off) s = .next (jumped s [(o.a, o.ta)] next) ∧
        (Target t → exec (.bz o off) s = .next (jumped s [(o.a, o.ta)] t)) ∧
        (¬ Target t → exec (.bz o off) s = bad t)) ∧
      (v.p = false → v.v ≠ 0 → exec (.bz o off) s = .next (jumped s [(o.a, o.ta)] next) ∧
        (Target t → exec (.bnz o off) s = .next (jumped s [(o.a, o.ta)] t)) ∧
        (¬ Target t → exec (.bnz o off) s = bad t))) ∧
    (Ready s 0 [(a, ta), (b, tb)] none [v, w] →
      let holds := intCond cc (tyWidth ty) ty.signed v.v.toNat w.v.toNat
      ((v.p || w.p) = true → exec (.bcmp cc ty a ta b tb off16) s = poisoned) ∧
      ((v.p || w.p) = false → holds = false →
        exec (.bcmp cc ty a ta b tb off16) s = .next (jumped s [(a, ta), (b, tb)] next)) ∧
      ((v.p || w.p) = false → holds = true → Target tc →
        exec (.bcmp cc ty a ta b tb off16) s = .next (jumped s [(a, ta), (b, tb)] tc)) ∧
      ((v.p || w.p) = false → holds = true → ¬ Target tc → exec (.bcmp cc ty a ta b tb off16) s = bad tc)) ∧
    (Ready s 0 [(a, ta)] none [v] →
      (v.p = true → exec (.jmp a ta) s = poisoned) ∧
      (v.p = false → Target v.v → exec (.jmp a ta) s = .next (jumped s [(a, ta)] v.v)) ∧
      (v.p = false → ¬ Target v.v → exec (.jmp a ta) s = bad v.v))

/-- R164 to R166: CALL and LOOP. -/
def Sys2Proof.Claims.CallAndLoopResults : Prop :=
  ∀ (s : State) (d a : Opd) (off : BitVec 32) (v : Val),
    let pc := s.cx.pc
    let t := pc + off.signExtend 64 * 4
    let next := pc + BitVec.ofNat 64 s.len
    (Ready s 0 [(a, false)] (some d) [v] →
      let tgt := if a = .imm then t else v.v
      (v.p = true → exec (.call d a off) s = .next (s.consume (cz 0xA01) pc)) ∧
      (v.p = false → Target tgt → exec (.call d a off) s =
        .next ((((s.takeAll [(a, false)]).writeDst ⟨pc + 12, false⟩ d).retireEnd tgt).drain s.core)) ∧
      (v.p = false → ¬ Target tgt → exec (.call d a off) s = .next (s.trap (cz 0x401) pc tgt))) ∧
    (Ready s 0 [(d, false)] (some d) [v] →
      let down (p : Word) : Out :=
        .next ((((s.takeAll [(d, false)]).writeDst ⟨v.v - 1, false⟩ d).retireEnd p).drain s.core)
      (v.p = true → exec (.loop d off) s = .next (s.consume (cz 0xA01) pc)) ∧
      (v.p = false → v.v = 0 → exec (.loop d off) s = .next (jumped s [(d, false)] next)) ∧
      (v.p = false → v.v = 1 → exec (.loop d off) s = down next) ∧
      (v.p = false → v.v ≠ 0 → v.v ≠ 1 → Target t → exec (.loop d off) s = down t) ∧
      (v.p = false → v.v ≠ 0 → v.v ≠ 1 → ¬ Target t → exec (.loop d off) s = .next (s.trap (cz 0x401) pc t)))

/-- Both groups of rules above: `BranchesGoWhereTheirConditionSays` and `CallAndLoopResults`. -/
def Obligations.ControlFlowResults : Prop :=
  BranchesGoWhereTheirConditionSays ∧ CallAndLoopResults


/-- The state after a presence instruction that leaves register n as r (g0 keeps its value) and retires. -/
def Sys2Proof.Claims.presence (s : State) (n : BitVec 5) (r : GReg) : State := ((s.setCx (s.cx.setReg n.toNat r)).retire).drain s.core

/-- R168, R130: the presence and queue instructions. -/
def Obligations.PresenceInstructionResults : Prop :=
  ∀ (s : State) (n : BitVec 5) (d a : Opd) (ta : Bool) (i16 : BitVec 16) (v : Val),
    let r := s.cx.reg n.toNat
    let held := s.heldFor n.toNat
    let pc := s.cx.pc
    (Ready s 0 [] none [] →
      (r.depth = 0 → exec (.empty (.g n)) s = .next (presence s n { r with f := false, p := false })) ∧
      (r.depth ≠ 0 → exec (.empty (.g n)) s = .next (presence s n { r with q := r.q.drop 1 })) ∧
      (r.depth = 0 → exec (.markf (.g n)) s = .next (presence s n { r with f := true })) ∧
      (r.depth ≠ 0 → exec (.markf (.g n)) s = .next (s.trap (cz 0x106) pc pc)) ∧
      exec (.qrst (.g n)) s = .next (presence s n { r with f := false, p := false, q := [] })) ∧
    (Ready s 0 [(.g n, ta)] none [v] →
      exec (.waitf (.g n) ta) s = .next ((s.takeAll [(.g n, ta)]).retire.drain s.core)) ∧
    (Ready s 0 [] (some d) [] →
      exec (.probe d (.g n)) s = .next (after s [] d ⟨BitVec.ofNat 64
        ((if (if r.depth = 0 then r.f else !r.q.isEmpty) then 1 else 0) +
         (if (if r.depth = 0 then r.f && r.p else (r.q.head?.map (·.p)).getD false) then 2 else 0) +
         (if r.depth = 0 then 0 else 4) + (if held = 0 then 0 else 8)), false⟩) ∧
      exec (.qocc d (.g n)) s = .next (after s [] d ⟨BitVec.ofNat 64
        ((if r.depth = 0 then if r.f then 1 else 0 else r.q.length) + 2 ^ 8 * r.depth +
         (if r.depth = 0 then 0 else 2 ^ 13) + 2 ^ 16 * held), false⟩)) ∧
    (Ready s (sx16 i16) [(a, false)] none [v] →
      let k := v.v.toNat
      let pool := s.un.drawn - r.depth + k
      let set : Out := .next ((((s.takeAll [(a, false)]).setCx ((s.takeAll [(a, false)]).cx.setReg n.toNat
        { (s.takeAll [(a, false)]).cx.reg n.toNat with f := false, p := false, depth := k, q := [] })).retire).drain s.core)
      (n ≠ 0 → 16 < k → exec (.qcfg (.g n) a i16) s = .next (s.trap (cz 0x105) pc v.v)) ∧
      (n ≠ 0 → k ≤ 16 → 256 < pool → exec (.qcfg (.g n) a i16) s = .next (s.trap (cz 0x104) pc pc)) ∧
      (k ≤ 16 → pool ≤ 256 → exec (.qcfg (.g n) a i16) s = set) ∧
      (n = 0 → exec (.qcfg (.g n) a i16) s = set))


/-! ## Floats, conversions, the SFU -/

/-- The exact value of an operand under a float type (R98 to R103). -/
def Sys2Proof.Claims.val (ty : Ty) (v : Val) : FV := decodeNum ty v.v.toNat

/-- The state after an instruction that takes its sources, writes one result, leaves the LFSR at l and retires. -/
def Sys2Proof.Claims.afterDraw (s : State) (srcs : List SrcOp) (d : Opd) (v : Val) (l : BitVec 32) : State :=
  ((((s.takeAll srcs).writeDst v d).setLfsr l).retire).drain s.core

/-- The smaller of two values, with −0 < +0; one NaN gives the other operand (R158). -/
def Sys2Proof.Claims.lesser (x y : FV) : FV :=
  if x = .nan then y else if y = .nan then x else if x.lt y || (!y.lt x && x.isNeg) then x else y

/-- The larger of two values, with −0 < +0; one NaN gives the other operand (R158). -/
def Sys2Proof.Claims.greater (x y : FV) : FV :=
  if x = .nan then y else if y = .nan then x else if x.lt y || (!y.lt x && x.isNeg) then y else x

/-- R157, R113, R114: the float arithmetic instructions. An immediate is read as R157 says (fImm). -/
def Sys2Proof.Claims.FloatArithmeticResults : Prop :=
  ∀ (s : State) (ty : Ty) (md : Md) (o : Bin) (a b c : Val), (md.rm = .sto → s.drawBusy = false) →
    let lfsr := s.un.lfsr
    let code (x : FV) : Nat := roundNum ty md (if md.rm = .sto then (lfsrDraw lfsr).2 else 0) x
    let left : BitVec 32 := if md.rm = .sto then (lfsrDraw lfsr).1 else lfsr
    let rdn := md.rm == .rdn
    (Ready s (fImm ty o.imm) (two o) (some o.d) [a, b] →
      let done (x : FV) : Out := .next (afterDraw s (two o) o.d ⟨BitVec.ofNat 64 (code x), a.p || b.p⟩ left)
      exec (.fadd ty md o) s = done ((val ty a).add rdn (val ty b)) ∧
      exec (.fsub ty md o) s = done ((val ty a).add rdn (val ty b).neg) ∧
      exec (.fmul ty md o) s = done ((val ty a).mul (val ty b))) ∧
    (Ready s (fImm ty o.imm) (two o ++ [(o.d, false)]) (some o.d) [a, b, c] →
      exec (.ffma ty md o) s = .next (afterDraw s (two o ++ [(o.d, false)]) o.d
        ⟨BitVec.ofNat 64 (code (((val ty a).mul (val ty b)).add rdn (val ty c))), a.p || b.p || c.p⟩ left))

/-- R158. -/
def Sys2Proof.Claims.FloatSelectionResults : Prop :=
  ∀ (s : State) (ty : Ty) (cc : Cc) (o : Bin) (u : Un) (a b : Val),
    let code (x : FV) : Word := BitVec.ofNat 64 (roundNum ty ⟨.rne, false⟩ 0 x)
    (Ready s (fImm ty o.imm) (two o) (some o.d) [a, b] →
      let x := val ty a
      let y := val ty b
      let write (v : Word) : Out := .next (after s (two o) o.d ⟨v, a.p || b.p⟩)
      exec (.fmin ty o) s = write (code (lesser x y)) ∧
      exec (.fmax ty o) s = write (code (greater x y)) ∧
      (x = .nan ∨ y = .nan → cc = .ne → exec (.fcmp cc ty o) s = write 1) ∧
      (x = .nan ∨ y = .nan → cc ≠ .ne → exec (.fcmp cc ty o) s = write 0) ∧
      (x ≠ .nan → y ≠ .nan →
        let holds : Bool := match cc with
          | .eq => !x.lt y && !y.lt x
          | .ne => x.lt y || y.lt x
          | .lt => x.lt y
          | .le => x.lt y || !y.lt x
          | .gt => y.lt x
          | .ge => y.lt x || !x.lt y
          | .ltu => false | .leu => false | .gtu => false | .geu => false
        exec (.fcmp cc ty o) s = write (if holds then 1 else 0))) ∧
    (Ready s (sx16 u.imm) [(u.a, u.ta)] (some u.d) [a] →
      let write (v : Word) : Out := .next (after s [(u.a, u.ta)] u.d ⟨v, a.p⟩)
      exec (.fabs ty u) s = write (code (val ty a).abs) ∧
      exec (.fneg ty u) s = write (code (val ty a).neg) ∧
      exec (.fclass ty u) s = write (BitVec.ofNat 64 (classMask ty a.v.toNat)))

/-- Both groups of rules above: `FloatArithmeticResults` and `FloatSelectionResults`. -/
def Obligations.FloatResults : Prop :=
  FloatArithmeticResults ∧ FloatSelectionResults


/-- R159, R162, R163. -/
def Obligations.ConversionResults : Prop :=
  ∀ (s : State) (dty sty ty : Ty) (md : Md) (form : PackForm) (o : Bin) (d x : Opd) (tx : Bool) (a b : Val),
    (Ready s (sty.code.zeroExtend 64) [(x, tx)] (some d) [a] →
      (dty.isInt = true → sty.isInt = true → exec (.fcvt dty sty md d x tx) s =
        .next (afterDraw s [(x, tx)] d ⟨put dty (fit dty true (num sty a.v)), a.p⟩ s.un.lfsr)) ∧
      ((dty.isInt && sty.isInt) = false → (md.rm = .sto → s.drawBusy = false) →
        let r := roundDraw dty md s.un.lfsr (val sty a)
        exec (.fcvt dty sty md d x tx) s = .next (afterDraw s [(x, tx)] d
          ⟨if dty.isInt then put dty r.2 else BitVec.ofNat 64 r.2, a.p⟩ r.1))) ∧
    (Ready s (sx16 o.imm) (two o) (some o.d) [a, b] →
      ((md.rm = .sto → s.drawBusy = false) →
        let r := packAll form ty md s.un.lfsr a.v b.v
        exec (.cvp form ty md o) s =
          .next (afterDraw s (two o) o.d ⟨BitVec.ofNat 64 r.2, a.p || b.p⟩ r.1)) ∧
      let lanes := if ty = .t6 then 10 else 64 / tyWidth ty
      let n := b.v.toNat
      let code := a.v.toNat / 2 ^ (n * tyWidth ty) % 2 ^ tyWidth ty
      let entry := s.un.l4At code
      (b.p = true → exec (.cvu ty o) s = .next (s.consume (cz 0xA02) s.cx.pc)) ∧
      (b.p = false → lanes ≤ n → exec (.cvu ty o) s = .next (s.trap (cz 0x201) s.cx.pc b.v)) ∧
      (b.p = false → n < lanes → ty ≠ .l4 → exec (.cvu ty o) s = .next (after s (two o) o.d
        ⟨BitVec.ofNat 64 (roundNum .f32 ⟨.rne, false⟩ 0 (decodeNum ty code)), a.p⟩)) ∧
      (b.p = false → n < lanes → ty = .l4 → exec (.cvu ty o) s = .next (after s (two o) o.d
        ⟨BitVec.ofNat 64 (roundNum .f32 ⟨.rne, false⟩ 0 (decodeNum .i8 entry.v.toNat)), a.p || entry.p⟩)))

/-- The state after an SFU instruction: its operand taken, the LFSR left at l, its request at the end of the core's queue,
counted by R394, retired. -/
def Sys2Proof.Claims.sfuEntered (s : State) (srcs : List SrcOp) (q : SfuReq) (l : BitVec 32) : State :=
  let t := (s.takeAll srcs).setLfsr l
  let t := t.modCore s.core (fun c => { c with sfu := c.sfu ++ [q] })
  let t := { t with nextReq := s.nextReq + 1 }
  ((t.pm s.th 10 s.cx.priv).retire).drain s.core

/-- R160, R161. -/
def Obligations.SfuInstructionsEnterTheQueue : Prop :=
  ∀ (s : State) (ty : Ty) (md : Md) (o : Un) (n : BitVec 5) (a : Val), o.d = .g n →
    let len := (s.coreAt s.core).sfu.length
    let entered (fn : SfuFn) : Out :=
      let r := sfuDraw fn ty md s.un.lfsr (val ty a)
      .next (sfuEntered s [(o.a, o.ta)] ⟨s.th, s.un.key, s.ctx, n.toNat, fn, ty, md, a, r.2, s.nextReq, false⟩ r.1)
    let each (f : SfuFn → Out) : Prop :=
      exec (.fexp2 ty md o) s = f .exp2 ∧ exec (.flog2 ty md o) s = f .log2 ∧ exec (.frcp ty md o) s = f .rcp ∧
      exec (.frsq ty md o) s = f .rsq ∧ exec (.fsqrt ty md o) s = f .sqrt ∧ exec (.fsin ty md o) s = f .sin ∧
      exec (.fcos ty md o) s = f .cos ∧ exec (.ftanh ty md o) s = f .tanh
    (len < 8 → (md.rm = .sto → s.drawBusy = false) → Ready s (sx16 o.imm) [(o.a, o.ta)] none [a] → each entered) ∧
    (8 ≤ len → s.runs = true → each (fun _ => .next (s.waits .sfu)))


/-! ## Operands, waiting and frames of the scalar family -/

/-- The scalar instructions that read sources and write one result, as the immediate that code 63 reads, the sources in
order, and the destination (R144 to R147). -/
def Sys2Proof.Claims.scalarForm : Instr → Option (Word × List SrcOp × Opd)
  | .iadd _ _ o | .isub _ _ o | .imul _ _ o | .imulh _ o | .idiv _ o | .irem _ o | .imin _ o | .imax _ o | .and o
  | .or o | .xor o | .andn o | .shl _ o | .shr _ o | .sra _ o | .rol _ o | .bfx o | .iext o | .cmp _ _ o | .adda o
  | .mramk o | .cvp _ _ _ o | .cvu _ o => some (sx16 o.imm, two o, o.d)
  | .bfi o | .sel o => some (sx16 o.imm, two o ++ [(o.d, false)], o.d)
  | .iabs _ _ o | .clz _ o | .ctz _ o | .popc _ o | .bswap _ o => some (sx16 o.imm, [(o.a, o.ta)], o.d)
  | .fadd ty _ o | .fsub ty _ o | .fmul ty _ o | .fmin ty o | .fmax ty o | .fcmp _ ty o =>
    some (fImm ty o.imm, two o, o.d)
  | .ffma ty _ o => some (fImm ty o.imm, two o ++ [(o.d, false)], o.d)
  | .fabs _ o | .fneg _ o | .fclass _ o => some (sx16 o.imm, [(o.a, o.ta)], o.d)
  | .fcvt _ sty _ d a ta => some (sty.code.zeroExtend 64, [(a, ta)], d)
  | .ldi d _ | .ldk d _ | .self d | .probe d _ | .qocc d _ => some (0, [], d)
  | _ => none

/-- The scalar instructions that draw from the LFSR (R114). An integer-to-integer conversion rounds nothing. -/
def Sys2Proof.Claims.scalarDraws : Instr → Bool
  | .fadd _ md _ | .fsub _ md _ | .fmul _ md _ | .ffma _ md _ | .cvp _ _ md _ => md.rm == .sto
  | .fcvt dty sty md _ _ _ => md.rm == .sto && !(dty.isInt && sty.isInt)
  | _ => false

/-- R46, R47, R58, R59, R114: why a scalar instruction does not issue. That D09 waits for the other operands, and that it comes before every
other cause, are the model's choice (DEDUCED, log 85). -/
def Obligations.ScalarInstructionsWaitForTheirOperands : Prop :=
  ∀ (i : Instr) (imm : Word) (srcs : List SrcOp) (d : Opd) (s : State), scalarForm i = some (imm, srcs, d) →
    s.runs = true →
    (scalarDraws i = true → s.drawBusy = true → exec i s = .next (s.waits .unitIdle)) ∧
    ((scalarDraws i = true → s.drawBusy = false) →
      (s.linksOk (srcs.map (·.1) ++ [d]) = true →
        (s.srcVals imm [] srcs = none → exec i s = .next (s.awaits imm srcs)) ∧
        (s.srcVals imm [] srcs ≠ none → s.room srcs d = false → exec i s = .next (s.waits .link))) ∧
      (s.linksOk (srcs.map (·.1) ++ [d]) = false →
        let left := s.usable srcs
        let full := s.linksOk [d] && !s.room srcs d
        (s.srcVals imm [] left = none → exec i s = .next (s.awaits imm left)) ∧
        (s.srcVals imm [] left ≠ none → full = true → exec i s = .next (s.waits .link)) ∧
        (s.srcVals imm [] left ≠ none → full = false →
          exec i s = .next (s.trap (cz 0xD09) s.cx.pc s.cx.pc))))

/-- R8, R58, R59, R125, R129, R134, R146: what an operand gives, and what taking and writing leave. -/
def Sys2Proof.Claims.OperandsReadTakeAndWrite : Prop :=
  ∀ (s : State) (imm : Word) (n : BitVec 5) (k : BitVec 3) (take : Bool) (v : Val),
    let r := s.cx.reg n.toNat
    (s.srcVal imm [] (.g 0, take) = some .zero ∧ (s.takeSrc (.g 0, true)).cx.reg 0 = ⟨0, true, false, 0, []⟩ ∧
      (s.writeDst v (.g 0)).cx.reg 0 = ⟨0, true, false, 0, []⟩) ∧
    (n ≠ 0 → r.depth = 0 → r.f = true → s.srcVal imm [] (.g n, take) = some ⟨r.v, r.p⟩) ∧
    (n ≠ 0 → r.depth = 0 → r.f = false → s.srcVal imm [] (.g n, take) = none) ∧
    (n ≠ 0 → r.depth ≠ 0 → s.srcVal imm [] (.g n, take) = r.q.head?) ∧
    s.takeSrc (.g n, false) = s ∧
    (n ≠ 0 → (s.takeSrc (.g n, true)).cx.reg n.toNat =
      if r.depth = 0 then { r with f := false, p := false } else { r with q := r.q.drop 1 }) ∧
    (n ≠ 0 → (s.writeDst v (.g n)).cx.reg n.toNat =
      if r.depth = 0 then { r with v := v.v, p := v.p, f := true } else { r with q := r.q ++ [v] }) ∧
    (s.room [] (.g n) = true ↔ n = 0 ∨ r.depth = 0 ∨ r.q.length < r.depth) ∧
    s.srcVal imm [] (.x k, take) = some (s.cx.xreg k.toNat) ∧
    s.takeSrc (.x k, take) = s ∧ (s.writeDst v (.x k)).cx.xreg k.toNat = v ∧ s.room [] (.x k) = true ∧
    s.srcVal imm [] (.imm, take) = some ⟨imm, false⟩ ∧
    ∀ m, m ≠ n.toNat → (s.takeSrc (.g n, true)).cx.reg m = s.cx.reg m ∧ (s.writeDst v (.g n)).cx.reg m = s.cx.reg m

/-- R11, R46, R133: the four links of a core. -/
def Sys2Proof.Claims.MeshLinksJoinNeighbours : Prop :=
  (∀ k, neighbour k 0 = (if k % 64 / 8 = 0 then none else some (k - 8)) ∧
    neighbour k 1 = (if k % 8 = 7 then none else some (k + 1)) ∧
    neighbour k 2 = (if k % 64 / 8 = 7 then none else some (k + 8)) ∧
    neighbour k 3 = (if k % 8 = 0 then none else some (k - 1))) ∧
  ∀ (s : State) (imm : Word) (d : BitVec 2) (take : Bool) (v : Val),
    let b := s.linkBuf s.core d.toNat
    s.srcVal imm [] (.link d, take) = b.head? ∧
    (s.takeSrc (.link d, take)).linkBuf s.core d.toNat = b.drop 1 ∧
    ∀ k, neighbour s.core d.toNat = some k →
      let e := (d.toNat + 2) % 4
      (s.room [] (.link d) = true ↔ (s.linkBuf k e).length < 2) ∧
      (s.writeDst v (.link d)).linkBuf k e = s.linkBuf k e ++ [v] ∧
      (∀ j c, ¬ (j = k ∧ c = e) → (s.writeDst v (.link d)).linkBuf j c = s.linkBuf j c)

/-- Both groups of rules above: `OperandsReadTakeAndWrite` and `MeshLinksJoinNeighbours`. -/
def Obligations.OperandsAndMeshLinks : Prop :=
  OperandsReadTakeAndWrite ∧ MeshLinksJoinNeighbours


/-- The frame of the scalar family. -/
def Obligations.ScalarFrame : Prop :=
  ∀ (i : Instr) (imm : Word) (srcs : List SrcOp) (d : Opd) (s t : State), scalarForm i = some (imm, srcs, d) →
    exec i s = .next t →
    (∃ c a, t = s.trap c s.cx.pc a) ∨ (∃ c a, t = s.consume c a) ∨ s.WaitsTo t ∨
    Kept s t (scalarRegs srcs (some d)) (scalarShadows (some d)) (scalarLinks s srcs (some d)) ∧
      ((t.unitAt s.th).ctxAt s.ctx).pc = s.nextPc ∧ (scalarDraws i = false → (t.unitAt s.th).lfsr = s.un.lfsr)

/-- The control and presence instructions, as the sources they take, the destination they write, the registers they change
in place, and whether they end an assay segment. -/
def Sys2Proof.Claims.controlForm : Instr → Option (List SrcOp × Option Opd)
  | .br _ | .nop => some ([], none)
  | .bz o _ | .bnz o _ => some ([(o.a, o.ta)], none)
  | .bcmp _ _ a ta b tb _ => some ([(a, ta), (b, tb)], none)
  | .jmp a ta | .waitf a ta => some ([(a, ta)], none)
  | .call d a _ => some ([(a, false)], some d)
  | .loop d _ => some ([(d, false)], some d)
  | .empty d | .markf d | .qrst d => some ([], some d)
  | .qcfg d a _ => some ([(a, false)], some d)
  | _ => none

/-- The frame of control flow and presence; a branch that ends a segment whose signature is wrong raises a signature fault (R286). -/
def Obligations.ControlFrame : Prop :=
  ∀ (i : Instr) (srcs : List SrcOp) (d : Option Opd) (s t : State), controlForm i = some (srcs, d) →
    exec i s = .next t →
    (∃ c a, t = s.trap c s.cx.pc a) ∨ (∃ c a, t = s.consume c a) ∨ s.WaitsTo t ∨
    (Kept s t (scalarRegs srcs d) (scalarShadows d) (scalarLinks s srcs d) ∧ (t.unitAt s.th).lfsr = s.un.lfsr) ∨
    let a := s.cx.assay.feed s.ir
    s.cx.assay.armed = true ∧ a.c ≠ a.e ∧ ∃ u, t = (u.sigFault u.cx.pc s.cx.pc).drain s.core ∧
      Kept s u (scalarRegs srcs d) (scalarShadows d) (scalarLinks s srcs d) ∧ (u.unitAt s.th).lfsr = s.un.lfsr


/-! ## Memory instructions -/

/-- A memory instruction of the acting context issues: no access in a sync mode holds the context, no accepted access of it
still has to be performed, and its operands have values (R175, R179, R307). -/
def Sys2Proof.Claims.MemReady (s : State) (imm : Word) (srcs : List SrcOp) (vs : List Val) : Prop :=
  s.runs = true ∧ s.cx.hold = false ∧ s.owes = false ∧ s.srcVals imm [] srcs = some vs

/-- A global address that an access of n bytes may use: canonical, aligned, and not in a compute span (R45, R173, R174). -/
def Sys2Proof.Claims.GlobalOk (s : State) (ea : Word) (n : Nat) : Prop :=
  canonical ea = true ∧ ea.toNat % n = 0 ∧ (s.un.phased && !s.un.exchange) = false

/-- An MRA that is sent: clean, bits 4:0 zero, its chip reachable (R132). -/
def Sys2Proof.Claims.MraOk (s : State) (m : Val) : Prop :=
  m.p = false ∧ m.v.toNat % 32 = 0 ∧ s.peerFault s.un.part (mraChip m.v) = none

/-- The state after an access has been issued and waits for its acceptance; held landings then resolve. -/
def Sys2Proof.Claims.issued (s : State) (r : Req) (srcs : List SrcOp) : State := (s.issueReq r srcs).drain s.core

/-- The operands of a memory instruction with an address and V. -/
def Sys2Proof.Claims.memSrcs (m : MemOp) : List SrcOp := [(m.base, false), (m.index, false), (m.v, m.tv)]

/-- R173 to R175, R181, R183, R186 to R188, R192, R284: issue of an access to global memory. -/
def Obligations.GlobalAccessesIssue : Prop :=
  ∀ (s : State) (sz : Sz) (sm : Sm) (pol : Policy) (lo : LandOpt) (op : AOp) (tl : BitVec 3) (q : Opd) (m : MemOp)
    (b x v r : Val), m.sp = .glob → b.p = false →
    let ea := memEa m b x
    let ea0 := b.v + m.disp.signExtend 64
    (MemReady s 0 [(m.base, false), (m.index, false)] [b, x] → x.p = false → GlobalOk s ea (szBytes sz) →
      exec (.ld sz sm pol m) s = .next (issued s { s.newReq .ld ea sz sm pol with dst := m.v } [])) ∧
    (MemReady s 0 (memSrcs m) [b, x, v] → x.p = false → GlobalOk s ea (szBytes sz) →
      exec (.st sz sm pol m) s = .next (issued s { s.newReq .st ea sz sm pol with d := v } (memSrcs m)) ∧
      exec (.stc sz sm pol m) s = .next (issued s { s.newReq .stc ea sz sm pol with d := v } (memSrcs m))) ∧
    (MemReady s 0 (memSrcs m) [b, x, v] → x.p = false → GlobalOk s ea (szBytes sz) → MraOk s v →
      (lo.tle = true → (s.thr s.th).ops.length < 256) →
      exec (.ldl sz sm pol lo m) s =
        .next (issued s { s.newReq .ldl ea sz sm pol with mra := v.v, lo := lo } (memSrcs m))) ∧
    (MemReady s 0 [(m.base, false), (m.index, false), (m.v, true)] [b, x, v] → x.p = false →
      GlobalOk s ea (szBytes sz) →
      exec (.amo op false sz q lo m) s = .next (issued s { s.newReq (.amo op) ea sz .plain with d := v, dst := m.v }
        [(m.base, false), (m.index, false), (m.v, true)])) ∧
    (MemReady s 0 (memSrcs m ++ [(q, false)]) [b, x, v, r] → x.p = false → GlobalOk s ea (szBytes sz) → MraOk s r →
      (lo.tle = true → (s.thr s.th).ops.length < 256) →
      exec (.amo op true sz q lo m) s = .next (issued s
        { s.newReq (.amol op) ea sz .plain with d := v, mra := r.v, lo := lo } (memSrcs m ++ [(q, false)]))) ∧
    (MemReady s 0 [(m.base, false), (m.index, false), (m.v, true)] [b, x, v] → GlobalOk s ea0 (szBytes sz) →
      exec (.cas sz m) s = .next (issued s { s.newReq .cas ea0 sz .plain with d := v, n := x, dst := m.v }
        [(m.base, false), (m.index, false), (m.v, true)])) ∧
    (MemReady s 0 [(m.base, false), (m.v, m.tv)] [b, v] → GlobalOk s ea0 8 → (s.thr s.th).ops.length < 256 →
      exec (.flagf tl m) s = .next (issued s { s.newReq .flag ea0 .d .wf with d := v, lo := ⟨false, true, tl⟩ }
        [(m.base, false), (m.v, m.tv)]))

/-- R175, R176: what the issue of an access changes and keeps. -/
def Obligations.IssuedAccessFrame : Prop :=
  ∀ (s : State) (r : Req) (srcs : List SrcOp), (∀ o ∈ srcs, ∀ d : BitVec 2, o.1 ≠ .link d) →
    let t := s.issueReq r srcs
    t.reqs = s.reqs ++ [r] ∧ t.nextReq = s.nextReq + 1 ∧
    t.cx.pc = s.nextPc ∧ t.cx.busy = .access r.id ∧ t.cx.wait = .no ∧
    (∀ n : BitVec 5, n ≠ 0 → (.g n, true) ∈ srcs → (s.cx.reg n.toNat).depth = 0 → (s.cx.reg n.toNat).f = true →
      (n.toNat, ⟨(s.cx.reg n.toNat).v, (s.cx.reg n.toNat).p⟩) ∈ t.cx.taken ∧ (t.cx.reg n.toNat).f = false) ∧
    (∃ us, t = { s with units := us, reqs := s.reqs ++ [r], nextReq := s.nextReq + 1 }) ∧
    (∀ j, j ≠ s.th → t.unitAt j = s.unitAt j) ∧
    (∃ xs, t.unitAt s.th = { s.un with ctxs := xs }) ∧
    (∀ c, c ≠ s.ctx → (t.unitAt s.th).ctxAt c = s.un.ctxAt c) ∧
    (∃ pc g tk sp, t.cx = { s.cx with pc := pc, g := g, wait := .no, busy := .access r.id, taken := tk, spin := sp }) ∧
    ∀ n, (∀ m : BitVec 5, (.g m, true) ∈ srcs → m.toNat ≠ n) → t.cx.reg n = s.cx.reg n

/-- The checks of an address in order, as the state each leads to; none when the access may go on (R197). -/
def Sys2Proof.Claims.addressFault (s : State) (m : MemOp) (ea : Word) (n : Nat) (strict write : Bool) : Option State :=
  let t := s.lsTarget m.sp ea
  let trap (c : Nat) (a : Word) : Option State := some (s.trap (cz c) s.cx.pc a)
  if m.sp = .glob ∧ canonical ea = false then trap 0x403 ea
  else if m.sp = .ls ∧ 0x30000 ≤ ea.toNat then trap 0x301 ea
  else if m.sp = .cl ∧ (ea.toNat / 2 ^ 24 ≠ 0 ∨ 0x30000 ≤ ea.toNat % 2 ^ 18) then trap 0x302 ea
  else if (s.un.phased && !s.un.exchange) = true ∧ (m.sp = .glob ∨ m.sp = .cl ∧ t.1 ≠ s.core) then trap 0xD08 s.cx.pc
  else if ea.toNat % n ≠ 0 then trap (if strict then 0x405 else 0x404) ea
  else if m.sp = .cl ∧ t.1 ≠ s.core ∧ s.boundTo t.1 s.un.part = false then trap 0x30D ea
  else if m.sp ≠ .glob ∧ s.lsPermits t.1 s.th t.2 n write = false then trap 0x303 ea
  else none

/-- R173, R174, R197: the faults of an access at issue. R197 does not list D08: that it comes after 403, 301 and 302 and before 404, 405, 30D
and 303 is the model's choice (DEDUCED, log 44; DESIGN CHOICE, log 88). -/
def Obligations.AccessFaultsInOrder : Prop :=
  ∀ (s : State) (sz : Sz) (sm : Sm) (pol : Policy) (lo : LandOpt) (op : AOp) (q : Opd) (m : MemOp) (b x v : Val) (t : State),
    let consumed : Out := .next (s.consume (cz 0xA03) s.cx.pc)
    let ea := memEa m b x
    let n := szBytes sz
    let strict := sm != .plain
    (MemReady s 0 [(m.base, false), (m.index, false)] [b, x] →
      ((b.p || x.p) = true → exec (.ld sz sm pol m) s = consumed) ∧
      ((b.p || x.p) = false → addressFault s m ea n strict false = some t → exec (.ld sz sm pol m) s = .next t)) ∧
    (MemReady s 0 (memSrcs m) [b, x, v] →
      ((b.p || x.p) = true → exec (.st sz sm pol m) s = consumed ∧ exec (.stc sz sm pol m) s = consumed) ∧
      ((b.p || x.p) = false → addressFault s m ea n strict true = some t →
        exec (.st sz sm pol m) s = .next t ∧ exec (.stc sz sm pol m) s = .next t)) ∧
    (MemReady s 0 [(m.base, false), (m.index, false), (m.v, true)] [b, x, v] →
      ((b.p || x.p) = true → exec (.amo op false sz q lo m) s = consumed) ∧
      ((b.p || x.p) = false → addressFault s m ea n true true = some t →
        exec (.amo op false sz q lo m) s = .next t) ∧
      (b.p = true → exec (.cas sz m) s = consumed) ∧
      (b.p = false → addressFault s m (b.v + m.disp.signExtend 64) n true true = some t →
        exec (.cas sz m) s = .next t))

/-- Byte a of core k's local store. -/
def Sys2Proof.Claims.lsByte (s : State) (k a : Nat) : Byte := Memory.byte (s.coreAt k).ls.bytes a

/-- R181, R180, R284, R318, R320: local loads and stores, with the address they compute. That a local access is performed in the step that
issues it is the model's choice (DEDUCED, log 21). -/
def Obligations.LocalLoadsAndStores : Prop :=
  ∀ (s : State) (sz : Sz) (sm : Sm) (pol : Policy) (m : MemOp) (b x v : Val), m.sp ≠ .glob → (b.p || x.p) = false →
    let n := szBytes sz
    let ea := memEa m b x
    let k := if m.sp = .cl then s.core / 64 * 64 + ea.toNat / 2 ^ 18 % 64 else s.core
    let off := if m.sp = .cl then ea.toNat % 2 ^ 18 else ea.toNat
    (MemReady s 0 (memSrcs m) [b, x, v] → addressFault s m ea n (sm != .plain) true = none →
      (s.unitAt (s.coreAt k).thread).gang = false →
      ∀ st : Bool, ∃ t, exec (if st then .st sz sm pol m else .stc sz sm pol m) s = .next t ∧
        (∀ a, lsByte t k a = if off ≤ a ∧ a < off + n then BitVec.ofNat 8 (v.v.toNat / 256 ^ (a - off)) else lsByte s k a) ∧
        (∀ j a, j ≠ k → lsByte t j a = lsByte s j a) ∧ t.mem = s.mem ∧ t.hostMem = s.hostMem ∧
        (∀ g, off ≤ 8 * g → 8 * g + 8 ≤ off + n → (t.coreAt k).ls.poisoned g = (st && v.p)) ∧
        (∀ g, 8 * g + 8 ≤ off ∨ off + n ≤ 8 * g → (t.coreAt k).ls.poisoned g = (s.coreAt k).ls.poisoned g)) ∧
    (MemReady s 0 [(m.base, false), (m.index, false)] [b, x] → addressFault s m ea n (sm != .plain) false = none →
      ∀ d : BitVec 5, m.v = .g d → d ≠ 0 → ∃ t r, exec (.ld sz sm pol m) s = .next t ∧
        t.mem = s.mem ∧ t.hostMem = s.hostMem ∧ (∀ j a, lsByte t j a = lsByte s j a) ∧
        t.reqs = s.reqs ++ [r] ∧ r.k = .ld ∧ r.phase = .performed ∧ r.dst = .g d ∧ r.thread = s.th ∧ r.ctx = s.ctx ∧
        r.res.v = BitVec.ofNat 64 (Memory.readLE (s.coreAt k).ls.bytes off n) ∧
        r.res.p = (s.coreAt k).ls.anyPoison off n)

/-- R132, R175, R183, R189, R190, R193, R194. The map and placement entries that a sharded access names come to their homes first (mapRead:
R327), which changes nothing where memory holds no hallmark that may differ. -/
def Sys2Proof.Claims.SendsShardsAndHintsIssue : Prop :=
  ∀ (s : State) (d a : Opd) (ta : Bool) (imm : BitVec 16) (lo : LandOpt) (sz : Sz) (sm : Sm) (pol : Policy) (op : AOp)
    (o : ShardOp) (lvl : Sys2Proof.Level) (m : MemOp) (v w x y c : Val) (peer : Nat) (va : Word),
    (MemReady s (sx16 imm) [(d, false), (a, ta)] [v, w] → s.threadOwes s.th = false → MraOk s v →
      (lo.tle = true → (s.thr s.th).ops.length < 256) →
      exec (.rsend d a ta imm lo) s =
        .next (((s.retireMem [(d, false), (a, ta)]).sendNow lo v.v w).drain s.core) ∧
      (lo.tle = false → s.un.gang = false → ∃ t l, (s.retireMem [(d, false), (a, ta)]).sendNow lo v.v w = t ∧
        t.flight = s.flight ++ [l] ∧ l.mra = v.v ∧ l.val = w ∧ l.urj = lo.urj ∧ l.sthread = s.th ∧ l.sctx = s.ctx)) ∧
    (MemReady s 0 (memSrcs m) [x, y, v] → (x.p || y.p) = false → MraOk s v → m.sp ≠ .glob →
      addressFault s m (memEa m x y) (szBytes sz) (sm != .plain) false = none →
      (lo.tle = true → (s.thr s.th).ops.length < 256) →
      let t := s.lsTarget m.sp (memEa m x y)
      exec (.ldl sz sm pol lo m) s = .next (((s.retireMem (memSrcs m)).sendNow lo v.v
        ⟨BitVec.ofNat 64 ((s.lsOf t.1).read t.2 (szBytes sz)), (s.lsOf t.1).anyPoison t.2 (szBytes sz)⟩).drain s.core)) ∧
    (let ab : List SrcOp := [(o.a, o.ta), (o.b, o.tb)]
      let read (srcs : List SrcOp) : State := s.mapRead srcs (sx16 o.imm) (shardCoords o)
      let good (t : State) : Prop := o.nc = false ∧ (v.p || w.p) = false ∧ (t.un.phased && !t.un.exchange) = false ∧
        t.resolve t.un.asid v.v.toNat [w.v.toNat % 2 ^ 32, w.v.toNat / 2 ^ 32] false (szBytes sz) = .to peer va ∧
        canonical va = true ∧ t.peerFault t.un.part peer = none ∧ va.toNat % szBytes sz = 0
      let at_ (r : Req) : Req :=
        { r with map := some v.v.toNat, coords := [w.v.toNat % 2 ^ 32, w.v.toNat / 2 ^ 32], ea := va,
                 tgt := if peer == (read ab).peer then .dev 0 else .peer peer }
      (s.mem.hall = [] → ∀ srcs, read srcs = s) ∧
      (let t := read ab;
        MemReady t (sx16 o.imm) ab [v, w] → good t →
        exec (.ldx sz sm o) s = .next (issued t (at_ { t.newReq .ld 0 sz sm with dst := o.d }) ab)) ∧
      (let t := read (ab ++ [(o.d, false)]);
        MemReady t (sx16 o.imm) (ab ++ [(o.d, false)]) [v, w, c] → good t →
        exec (.stx sz sm o) s = .next (issued t (at_ { t.newReq .st 0 sz sm with d := c }) (ab ++ [(o.d, false)]))) ∧
      (let t := read (ab ++ [(o.d, true)]);
        MemReady t (sx16 o.imm) (ab ++ [(o.d, true)]) [v, w, c] → good t →
        exec (.amox op sz o) s = .next (issued t (at_ { t.newReq (.amo op) 0 sz .plain with d := c, dst := o.d })
          (ab ++ [(o.d, true)])))) ∧
    (MemReady s 0 (memSrcs m) [x, y, v] →
      let t := s.retireMem (memSrcs m)
      let lines := hintLines (memEa m x y) v.v
      let act (h : Hint) : Out := .next ((if anyP [x, y, v] || lines.any (t.hintBad s.un.asid) then
          t.bump s.un.part s.th s.un.key s.ctx .hdrop
        else lines.foldl (fun t a => t.hintLine s.un.part s.un.asid h lvl a) t).drain s.core)
      exec (.pref lvl m) s = act .pref ∧ exec (.resid lvl m) s = act .resid ∧ exec (.evict lvl m) s = act .evict) ∧
    (MemReady s 0 [] [] → exec .fence s = .next (s.retire.drain s.core))

/-- R191, R343. The entry comes to its home before it is read (mapRead, vcome: R327), which changes nothing where memory holds no hallmark
that may differ. -/
def Sys2Proof.Claims.FreezeAndRelease : Prop :=
  ∀ (s₀ t : State) (o : Src) (v : Val),
    let s := s₀.mapRead [(o.a, o.ta)] (sx16 o.imm) (fun _ => [])
    MemReady s (sx16 o.imm) [(o.a, o.ta)] [v] → v.p = false → v.v.toNat < 4096 →
    s.smapSt s.un.asid v.v.toNat ≠ .invalid →
    let key := (s.un.asid, v.v.toNat)
    let u := s.vcome (some s.un.part) s.un.asid (s.asStab s.un.asid + 64 * v.v.toNat) 64
    let done (t : State) : Out := .next
      ((if t.inFlight s.un.asid v.v.toNat = 0 then t.retireMem [(o.a, o.ta)] else t.waits .smfrz).drain s.core)
    (s₀.mem.hall = [] → s = s₀ ∧ u = s) ∧
    (key ∈ s.frozen → exec (.smfrz o) s₀ = done s) ∧
    (key ∉ s.frozen → s.storeState s.un.asid v.v.toNat 2 = .ok t →
      exec (.smfrz o) s₀ = done { t with frozen := t.frozen ++ [key] }) ∧
    (key ∉ s.frozen → exec (.smrel o) s₀ = .next ((s.retireMem [(o.a, o.ta)]).drain s.core)) ∧
    (key ∈ s.frozen → ∀ c pte, u.vaAt u.un.asid (u.asStab u.un.asid + 64 * v.v.toNat) false = .no c pte →
      exec (.smrel o) s₀ = .next ((u.stateFault v.v.toNat (c, pte)).drain s.core)) ∧
    (key ∈ s.frozen → (∀ c pte, u.vaAt u.un.asid (u.asStab u.un.asid + 64 * v.v.toNat) false ≠ .no c pte) →
      (∀ r ∈ t.reqs, r.phase ≠ .frozen) →
      (match u.smap u.un.asid v.v.toNat with
        | some e => if e.st = 2 ∧ e.clean = true then u.storeState u.un.asid v.v.toNat 1 = .ok t else t = u
        | none => t = u) →
      exec (.smrel o) s₀ = .next (({ t with frozen := t.frozen.filter (· != key) }.retireMem [(o.a, o.ta)]).drain s.core))

/-- Both groups of rules above: `SendsShardsAndHintsIssue` and `FreezeAndRelease`. -/
def Obligations.SendsShardsHintsAndFreezes : Prop :=
  SendsShardsAndHintsIssue ∧ FreezeAndRelease



/-! ## Accesses in flight -/

/-- The new value of an atomic on w bits from the old value o and the operand d (R186). -/
def Sys2Proof.Claims.newValue (op : AOp) (w o d : Nat) : Nat :=
  match op with
  | .add => (o + d) % 2 ^ w
  | .fadd => roundNum .f32 ⟨.rne, false⟩ 0 ((decodeNum .f32 o).add false (decodeNum .f32 d))
  | .min => if Int.bmod o (2 ^ w) ≤ Int.bmod d (2 ^ w) then o else d
  | .max => if Int.bmod d (2 ^ w) ≤ Int.bmod o (2 ^ w) then o else d
  | .umin => min o d
  | .umax => max o d
  | .and => o &&& d
  | .or => o ||| d
  | .xor => o ^^^ d
  | .swap => d

/-- Memory m' is m with the n bytes at a holding v, little-endian, and every other byte as it was. -/
def Sys2Proof.Claims.holds (m m' : PMem) (a n v : Nat) : Prop :=
  ∀ x, Memory.byte m'.bytes x = if a ≤ x ∧ x < a + n then BitVec.ofNat 8 (v / 256 ^ (x - a)) else Memory.byte m.bytes x

/-- R178, R180, R181, R186, R188, R284: what an access does to its memory. -/
def Obligations.PerformedAccessesActOnTheirBytes : Prop :=
  ∀ (r : Req) (m : PMem) (a : Nat),
    let n := szBytes r.sz
    let d := r.d.v.toNat % 2 ^ (8 * n)
    let old := Memory.readLE m.bytes a n
    let word := a / 8
    let full := m.isFull word
    let pois := m.anyPoison a n
    ((r.k = .ld ∨ r.k = .ldl) → (r.sm = .plain ∨ r.sm = .rf ∨ r.sm = .tk) →
      ((r.sm = .rf ∨ r.sm = .tk) → full = false → r.onMem m a = none) ∧
      (((r.sm = .rf ∨ r.sm = .tk) → full = true) → ∃ p, r.onMem m a = some p ∧
        p.mem.bytes = m.bytes ∧ p.mem.poison = m.poison ∧ (r.sm = .tk → p.mem.isFull word = false) ∧
        (r.sm ≠ .tk → p.mem = m) ∧
        ((r.et && pois) = false → p.val = ⟨BitVec.ofNat 64 old, pois⟩ ∧ p.sub = false) ∧
        ((r.et && pois) = true → p.val = ⟨BitVec.ofNat 64 (m.substituted a n), false⟩ ∧ p.sub = true))) ∧
    (r.k = .st ∨ r.k = .stc →
      (r.sm = .we → full = true → r.onMem m a = none) ∧
      ((r.sm = .we → full = false) → ∃ p, r.onMem m a = some p ∧ holds m p.mem a n d ∧
        p.mem.isFull word = (match r.sm with | .we | .wf => true | .wz => false | .plain | .rf | .tk => full) ∧
        (∀ w, w ≠ word → p.mem.isFull w = m.isFull w) ∧
        (∀ g, 8 * g + 8 ≤ a ∨ a + n ≤ 8 * g → p.mem.poisoned g = m.poisoned g) ∧
        (r.k = .stc → p.mem.anyPoison a n = false) ∧
        (r.k = .st → ∀ g, a ≤ 8 * g → 8 * g + 8 ≤ a + n → p.mem.poisoned g = r.d.p))) ∧
    (∀ op, r.k = .amo op ∨ r.k = .amol op → ∃ p, r.onMem m a = some p ∧ p.val = ⟨BitVec.ofNat 64 old, pois⟩ ∧
      p.sub = false ∧ p.mem.full = m.full ∧ ((op = .fadd → n = 4) → holds m p.mem a n (newValue op (8 * n) old d))) ∧
    (r.k = .cas → ∃ p, r.onMem m a = some p ∧ p.val = ⟨BitVec.ofNat 64 old, pois⟩ ∧
      (old = d → holds m p.mem a n (r.n.v.toNat % 2 ^ (8 * n))) ∧ (old ≠ d → p.mem = m))

/-- R182, R187, R197: the judgement of an access at acceptance. R197 has 404 and 405 before 406: a misaligned address met them at issue. -/
def Sys2Proof.Claims.PagesJudgeAccesses : Prop :=
  ∀ (s : State) (r : Req) (ans : HostAns), (∀ p, r.tgt ≠ .peer p) →
    (s.translate r.asid r.ea.toNat = .invalid → s.judge r ans = .trap 0x506 r.ea) ∧
    (∀ pte, s.translate r.asid r.ea.toNat = .notValid pte → s.judge r ans = .park 0x501 (some pte)) ∧
    ∀ t, s.translate r.asid r.ea.toNat = .page t →
      let rd := r.k = .ld ∨ r.k = .ldl
      let wr := r.k = .st ∨ r.k = .stc ∨ r.k = .flag
      let at_ := ∃ op, r.k = .amo op ∨ r.k = .amol op ∨ r.k = .cas
      (rd → t.rd = false → s.judge r ans = .trap 0x502 r.ea) ∧
      (wr → t.w = false → s.judge r ans = .trap 0x503 r.ea) ∧
      (at_ → t.rd = false → s.judge r ans = .trap 0x502 r.ea) ∧
      (at_ → t.rd = true → t.w = false → s.judge r ans = .trap 0x503 r.ea) ∧
      (at_ → t.rd = true → t.w = true → t.atm = false → s.judge r ans = .trap 0x504 r.ea) ∧
      (t.rd = true → t.w = true → t.atm = true →
        (t.aper = 0 → s.judge r ans = .ok (.dev (t.frame + (r.ea.toNat % 2 ^ 57 - t.base))) t.et (some t)) ∧
        (t.aper = 3 → (at_ ∨ r.sm ≠ .plain ∨ r.k = .flag ∨ (szBytes r.sz < 4 ∨ r.ea.toNat % szBytes r.sz ≠ 0) ∧ (rd ∨ wr)) → s.judge r ans = .trap 0x406 r.ea) ∧
        (t.aper = 3 → rd → r.sm = .plain → 4 ≤ szBytes r.sz → r.ea.toNat % szBytes r.sz = 0 →
          s.judge r ans = .ok (.mmio (t.frame + (r.ea.toNat % 2 ^ 57 - t.base) - mmioBase)) false (some t)) ∧
        (t.aper = 3 → r.k = .st → r.sm = .plain → 4 ≤ szBytes r.sz → r.ea.toNat % szBytes r.sz = 0 → r.d.p = true →
          s.judge r ans = .consume))

/-- R68, R175, R176. The walk's reads (walkFor) change nothing where memory holds no hallmark that may differ (R327). -/
def Sys2Proof.Claims.AcceptanceSettlesOrUndoes : Prop :=
  ∀ (s₀ : State) (i : Nat) (ans : HostAns) (r : Req), s₀.req i = some r →
    let s := s₀.walkFor r
    (r.phase ≠ .issued → exec (.accessAccept i ans) s₀ = .next s₀) ∧
    (s₀.mem.hall = [] → s = s₀) ∧
    (r.phase = .issued → s.alive r = true →
      (∀ tgt et keep, s.judge r ans = .ok tgt et keep → (s.unitAt r.thread).gang = false → r.lo.tle = false →
        ∃ t q, exec (.accessAccept i ans) s₀ = .next t ∧ t.req i = some q ∧ q.phase = .accepted ∧ q.tgt = tgt ∧ q.et = et) ∧
      (∀ c a, s.judge r ans = .trap c a → c ≠ 0x801 → c ≠ 0x506 → c ≠ 0x702 → exec (.accessAccept i ans) s₀ =
        .next (s.inCsa r.thread (fun s => (s.unissue r).trapAt r.thread r.ctx (cz c) r.pc a))) ∧
      (∀ a, s.judge r ans = .trap 0x506 a → exec (.accessAccept i ans) s₀ =
        .next ((s.logWalk r.part r.asid r.ea.toNat).inCsa r.thread
          (fun s => (s.unissue r).trapAt r.thread r.ctx (cz 0x506) r.pc a))) ∧
      (∀ c pte, s.judge r ans = .park c pte →
        ∃ ms, ms = s.monitors ++ [⟨pte, r.part, r.asid, r.ea, s.peer, r.thread, r.key, r.ctx, false⟩] ∧
          let armed : State := { s with monitors := ms }
          let asked : State := if pte = none then armed.askHost r.part r.asid r.ea else armed
          exec (.accessAccept i ans) s₀ = .next (asked.inCsa r.thread
            (fun s => (s.unissue r).syncUpcall r.thread r.ctx (cz c) r.pc r.ea))) ∧
      (s.judge r ans = .consume → exec (.accessAccept i ans) s₀ =
        .next (s.inCsa r.thread (fun s => (s.unissue r).consumeAt r.thread r.ctx (cz 0xA06) r.pc r.ea)))) ∧
    ((s.thr r.thread).imaged = false → ∀ f, s.inCsa r.thread f = f s) ∧
    let x := (s.unitAt r.thread).ctxAt r.ctx
    let y := ((s.unissue r).unitAt r.thread).ctxAt r.ctx
    y.pc = r.pc ∧ y.busy = .no ∧ y.taken = [] ∧
    ∀ n, n ≠ 0 →
      ((x.reg n).depth = 0 → y.reg n = match x.taken.find? (·.1 == n) with
        | some e => { x.reg n with v := e.2.v, p := e.2.p, f := true }
        | none => x.reg n) ∧
      ((x.reg n).depth ≠ 0 →
        y.reg n = { x.reg n with q := (x.taken.filter (·.1 == n)).map (·.2) ++ (x.reg n).q })

/-- Both groups of rules above: `PagesJudgeAccesses` and `AcceptanceSettlesOrUndoes`. -/
def Obligations.PagesDecideAcceptance : Prop :=
  PagesJudgeAccesses ∧ AcceptanceSettlesOrUndoes


/-- R175, R178, R307. -/
def Obligations.AcceptedAccessesArePerformed : Prop :=
  ∀ (s : State) (i w : Nat) (r : Req),
    ((∀ q ∈ s.reqs, q.phase = .listed → q.word ≠ some w) → exec (.retryListWalk w) s = .next s) ∧
    (s.req i = some r → (∀ pa, r.tgt = .dev pa → (∀ q ∈ s.reqs, q.phase ≠ .listed) →
      (r.phase = .accepted → r.k ≠ .flag → s.earlier r = false →
        (∀ s' v sub, s.performOn r = some (s', v, sub) →
          exec (.accessPerform i) s = .next (s'.performed r v sub) ∧
          (r.tag = none → r.k = .ld → ∃ q, (s'.performed r v sub).req i = some q ∧ q.phase = .performed ∧ q.res = v)) ∧
        (s.performOn r = none → r.tag = none → ∃ t q, exec (.accessPerform i) s = .next t ∧ q ∈ t.reqs ∧ q.id = i ∧
          q.phase = .listed ∧ t.mem = s.mem)) ∧
      (r.phase = .refused → s.clk < r.at_ + 64 → exec (.requestRetry i) s = .next s) ∧
      (r.phase = .refused → r.at_ + 64 ≤ s.clk → exec (.requestRetry i) s =
        .next (s.performReq { r with phase := .accepted }))))

/-- R35, R177. -/
def Sys2Proof.Claims.LoadedValuesReturn : Prop :=
  ∀ (s : State) (i : Nat) (r : Req), s.req i = some r → r.phase = .performed →
    (∀ k : BitVec 3, r.dst = .x k → s.alive r = true → ((s.unitAt r.thread).ctxAt r.ctx).busy = .shadow i →
      ∃ t, exec (.loadDataReturn i) s = .next t ∧
        (t.unitAt r.thread).ctxAt r.ctx = { ((s.unitAt r.thread).ctxAt r.ctx).setX k.toNat r.res with busy := .no } ∧
        t.mem = s.mem ∧ t.cores = s.cores) ∧
    (r.dst = .g 0 → exec (.loadDataReturn i) s = .next (s.dropReq i)) ∧
    ∀ n : BitVec 5, n ≠ 0 → r.dst = .g n →
      let l := { r.landing s r.res with mra := r.ownMra n.toNat, tl := none, urj := false, own := true }
      (s.behind l = true → exec (.loadDataReturn i) s = .next s) ∧
      (s.behind l = false → exec (.loadDataReturn i) s = .next ((s.dropReq i).resolveLanding l))

/-- R191, R192, R195. -/
def Obligations.FailuresAndFlags : Prop :=
  ∀ (s : State) (i p core ctx : Nat) (ans : HostAns) (r : Req), s.req i = some r → r.tag = none →
    (r.tgt = .peer p → s.peerSt p ≠ .present → r.phase = .sent → s.unsettled r = false →
      let told (t : State) : Prop := t.mem = s.mem ∧ t.hostMem = s.hostMem ∧ ∃ n, t.notes.getLast? = some n ∧ n.cause = cz 0x802 ∧
        n.arg = r.ea ∧ n.thread = r.thread ∧ n.ctx = r.ctx
      let gone (t : State) : Prop := t.reqs.length + 1 = s.reqs.length ∧
        ((s.reqs.filter (·.id == i)).length = 1 → t.req i = none)
      ((r.k = .ld ∨ r.k = .cas ∨ ∃ op, r.k = .amo op) → ∃ t q, exec (.accessFailAtHome i) s = .next t ∧ t.req i = some q ∧
        q.phase = .performed ∧ q.res = ⟨0, true⟩ ∧ q.dst = r.dst ∧ told t ∧ t.notes.length = s.notes.length + 1) ∧
      ((r.k = .st ∨ r.k = .stc) → ∃ t, exec (.accessFailAtHome i) s = .next t ∧ gone t ∧ told t ∧
        t.notes.length = s.notes.length + 1 ∧ t.flight = s.flight) ∧
      ((r.k = .ldl ∨ ∃ op, r.k = .amol op) → r.sat = false → 
        let u := ((s.release r).coverFails r).dropReq i
        ∃ t l, exec (.accessFailAtHome i) s = .next t ∧ gone t ∧ told t ∧
          t.flight = s.flight ++ [l] ∧ l.mra = r.mra ∧ l.val = ⟨0, true⟩ ∧ l.tl = none ∧ t.threads = (if r.lo.tle = true ∧ (s.thr r.thread).key = r.key then u.opDone r.thread r.lo.tl.toNat r.no 4 r.ea 0 else u).threads)) ∧
    (r.k = .flag → r.phase = .accepted →
      let ends (s : State) (st : Nat) (a : Word) : State := (s.dropReq i).opDone r.thread r.lo.tl.toNat r.no st a 0
      (s.opOut r = false → exec (.flagfWrite i ans) s = .next (s.dropReq i)) ∧
      (s.opOut r = true →
        (s.coveredLeft r = true → exec (.flagfWrite i ans) s = .next s) ∧
        (s.coveredLeft r = false → r.sub = true → exec (.flagfWrite i ans) s = .next (ends s 0x0B r.res.v)) ∧
        (s.coveredLeft r = false → r.sub = false →
          let w := s.sigWalk r.asid r.ea.toNat
          let j := w.judge { r with tgt := .dev 0 } ans
          (s.mem.hall = [] → w = s) ∧
          (∀ c pte, j = .park c pte → exec (.flagfWrite i ans) s = .next (ends w 1 r.ea)) ∧
          (∀ c a, j = .trap c a → c ≠ 0x506 → exec (.flagfWrite i ans) s =
            .next (ends w (if c = 0x801 then 3 else if c = 0x501 ∨ c = 0x601 then 1 else 2) r.ea)) ∧
          (∀ a, j = .trap 0x506 a → exec (.flagfWrite i ans) s =
            .next (ends (w.logWalk r.part r.asid r.ea.toNat) 2 r.ea)) ∧
          (∀ pa et keep, j = .ok (.dev pa) et keep →
            let q := { r with tgt := .dev pa, et := et }
            let s0 := match keep with
              | some t => (w.keepTrans r.asid r.ea.toNat t).cacheReq q (.dev pa) t.mt
              | none => w
            ∀ s' v sub, s0.performOn q = some (s', v, sub) →
            (∀ q ∈ s'.reqs, q.phase ≠ .listed) →
            exec (.flagfWrite i ans) s = .next (ends s' 0 0))))) ∧
    (({ s with core := core, ctx := ctx } : State).cx.wait ≠ .smfrz → exec (.smfrzDrain core ctx) s = .next s) ∧
    (∀ (o : Src) ir len t, (s.coreAt core).st = .running → (s.coreAt core).halt = none →
      ({ s with core := core, ctx := ctx } : State).cx.live = true →
      ({ s with core := core, ctx := ctx } : State).cx.wait = .smfrz →
      ({ s with core := core, ctx := ctx } : State).fetchAt = (t, .instr (.smfrz o) ir len) →
      exec (.smfrzDrain core ctx) s = exec (.smfrz o) { t with ir := ir, len := len })

/-! ## Landings -/

/-- R34, R35, R37: the fate of a landing. -/
def Obligations.LandingsResolve : Prop :=
  ∀ (s : State) (i : Nat) (l : Landing),
    let t := mraThread l.mra
    let e := s.thr t
    let c := mraCtx l.mra
    let n := mraReg l.mra
    let k := s.coreAt e.loc
    let moves (f : Landing → Landing) : Out := .next { s with flight := modNth f i s.flight }
    (n = 0 ∨ 10 < c ∨ l.sasid ≠ e.asid ∨ e.st = .closed ∨ e.key ≠ mraKey l.mra ∨
      (c ≠ 0 ∧ e.st = .resident ∧ ((s.unitAt t).ctxAt c).live = false) → s.resolveLanding l = s.reject l) ∧
    (s.refuses l = false → e.st = .resident → k.st = .running → k.thread = t →
      (n ≠ 0 ∧ ((s.unitAt t).ctxAt c).reg n = { ((s.unitAt t).ctxAt c).reg n with f := false, depth := 0 } →
        ((s.unitAt t).ctxAt c).takenOf n = 0 → k.lbuf.all (fun m => !m.sameReg l) = true →
        ∃ r, s.resolveLanding l = r ∧ ((r.unitAt t).ctxAt c).reg n =
          { ((s.unitAt t).ctxAt c).reg n with v := l.val.v, p := l.val.p, f := true } ∧ r.mem = s.mem ∧
          (∀ m, m ≠ n → ((r.unitAt t).ctxAt c).reg m = ((s.unitAt t).ctxAt c).reg m)) ∧
      (s.openFor e.loc l = false → k.lbuf.length + k.rsvd < 32 → ∃ r, s.resolveLanding l = r ∧
        (r.coreAt e.loc).lbuf = k.lbuf ++ [l] ∧ r.mem = s.mem ∧ ∀ j, (r.unitAt j).ctxs = (s.unitAt j).ctxs) ∧
      (s.openFor e.loc l = false → 32 ≤ k.lbuf.length + k.rsvd →
        s.resolveLanding l = ({ s with flight := s.flight ++ [{ l with refusedAt := some s.clk, via := none }] } : State).pmLand l 6)) ∧
    (s.flight[i]? = some l →
      (l.refusedAt = none → s.behind l = false → mraChip l.mra = s.peer → s.gangWaits l = false → l.via = none →
        e.st ≠ .resident → exec (.landingDelivery i) s = .next ({ s with flight := dropNth i s.flight }.resolveLanding l)) ∧
      (l.refusedAt = none → s.behind l = false → mraChip l.mra = s.peer → s.gangWaits l = false →
        l.via = some e.loc → s.atCore e.loc l = true →
        exec (.landingDelivery i) s = .next ({ s with flight := dropNth i s.flight }.resolveLanding l)) ∧
      (s.behind l = true → exec (.landingDelivery i) s = .next s) ∧
      (∀ at_, l.refusedAt = some at_ → s.clk < at_ + 64 → exec (.landingRetry i) s = .next s) ∧
      (∀ at_, l.refusedAt = some at_ → at_ + 64 ≤ s.clk → s.behind l = false → exec (.landingRetry i) s =
        .next ({ s with flight := dropNth i s.flight }.resolveLanding { l with refusedAt := none })) ∧
      (∀ k', l.via = some k' → s.atCore k' l = false → exec (.landingBounce i) s =
        moves (fun l => { l with via := none, bounces := if e.st = .moved then l.bounces + 1 else l.bounces })) ∧
      (l.refusedAt = none → s.behind l = false → mraChip l.mra = s.peer → s.gangWaits l = false → l.via = none →
        e.st = .resident → s.refuses l = false →
        exec (.landingDelivery i) s = moves (fun l => { l with via := some e.loc })))

/-- R161, R35. -/
def Sys2Proof.Claims.SfuResultsLand : Prop :=
  ∀ (s : State) (core : Nat) (q : SfuReq) (rest : List SfuReq),
    ((s.coreAt core).sfu = [] → exec (.sfuResult core) s = .next s) ∧
    ((s.coreAt core).sfu = q :: rest → q.vec = false →
      let t := s.modCore core (fun c => { c with sfu := rest })
      let l := q.landing s
      l.val = ⟨BitVec.ofNat 64 q.code, q.a.p⟩ ∧
      exec (.sfuResult core) s = .next (if t.behind l then { t with flight := t.flight ++ [l] } else t.resolveLanding l)) ∧
    ((s.coreAt core).sfu = q :: rest → q.vec = true → q.thread = (s.coreAt core).thread →
      q.key = (s.unitAt (s.coreAt core).thread).key →
      exec (.sfuResult core) s = .next ((s.modCore core (fun c => { c with sfu := rest })).vecChunk core))

/-- Both groups of rules above: `LoadedValuesReturn` and `SfuResultsLand`. -/
def Obligations.ValuesReturnToTheirContexts : Prop :=
  LoadedValuesReturn ∧ SfuResultsLand



/-! ## Shapes and vectors -/

/-- R210 to R212. -/
def Sys2Proof.Claims.ShapeRegisterInstructions : Prop :=
  ∀ (s : State) (v : VecOp) (f : ShField) (g : Val),
    let n := v.sd.toNat
    let h := s.un.shape n
    let e := s.un.shape v.sa.toNat
    let o : Int := g.v.toNat + v.imm.toInt
    let srcs : List SrcOp := [(v.gs, false)]
    let trap (c : Nat) (a : Word) : Out := .next (s.trap (cz c) s.cx.pc a)
    let set (x : Shape) : Out :=
      .next ((((s.takeAll srcs).setUn ((s.takeAll srcs).un.setShape n x)).retire).drain s.core)
    let free (k : Nat) : Prop := s.shapeBusy [k] = false
    let quiet : State := (s.takeAll srcs).setCx (s.takeAll srcs).cx.noSpin
    let faults (out : Out) (wr : Bool) : Prop :=
      (g.p = true → out = .next (s.consume (cz 0xA03) s.cx.pc)) ∧
      (g.p = false → (o < 0 ∨ 0x30000 < o + 40) → out = trap 0x301 (BitVec.ofInt 64 o)) ∧
      (g.p = false → 0 ≤ o → o + 40 ≤ 0x30000 → o % 8 ≠ 0 → out = trap 0x407 (BitVec.ofInt 64 o)) ∧
      (g.p = false → 0 ≤ o → o + 40 ≤ 0x30000 → o % 8 = 0 → s.lsPermits s.core s.th o.toNat 40 wr = false →
        out = trap 0x303 (BitVec.ofInt 64 o))
    let good (wr : Bool) : Prop := g.p = false ∧ 0 ≤ o ∧ o + 40 ≤ 0x30000 ∧ o % 8 = 0 ∧
      s.lsPermits s.core s.th o.toNat 40 wr = true
    (Ready s 0 srcs none [g] → s.inOrder = true →
      (free n → faults (exec (.shld v) s) false ∧ (good false → exec (.shld v) s =
        .next (((quiet.setUn (quiet.un.setShape n ⟨BitVec.ofNat 320 (Memory.readLE (s.coreAt s.core).ls.bytes o.toNat 40),
          (s.coreAt s.core).ls.anyPoison o.toNat 40⟩)).retire).drain s.core))) ∧
      (free v.sa.toNat → faults (exec (.shst v) s) true ∧ (good true → s.un.gang = false → (∀ d, v.gs ≠ .link d) →
        exec (.shst v) s =
          .next (((quiet.setLs s.core ((s.coreAt s.core).ls.write o.toNat 40 e.r.toNat e.p)).retire).drain s.core)))) ∧
    (Ready s (v.imm.signExtend 64) srcs none [g] → free n →
      (g.p = true → exec (.shset f v) s = .next (s.consume (cz 0xA07) s.cx.pc) ∧
        exec (.shadv v) s = .next (s.consume (cz 0xA07) s.cx.pc)) ∧
      (g.p = false →
        (shfAccepts f g.v = true → exec (.shset f v) s = set (h.write f g.v)) ∧
        (shfAccepts f g.v = false → exec (.shset f v) s = trap 0x306 g.v) ∧
        (h.ok = false → exec (.shadv v) s = trap 0x304 s.cx.pc) ∧
        (h.ok = true → h.remain < g.v.toNat → exec (.shadv v) s = trap 0x305 s.cx.pc) ∧
        (h.ok = true → g.v.toNat ≤ h.remain → exec (.shadv v) s = set (h.setLin (h.lin + g.v.toNat))))) ∧
    (Ready s 0 [] (some v.gs) [] → free v.sa.toNat →
      exec (.shrd f v) s = .next (after s [] v.gs ⟨e.read f, e.p⟩))

/-- R135, R199: the cursor and the linear index. -/
def Sys2Proof.Claims.CursorsAreLinearIndices : Prop :=
  ∀ (h : Shape) (i : Nat), h.recOk = true → i ≤ h.count →
    let g := h.setLin i
    g.lin = i ∧ g.curOk = true ∧ g.recOk = true ∧ g.count = h.count ∧ g.remain = h.count - i ∧
    g.base = h.base ∧ g.esz = h.esz ∧ g.top = h.top ∧ g.p = h.p ∧
    (∀ d < 4, g.ext d = h.ext d ∧ g.stride d = h.stride d) ∧
    (i < h.count → ∀ d ≤ h.top, g.cur d = h.indexOf i d ∧ h.indexOf i d < h.ext d) ∧
    (h.top = 0 → h.offset i = h.base + i * h.stride 0)

/-- Both groups of rules above: `ShapeRegisterInstructions` and `CursorsAreLinearIndices`. -/
def Obligations.ShapeRecordsAndCursors : Prop :=
  ShapeRegisterInstructions ∧ CursorsAreLinearIndices


/-- The 26 vector instructions with given fields. -/
def Sys2Proof.Claims.vectorForms (cc : Cc) (fn : SfuFn) (ty : Ty) (sat : Bool) (md : Md) (v : VecOp) : List Instr :=
  [.vadd ty md v, .vsub ty md v, .vmul ty md v, .vfma ty md v, .vmin ty md v, .vmax ty md v, .vabs ty md v, .vneg ty md v,
   .vand ty v, .vor ty v, .vxor ty v, .vshl ty v, .vshr ty v, .vcmp cc ty md v, .vsel ty v, .vcvt ty md v, .vcopy ty v,
   .vbcst ty md v, .vgath ty v, .vscat ty v, .vsum ty sat v, .vrmax ty v, .vsfu fn ty md v, .vqnt ty md v, .vdq ty md v,
   .vpclr ty v]

/-- R198, R201 to R203: issue of every instruction that has a vector plan. -/
def Obligations.VectorInstructionsIssue : Prop :=
  (∀ cc fn ty sat md v, ∀ i ∈ vectorForms cc fn ty sat md v, ∃ p, vecPlan i = some p ∧ p.v = v) ∧
  ∀ (i : Instr) (p : VPlan) (s : State) (vs : List Val), vecPlan i = some p → s.runs = true →
    let gs : List SrcOp := if p.scalar then [(p.v.gs, false)] else []
    let u := s.un
    let k := if p.v.count = 0 then (u.shape p.drive).remain
      else if s.cx.vres.kind == 1 && s.cx.vres.addr == s.cx.pc then s.cx.vres.cnt else p.v.count.toNat
    s.linksOk (gs.map (·.1)) = true → s.inOrder = true → s.shapeBusy p.shapes = false →
    (drawsSto i = true → u.mq.any (fun j => drawsSto j.i) = false) → (p.red = true → s.room [] p.v.gs = true) →
    s.srcVals (p.v.imm.signExtend 64) [] gs = some vs →
    let clean : Prop := ∀ h ∈ p.shapes, (u.shape h).p = false
    let valid : Prop := (∀ st ∈ p.streams, (u.shape st.sh).ok = true ∧ eszOk (u.shape st.sh) st.ty = true) ∧
      ∀ t, p.table = some t → (u.shape t.1).recOk = true ∧ eszOk (u.shape t.1) (some t.2.1) = true
    let enough : Prop := ∀ st ∈ p.streams, k * st.per ≤ (u.shape st.sh).remain
    (¬ clean → exec i s = .next (s.consume (cz 0xA07) s.cx.pc)) ∧
    (clean → ¬ valid → exec i s = .next (s.trap (cz 0x304) s.cx.pc s.cx.pc)) ∧
    (clean → valid → ¬ enough → exec i s = .next (s.trap (cz 0x305) s.cx.pc s.cx.pc)) ∧
    (clean → valid → enough → k = 0 → exec i s = .next ((s.takeAll gs).vecDone s.core s.th s.ctx s.cx.pc s.ir
      (match p.sem with | .reduce _ fin => some (p.v.gs, fin s.cx.vecStart) | _ => none))) ∧
    (clean → valid → enough → 0 < k → ∃ t j, exec i s = .next t ∧ t.un.vq = u.vq ++ [j] ∧ j.i = i ∧ j.left = k ∧
      j.ctx = s.ctx ∧ j.pc = s.cx.pc ∧ j.gs = vs.headD .zero ∧ t.cx.busy = .vector ∧ t.cx.pc = s.cx.pc ∧ t.mem = s.mem ∧
      ∀ c, (t.coreAt c).ls = (s.coreAt c).ls)

/-- The element function of a vector instruction. -/
def Sys2Proof.Claims.elementwise (i : Instr) (f : BitVec 32 → List Val → BitVec 32 × Val) : Prop := ∃ p, vecPlan i = some p ∧ p.sem = .map f

/-- R204, R205, R213: elements and chunks. -/
def Sys2Proof.Claims.VectorChunks : Prop :=
  (∀ (ty : Ty) (md : Md) (v : VecOp) (l : BitVec 32) (a b c : Val),
    (ty.isInt = true →
      let x := num ty a.v
      let y := num ty b.v
      let w := tyWidth ty
      let n := b.v.toNat % 64
      let u := a.v.toNat % 2 ^ w
      let gives (i : Instr) (vs : List Val) (r : Int) (p : Bool) : Prop :=
        ∃ f, elementwise i f ∧ f l vs = (l, ⟨put ty r, p⟩)
      gives (.vadd ty md v) [a, b] (fit ty md.sat (x + y)) (a.p || b.p) ∧
      gives (.vsub ty md v) [a, b] (fit ty md.sat (x - y)) (a.p || b.p) ∧
      gives (.vmul ty md v) [a, b] (fit ty md.sat (x * y)) (a.p || b.p) ∧
      gives (.vmin ty md v) [a, b] (min x y) (a.p || b.p) ∧ gives (.vmax ty md v) [a, b] (max x y) (a.p || b.p) ∧
      gives (.vabs ty md v) [a] (fit ty md.sat x.natAbs) a.p ∧ gives (.vneg ty md v) [a] (fit ty md.sat (-x)) a.p ∧
      gives (.vshl ty v) [a, b] (if w ≤ n then 0 else x * 2 ^ n) (a.p || b.p) ∧
      gives (.vshr ty v) [a, b] (if ty.signed then x / 2 ^ min n (w - 1) else if w ≤ n then 0 else (u / 2 ^ n : Nat)) (a.p || b.p)) ∧
    (∃ f, elementwise (.vand ty v) f ∧ f l [a, b] = (l, ⟨a.v &&& b.v, a.p || b.p⟩)) ∧
    (∃ f, elementwise (.vor ty v) f ∧ f l [a, b] = (l, ⟨a.v ||| b.v, a.p || b.p⟩)) ∧
    (∃ f, elementwise (.vxor ty v) f ∧ f l [a, b] = (l, ⟨a.v ^^^ b.v, a.p || b.p⟩)) ∧
    (ty.isInt = false →
      let rdn := md.rm == .rdn
      let gives (i : Instr) (vs : List Val) (x : FV) (p : Bool) : Prop := ∃ f, elementwise i f ∧
        f l vs = ((roundDraw ty md l x).1, ⟨BitVec.ofNat 64 (roundDraw ty md l x).2, p⟩)
      gives (.vmin ty md v) [a, b] (lesser (val ty a) (val ty b)) (a.p || b.p) ∧
      gives (.vmax ty md v) [a, b] (greater (val ty a) (val ty b)) (a.p || b.p) ∧
      gives (.vabs ty md v) [a] (val ty a).abs a.p ∧ gives (.vneg ty md v) [a] (val ty a).neg a.p ∧
      gives (.vadd ty md v) [a, b] ((val ty a).add rdn (val ty b)) (a.p || b.p) ∧
      gives (.vsub ty md v) [a, b] ((val ty a).add rdn (val ty b).neg) (a.p || b.p) ∧
      gives (.vmul ty md v) [a, b] ((val ty a).mul (val ty b)) (a.p || b.p) ∧
      gives (.vfma ty md v) [a, b, c] (((val ty a).mul (val ty b)).add rdn (val ty c)) (a.p || b.p || c.p)) ∧
    (∀ cc, ∃ f, elementwise (.vcmp cc ty md v) f ∧ f l [a, b] = (l, ⟨if (if ty.isInt
      then intCond cc (tyWidth ty) ty.signed a.v.toNat b.v.toNat else fvCond cc (val ty a) (val ty b)) then 1 else 0, a.p || b.p⟩)) ∧
    (∃ f, elementwise (.vsel ty v) f ∧ f l [a, b, c] = (l, if c.v ≠ 0 then ⟨a.v, c.p || a.p⟩ else ⟨b.v, c.p || b.p⟩)) ∧
    (∃ f, elementwise (.vbcst ty md v) f ∧ f l [a] = (l, a)) ∧
    (ty ≠ .blk → ∃ f, elementwise (.vcopy ty v) f ∧ f l [a] = (l, a)) ∧
    (∀ fn, ∃ f, elementwise (.vsfu fn ty md v) f ∧
      f l [a] = ((sfuDraw fn ty md l (val ty a)).1, ⟨BitVec.ofNat 64 (sfuDraw fn ty md l (val ty a)).2, a.p⟩)) ∧
    (∀ xs : List Val, ty.isInt = true → xs.length < 65536 →
      let z : VRun := { lfsr := l, run := .zero, lanes := [], n := 0, fmtv := 0, seen := [] }
      let total : Int := (xs.map (fun x => num ty x.v)).sum
      (∀ sat, ∃ p g h, vecPlan (.vsum ty sat v) = some p ∧ p.sem = .reduce g h ∧
        h (xs.foldl g z) = ⟨BitVec.ofInt 64 (if !sat then total else if ty.signed
          then max (-(2 ^ 63)) (min (2 ^ 63 - 1) total) else max 0 (min (2 ^ 64 - 1) total)), xs.any (·.p)⟩) ∧
      ∃ p g h, vecPlan (.vrmax ty v) = some p ∧ p.sem = .reduce g h ∧ (h (xs.foldl g z)).p = xs.any (·.p) ∧
        (xs ≠ [] → ∃ m, (∃ x ∈ xs, m = num ty x.v) ∧ (∀ x ∈ xs, num ty x.v ≤ m) ∧ (h (xs.foldl g z)).v = put ty m) ∧
        (xs = [] → (h (xs.foldl g z)).v = put ty (if ty.signed then -(2 ^ (tyWidth ty - 1)) else 0)))) ∧
  ∀ (s : State) (k : Nat) (j : VecJob) (rest : List VecJob) (p : VPlan) (f : BitVec 32 → List Val → BitVec 32 × Val),
    let t := (s.coreAt k).thread
    let u := s.unitAt t
    let m := (s.coreAt k).ls
    let c := min (if p.line then 1 else 16) j.left
    let a : VRun := { lfsr := u.lfsr, run := j.run, lanes := j.lanes, n := j.n, fmtv := 0, seen := j.seen }
    let args (e : Nat) : List Val :=
      let vs := readStreams u m e p.streams
      if p.scalar then vs.take 1 ++ [j.gs] ++ vs.drop 1 else vs
    let writes : List VWrite := (List.range c).flatMap (fun e => (outAccs u e p.streams).map (fun o =>
      .val o.1.off.toNat o.1.n ⟨elemMask o.2 (f 0 (args e)).2.v, (f 0 (args e)).2.p⟩))
    p.sem = .map f → p.table = none → (∀ l vs, f l vs = (l, (f 0 vs).2)) →
    (∀ e < c, s.lsExc k t (p.streams.flatMap (fun st => st.accs u e)) = none) →
    chunkElems s k t j.pc p j.gs a [] 0 c = (a, writes, c, none) ∧
    (u.gang = false → s.vputs k writes ≠ none) ∧
    (∀ s', vecPlan j.i = some p → (s.coreAt k).st = .running → u.vq = j :: rest → s.vputs k writes = some s' →
      ∃ r, s.vecChunk k = r ∧ (sfuOf j.i = none → exec (.vectorChunk k) s = .next r) ∧
        (∀ fn, sfuOf j.i = some fn → s.chunkQueued k t = false → (s.coreAt k).sfu.length < 8 →
          ∃ w q, exec (.vectorChunk k) s = .next w ∧ (w.coreAt k).sfu = (s.coreAt k).sfu ++ [q] ∧ q.vec = true ∧
            q.thread = t ∧ q.key = u.key ∧ w.mem = s.mem ∧ ∀ n, (w.coreAt n).ls = (s.coreAt n).ls) ∧
        (∀ n, (r.coreAt n).ls = (s'.coreAt n).ls) ∧ r.mem = s.mem ∧
        (r.unitAt t).lfsr = u.lfsr ∧
        (∀ n, (r.unitAt t).shape n = (if p.streams.any (fun st => st.sh == n) then
          match p.streams.find? (fun st => st.sh == n) with
            | some st => (u.shape n).setLin ((u.shape n).lin + c * st.per)
            | none => u.shape n
          else u.shape n)) ∧
        (c < j.left → (r.unitAt t).vq = { j with left := j.left - c, started := true } :: rest) ∧
        (c = j.left → (r.unitAt t).vq = rest ∧ ((r.unitAt t).ctxAt j.ctx).pc = j.pc + 12 ∧
          ((r.unitAt t).ctxAt j.ctx).busy = .no))

/-- R121, R215 to R221: the elements that other functions of vectors compute, each as the writes of one element whose accesses pass. -/
def Sys2Proof.Claims.OtherVectorElements : Prop :=
  (∀ (ty : Ty) (md : Md) (v : VecOp) (l : BitVec 32) (a : Val),
    let st := [Ty.i64, .i32, .i16, .ui16, .i8, .ui8, .f32, .f16, .bf16, .e4m3, .e5m2, .t8, .t6].getD (v.imm.toNat % 16) .t6
    ∃ f, elementwise (.vcvt ty md v) f ∧
      ((ty.isInt && st.isInt) = true →
        f l [a] = (l, ⟨BitVec.ofNat 64 (fit ty true (num st a.v) % 2 ^ tyWidth ty).toNat, a.p⟩)) ∧
      ((ty.isInt && st.isInt) = false →
        f l [a] = ((roundDraw ty md l (val st a)).1, ⟨BitVec.ofNat 64 (roundDraw ty md l (val st a)).2, a.p⟩))) ∧
  (∀ (ty : Ty) (v : VecOp) (sat : Bool) (xs : List Val), ty.isInt = false →
    let z : VRun := { lfsr := 0, run := .zero, lanes := [], n := 0, fmtv := 0, seen := [] }
    let add (a : Val) (x : FV) (p : Bool) : Val :=
      ⟨BitVec.ofNat 64 (roundNum .f32 ⟨.rne, false⟩ 0 ((val .f32 a).add false x)), a.p || p⟩
    let lanes : List Val := (List.range 16).map (fun i => ((List.range xs.length).filter (· % 16 = i)).foldl
      (fun a n => add a (val ty (xs.getD n .zero)) (xs.getD n .zero).p) .zero)
    let pairs (l : List Val) : List Val := (List.range (l.length / 2)).map (fun i =>
      add (l.getD (2 * i) .zero) (val .f32 (l.getD (2 * i + 1) .zero)) (l.getD (2 * i + 1) .zero).p)
    (∃ p g h, vecPlan (.vsum ty sat v) = some p ∧ p.sem = .reduce g h ∧
      h (xs.foldl g z) = (pairs (pairs (pairs (pairs lanes)))).headD .zero) ∧
    ∃ p g h, vecPlan (.vrmax ty v) = some p ∧ p.sem = .reduce g h ∧ (h (xs.foldl g z)).p = xs.any (·.p) ∧
      (h (xs.foldl g z)).v = match xs with
        | [] => BitVec.ofNat 64 (roundNum ty ⟨.rne, false⟩ 0 (.inf true))
        | x :: rest => rest.foldl (fun (w : Word) x =>
            BitVec.ofNat 64 (roundNum ty ⟨.rne, false⟩ 0 (greater (decodeNum ty w.toNat) (val ty x))))
          (BitVec.ofNat 64 (roundNum ty ⟨.rne, false⟩ 0 (val ty x)))) ∧
  (∀ (fmt : Ty) (md : Md) (tab : Nat → Int) (l : BitVec 32) (xs : List FV), md.rm ≠ .sto → xs.length = 48 →
    let most := xs.foldl (fun m x => if m.lt x.abs then x.abs else m) (.zero false)
    let e := if xs.any (fun x => match x with | .nan | .inf _ => true | .zero _ | .fin _ _ _ => false) then 255
      else pickScale (fmtMax fmt tab) most
    let code (x : FV) : Nat := if e = 255 then 0 else
      if fmt = .l4 then nearestCode tab (x.scale (127 - (e : Int))) else roundNum fmt md 0 (x.scale (127 - (e : Int)))
    quantLine fmt md tab 0 l xs = (l, ((List.range 48).map (fun i => code (xs.getD i .nan) * 2 ^ (tyWidth fmt * i))).sum +
      e * 2 ^ (8 * scaleByte fmt))) ∧
  ∀ (s : State) (k e : Nat) (ip : Word) (v : VecOp) (ty : Ty) (md : Md) (g : Val) (a : VRun),
    let t := (s.coreAt k).thread
    let u := s.unitAt t
    let m := (s.coreAt k).ls
    let h (n : BitVec 3) : Shape := u.shape n.toNat
    let acc (n : BitVec 3) (per j : Nat) (wr : Bool) : LsAcc :=
      ⟨(h n).offset ((h n).lin + e * per + j), (h n).bytes, (h n).bytes, wr⟩
    let one (n : BitVec 3) (wr : Bool) : LsAcc := acc n 1 0 wr
    let low (w : Word) : Word := if ty = .t6 then w &&& 0x3F else w
    let tabMd (c : Nat) : Int := intOf 8 true (u.l4At c).v.toNat
    let gives (i : Instr) (l : List LsAcc) (r : VRun × List VWrite) : Prop :=
      ∃ p, vecPlan i = some p ∧ (s.lsExc k t l = none → elemStep s k t ip p g e a = .ok r)
    let x := one v.sb false
    let idx := Memory.readLE m.bytes x.off.toNat x.n
    let at_ (n : BitVec 3) (wr : Bool) : LsAcc := ⟨(h n).offset idx, (h n).bytes, (h n).bytes, wr⟩
    let element (r : LsAcc) (w : LsAcc) : List VWrite :=
      if ty = .blk then [.line w.off.toNat (m.runAt r.off.toNat 64)]
      else [.val w.off.toNat w.n ⟨low (low (BitVec.ofNat 64 (Memory.readLE m.bytes r.off.toNat r.n))), m.anyPoison r.off.toNat r.n⟩]
    (x.n ≤ 8 → m.anyPoison x.off.toNat x.n = false →
      (idx < (h v.sa).count →
        gives (.vgath ty v) [x, at_ v.sa false, one v.sd true] (a, element (at_ v.sa false) (one v.sd true))) ∧
      (idx < (h v.sd).count →
        gives (.vscat ty v) [x, one v.sa false, at_ v.sd true] (a, element (one v.sa false) (at_ v.sd true)))) ∧
    (x.n ≤ 8 → s.lsExc k t [x] = none → ∀ p, (vecPlan (.vgath ty v) = some p ∨ vecPlan (.vscat ty v) = some p) →
      (m.anyPoison x.off.toNat x.n = true → elemStep s k t ip p g e a = .error (.consume (cz 0xA02) ip)) ∧
      (m.anyPoison x.off.toNat x.n = false → (∀ q, p.table = some q → (u.shape q.1).count ≤ idx) →
        elemStep s k t ip p g e a = .error (.trap (cz 0x307) (BitVec.ofNat 64 idx)))) ∧
    gives (.vcopy .blk v) [one v.sa false, one v.sd true]
      (a, [.line (one v.sd true).off.toNat (m.runAt (one v.sa false).off.toNat 64)]) ∧
    gives (.vpclr ty v) [one v.sd true] (a, [.clear (one v.sd true).off.toNat (h v.sd).bytes]) ∧
    (let ins := (List.range 48).map (fun j => acc v.sa 48 j false)
      let ws := ins.map (fun r => (⟨BitVec.ofNat 64 (Memory.readLE m.bytes r.off.toNat r.n), m.anyPoison r.off.toNat r.n⟩ : Val))
      let q := quantLine ty md tabMd v.imm.toNat a.lfsr (ws.map (val .f32))
      let bad := ws.any (·.p) || (ty == .l4 && (List.range 16).any (fun c => (u.l4At c).p))
      gives (.vqnt ty md v) (ins ++ [one v.sd true])
        ({ a with lfsr := q.1 }, [.line (one v.sd true).off.toNat ((natLine 64 q.2).map (·, bad))])) ∧
    (md.rm ≠ .sto →
      let src := (one v.sa false).off.toNat
      let line := Memory.readLE m.bytes src 64
      let outs := (List.range 48).map (fun j => acc v.sd 48 j true)
      let result (i : Nat) : Val := ⟨BitVec.ofNat 64 (roundNum .f32 md 0 (elemValue ty tabMd line i)),
        elemPoison ty (fun g => m.poisoned (src / 8 + g)) i ||
          (ty == .l4 && (outlierFor ty line i).isNone && scaleOf ty line != 255 && (u.l4At (codeAt ty line i)).p)⟩
      gives (.vdq ty md v) (one v.sa false :: outs)
        ({ a with seen := setIns src a.seen, fmtv := if a.seen.contains src then a.fmtv else a.fmtv + violations ty line },
          (List.range 48).map (fun j => .val (acc v.sd 48 j true).off.toNat (acc v.sd 48 j true).n (result j)))) ∧
    ∀ off n s', 0 < n → s.vput k (.clear off n) = some s' → (s'.coreAt k).ls.bytes = m.bytes ∧
      ∀ g, (s'.coreAt k).ls.poisoned g = if 8 * g < off + n ∧ off < 8 * g + 8 then false else m.poisoned g

/-- Both groups of rules above: `VectorChunks` and `OtherVectorElements`. -/
def Obligations.VectorChunksPerformElements : Prop :=
  VectorChunks ∧ OtherVectorElements



/-! ## The matrix unit -/

/-- Element (i, j) of accumulator n of the acting unit's thread. -/
def Sys2Proof.Claims.tile (s : State) (th n i j : Nat) : Elem := (s.unitAt th).accAt n i j

/-- Address of row r of a tile in the local store: base, pitch and rotation from the two registers of A (R225). -/
def Sys2Proof.Claims.rowAddr (b g : Val) (r : Nat) : Nat :=
  b.v.toNat + r * (g.v.toNat % 2 ^ 18) + 64 * (r * (g.v.toNat / 2 ^ 36 % 4) % 3)

/-- A tile move that passes its checks: clean registers, a geometry without reserved bits, rows of 64 bytes aligned, inside the
store, and permitted (R224, R225, R244, R245). -/
def Sys2Proof.Claims.TileOk (s : State) (b g : Val) (wr : Bool) : Prop :=
  b.p = false ∧ g.p = false ∧ g.v.toNat < 2 ^ 38 ∧ g.v.toNat / 2 ^ 36 ≠ 3 ∧ b.v.toNat % 64 = 0 ∧
  g.v.toNat % 2 ^ 18 % 64 = 0 ∧ ∀ i < 16, rowAddr b g i + 64 ≤ 0x30000 ∧ s.lsPermits s.core s.th (rowAddr b g i) 64 wr = true

/-- The registers of A of a tile move. -/
def Sys2Proof.Claims.tileSrcs (t : TOp) : List SrcOp := [(t.ga, false), (nextOpd t.ga, false)]

/-- R225, R232, R239, R242. -/
def Obligations.TileInstructions : Prop :=
  ∀ (s : State) (t : TOp) (b g : Val),
    let n := t.acc.toNat
    let k := s.core
    (s.runs = true → s.un.mq ≠ [] → let w : Out := .next (s.waits .unitIdle)
      exec (.mzero t) s = w ∧ exec (.mlda t) s = w ∧ exec (.msta t) s = w ∧ exec (.mtbl t) s = w ∧ exec (.mstat t) s = w) ∧
    (s.un.mq = [] →
      (Ready s 0 [] none [] → ∃ r, exec (.mzero t) s = .next r ∧ r.cx.pc = s.nextPc ∧
        ∀ m < 4, ∀ i < 16, ∀ j < 16, tile r s.th m i j = if m = n then ⟨0, false⟩ else tile s s.th m i j) ∧
      (Ready s 0 (tileSrcs t) none [b, g] → s.inOrder = true → TileOk s b g false →
        ∃ r, exec (.mlda t) s = .next r ∧ r.cx.pc = s.nextPc ∧ (∀ c, (r.coreAt c).ls = (s.coreAt c).ls) ∧ r.mem = s.mem ∧
          ∀ m < 4, ∀ i < 16, ∀ j < 16, tile r s.th m i j = if m = n then
            ⟨BitVec.ofNat 32 (Memory.readLE (s.coreAt k).ls.bytes (rowAddr b g i + 4 * j) 4),
              (s.coreAt k).ls.poisoned ((rowAddr b g i + 4 * j) / 8)⟩ else tile s s.th m i j) ∧
      (Ready s 0 (tileSrcs t) none [b, g] → s.inOrder = true → TileOk s b g true →
        s.un.gang = false → ∃ r, exec (.msta t) s = .next r ∧ r.cx.pc = s.nextPc ∧ r.mem = s.mem ∧ (∀ c a, c ≠ k → lsByte r c a = lsByte s c a) ∧
          (∀ a, (∀ i < 16, a < rowAddr b g i ∨ rowAddr b g i + 64 ≤ a) → lsByte r k a = lsByte s k a) ∧
          ((∀ i < 16, ∀ i' < 16, i ≠ i' → rowAddr b g i + 64 ≤ rowAddr b g i' ∨ rowAddr b g i' + 64 ≤ rowAddr b g i) →
            ∀ i < 16, ∀ j < 16, ∀ e < 4, lsByte r k (rowAddr b g i + 4 * j + e) =
              BitVec.ofNat 8 ((tile s s.th n i j).v.toNat / 256 ^ e))) ∧
      (Ready s 0 [(t.ga, false)] none [b] → s.inOrder = true → b.p = false → b.v.toNat % 16 = 0 →
        b.v.toNat + 16 ≤ 0x30000 → s.lsPermits s.core s.th b.v.toNat 16 false = true →
        ∃ r, exec (.mtbl t) s = .next r ∧ r.cx.pc = s.nextPc ∧ ∀ c < 16, (r.unitAt s.th).l4At c =
          ⟨((Memory.byte (s.coreAt k).ls.bytes (b.v.toNat + c)).zeroExtend 64), (s.coreAt k).ls.poisoned ((b.v.toNat + c) / 8)⟩) ∧
      (Ready s 0 [] (some t.ga) [] → ∃ r, exec (.mstat t) s = .next r ∧ r.cx.pc = s.nextPc ∧
        (∀ d : BitVec 5, t.ga = .g d → d ≠ 0 → (s.cx.reg d.toNat).depth = 0 → (s.coreAt k).lbuf = [] →
          (r.cx.reg d.toNat).f = true ∧ (r.cx.reg d.toNat).v = s.un.mstat n) ∧
        (t.fn.getLsbD 0 = true → (r.unitAt s.th).satf.get false n = false)))

/-- R228, R232, R233, R235. That D08 comes first is the model's choice (DESIGN CHOICE, log 88). -/
def Sys2Proof.Claims.MatrixOperationsIssue : Prop :=
  ∀ (i : Instr) (t : TOp) (p : MPlan) (s : State) (vs : List Val),
    (i = .mma t ∨ i = .mmb t ∨ i = .mms t ∨ i = .mcmp t ∨ i = .mdrn t ∨ i = .mrsum t ∨ i = .mcsum t) →
    matPlan i = some p → s.runs = true →
    let start := if s.cx.vres.kind == 2 && s.cx.vres.addr == s.cx.pc then s.cx.vres.cnt else t.step.toNat
    (s.un.mq ≠ [] → exec i s = .next (s.waits .unitIdle)) ∧
    (s.un.mq = [] → (drawsSto i = true → s.drawBusy = false) →
      (t.tle = true → s.owesAll = false ∧ (s.thr s.th).ops.length < 256 ∧ (s.tlAt s.th t.tl.toNat).qpErr = false) →
      (t.tle = false → s.inOrder = true) → Ready s 0 p.srcs none vs →
      (∀ e, s.matExc p vs start = some e → exec i s = .next (s.raise e)) ∧
      ((s.un.phased && !s.un.exchange) = true → (∃ o ∈ p.pairs, o.src = 2) →
        s.matExc p vs start = some (.trap (cz 0xD08) s.cx.pc)) ∧
      (s.matExc p vs start = none → ∃ r j, exec i s = .next r ∧ (r.unitAt s.th).mq = [j] ∧ j.i = i ∧ j.regs = vs ∧
        j.step = start ∧ j.ctx = s.ctx ∧ j.pc = s.cx.pc ∧ r.mem = s.mem ∧ (r.unitAt s.th).acc = s.un.acc ∧
        (t.tle = false → r.cx.busy = .matrix ∧ r.cx.pc = s.cx.pc) ∧
        (t.tle = true → r.cx.pc = s.nextPc ∧ j.no = (s.tlAt s.th t.tl.toNat).iss + 1))) ∧
    (∀ vs o, (∀ e, s.matExc p vs start ≠ some e) → o ∈ p.pairs → o.src ≠ 1 →
      (vat vs o.at_).p = false ∧ (vat vs (o.at_ + 1)).p = false ∧ (o.base vs) % o.size = 0 ∧
      (o.src = 0 → ∀ a ∈ p.lines o vs start, a + o.size ≤ 0x30000 ∧ s.lsPermits s.core s.th a o.size o.wr = true))

/-- The integers of a line of an integer operand (R226, R237). -/
def Sys2Proof.Claims.intElem (u : UnitSt) (ty : Ty) (l : MLine) (k : Nat) : Int :=
  if ty = .l4 then Int.bmod (u.l4At (l.v / 2 ^ (4 * k) % 16)).v.toNat 256
  else if ty.signed then Int.bmod (l.v / 2 ^ (8 * k) % 256) 256 else (l.v / 2 ^ (8 * k) % 256 : Nat)

/-- R118, R120, R237, R243. -/
def Sys2Proof.Claims.MatrixSteps : Prop :=
  (∀ (u : UnitSt) (t : TOp) (la lb : List MLine) (i j : Nat), i < 16 → j < 16 → la.length = 16 → lb.length = 16 →
    (t.tya = .i8 ∨ t.tya = .ui8 ∨ t.tya = .l4) → (t.tyb = .i8 ∨ t.tyb = .ui8 ∨ t.tyb = .l4) → t.accmode.toNat % 4 = 1 →
    let z : MLine := ⟨0, []⟩
    let a := la.getD i z
    let b := lb.getD j z
    let dot : Int := ((List.range 64).map (fun k => intElem u t.tya a k * intElem u t.tyb b k)).foldl (· + ·) 0
    let n := t.acc.toNat
    let old := u.accAt n i j
    (u.mulStep .dense t la lb).accAt n i j = ⟨old.v + BitVec.ofInt 32 dot, old.p || u.mPois t.tya a || u.mPois t.tyb b⟩ ∧
    (∀ m < 4, m ≠ n → (u.mulStep .dense t la lb).accAt m i j = u.accAt m i j) ∧
    (t.accmode.getLsbD 3 = true → (u.startMul t 0).accAt n i j = ⟨0, false⟩) ∧
    (∀ st, st ≠ 0 ∨ t.accmode.getLsbD 3 = false → u.startMul t st = u)) ∧
  ∀ (s : State) (k : Nat) (j : MatJob) (p : MPlan) (t : TOp),
    let th := (s.coreAt k).thread
    let u := s.unitAt th
    (s.coreAt k).st = .running → u.mq = [j] → matPlan j.i = some p → j.needs p = none →
    let la := s.operLines k p (p.pairs.headD ⟨0, 0, 64, false, false⟩) j.regs j.bufA j.step
    let lb := s.operLines k p (p.pairs.getD 1 ⟨0, 0, 64, false, false⟩) j.regs j.bufB j.step
    let makes (v : UnitSt) : Prop := ∃ r, exec (.matrixStep k) s = .next r ∧ r.mem = s.mem ∧
      (∀ c, (r.coreAt c).ls = (s.coreAt c).ls) ∧ (r.unitAt th).acc = v.acc ∧ (r.unitAt th).satf = v.satf ∧
      (j.step + 1 < p.steps → ∃ j', (r.unitAt th).mq = [j'] ∧ j'.step = j.step + 1 ∧ j'.i = j.i ∧ j'.regs = j.regs ∧
        j'.bufA = [] ∧ j'.bufB = []) ∧
      (p.steps ≤ j.step + 1 → (r.unitAt th).mq = [] ∧
        (t.tle = false → ((r.unitAt th).ctxAt j.ctx).pc = j.pc + 16 ∧ ((r.unitAt th).ctxAt j.ctx).busy = .no))
    (j.i = .mma t → makes ((u.startMul t j.step).mulStep .dense t la lb)) ∧
    (j.i = .mmb t → makes ((u.startMul t j.step).mulStep .block t la lb)) ∧
    (j.i = .mms t → makes ((u.startMul t j.step).mulStep .sparse t la lb)) ∧
    (j.i = .mrsum t → makes (u.sumLines t false (vat j.regs 2) la)) ∧
    (j.i = .mcsum t → makes (u.sumLines t true (vat j.regs 2) la))

/-- One accumulation into an FP32 element: the products of a group summed exactly and rounded, then added and rounded (R118, R119). -/
def Sys2Proof.Claims.addGroup (c : BitVec 32) (g : List (FV × FV)) : BitVec 32 :=
  let near (x : FV) : Nat := roundNum .f32 ⟨.rne, false⟩ 0 x
  let sum : FV := match g with
    | [] => .zero false
    | p :: l => l.foldl (fun a q => a.add false (q.1.mul q.2)) (p.1.mul p.2)
  BitVec.ofNat 32 (near ((decodeNum .f32 c.toNat).add false (decodeNum .f32 (near sum))))

/-- One accumulation into an integer element, with the flag of a clamp (R120). -/
def Sys2Proof.Claims.addInt (sat : Bool) (c : BitVec 32 × Bool) (d : Int) : BitVec 32 × Bool :=
  let r := c.1.toInt + d
  let m : Int := max (-(2 ^ 31)) (min (2 ^ 31 - 1) r)
  if sat then (BitVec.ofInt 32 m, c.2 || m != r) else (BitVec.ofInt 32 r, c.2)

/-- Element q of an operand line of a float type (R226). -/
def Sys2Proof.Claims.floatElem (ty : Ty) (l : MLine) (q : Nat) : FV :=
  let w := if ty = .bf16 ∨ ty = .f16 then 16 else 8
  decodeNum ty (l.v / 2 ^ (w * q) % 2 ^ (if ty = .t6 then 6 else w))

/-- Value q of a compressed line stands at this position of its row (R237). -/
def Sys2Proof.Claims.keptAt (l : MLine) (q : Nat) : Nat := q / 2 * 4 + l.v / 2 ^ (256 + 2 * q) % 4

/-- The code of an output element of MDRN without a draw, and its poison (R240). -/
def Sys2Proof.Claims.drained (t : TOp) (blk : List Val) (z : Val) (c : Nat) (e : Elem) : Nat × Bool :=
  let ty := t.tya
  let md : Md := ⟨[Rm.rne, .rtz, .rdn, .rup, .rna, .sto].getD (t.fn.toNat % 8) .rne, t.fn.getLsbD 3⟩
  let int (r : Int) : Nat := (fit ty true r % 2 ^ tyWidth ty).toNat
  if t.fn.getLsbD 5 then
    let x := vat blk (c / 2)
    let y := vat blk (8 + c / 8)
    let product := e.v.toInt * Int.bmod (x.v.toNat / 2 ^ (32 * (c % 2))) (2 ^ 32)
    let n := (31 + max (-31) (min 31 (Int.bmod (y.v.toNat / 2 ^ (8 * (c % 8))) 256)) : Int).toNat
    let half : Int := (2 * product.natAbs + 2 ^ n) / 2 ^ (n + 1)
    (int (num .i32 z.v + if product < 0 then -half else half), e.p || (x.p || y.p) || z.p)
  else if t.accmode.toNat % 4 = 1 ∧ ty.isInt = true then (int e.v.toInt, e.p)
  else (roundNum ty md 0 (if t.accmode.toNat % 4 = 1 then FV.ofInt e.v.toInt else decodeNum .f32 e.v.toNat), e.p)

/-- R118 to R120, R237, R238, R240, R241: what a step of each other operation computes, in a unit of no gang. The omitted positions of MMS are an
exact zero of positive sign and the whole byte of a .t6 value is copied (the model's choice, log 92). -/
def Sys2Proof.Claims.OtherMatrixSteps : Prop :=
  (∀ (u : UnitSt) (t : TOp) (la lb : List MLine) (c : Val) (i j : Nat), i < 16 → j < 16 → la.length = 16 → lb.length = 16 →
    let z : MLine := ⟨0, []⟩
    let a := la.getD i z
    let b := lb.getD j z
    let n := t.acc.toNat
    let old := u.accAt n i j
    let after (k : MulKind) : Elem := (u.mulStep k t la lb).accAt n i j
    let ints : Prop := (t.tya = .i8 ∨ t.tya = .ui8 ∨ t.tya = .l4) ∧ (t.tyb = .i8 ∨ t.tyb = .ui8 ∨ t.tyb = .l4)
    let sat := t.accmode.toNat % 4 == 2
    let kept (f : Nat → Nat → FV × FV) : List (List (FV × FV)) := (List.range 4).map (fun g =>
      (List.range 8).map (fun q => f (8 * g + q) (keptAt a (8 * g + q))) ++ [(.zero false, .zero false)])
    (t.accmode.toNat % 4 = 0 →
      (t.tya ≠ .l4 → t.tyb ≠ .l4 → kPer t.tya = kPer t.tyb → after .dense =
        ⟨((List.range (kPer t.tya / 16)).map (fun g => (List.range 16).map (fun q =>
          (floatElem t.tya a (16 * g + q), floatElem t.tyb b (16 * g + q))))).foldl addGroup old.v,
        old.p || u.mPois t.tya a || u.mPois t.tyb b⟩) ∧
      after .block = ⟨addGroup old.v ((List.range 48).map (fun q =>
        (elemValue t.tya u.l4Int a.v q, elemValue t.tyb u.l4Int b.v q))), old.p || u.blkPois t.tya a || u.blkPois t.tyb b⟩ ∧
      (t.tya ≠ .l4 → t.tyb ≠ .l4 → kPer t.tya = 64 → kPer t.tyb = 64 → after .sparse =
        ⟨(kept (fun q p => (floatElem t.tya a q, floatElem t.tyb b p))).foldl addGroup old.v,
          old.p || (List.range 5).any a.mark || u.mPois t.tyb b⟩)) ∧
    (t.accmode.toNat % 4 ≠ 0 → ints →
      let dots (f : Nat → Int) (per : Nat) : List Int := (List.range 4).map (fun g =>
        ((List.range per).map (fun q => f (per * g + q))).foldl (· + ·) 0)
      let dense := dots (fun q => intElem u t.tya a q * intElem u t.tyb b q) 16
      let sparse := dots (fun q => intElem u t.tya a q * intElem u t.tyb b (keptAt a q)) 8
      after .dense = ⟨(dense.foldl (addInt sat) (old.v, false)).1, old.p || u.mPois t.tya a || u.mPois t.tyb b⟩ ∧
      after .sparse = ⟨(sparse.foldl (addInt sat) (old.v, false)).1, old.p || (List.range 5).any a.mark || u.mPois t.tyb b⟩ ∧
      ((dense.foldl (addInt sat) (old.v, false)).2 = true → (u.mulStep .dense t la lb).satf.get false n = true)) ∧
    (t.tya = .i8 ∨ t.tya = .ui8 ∨ t.tya = .l4 → ∀ col : Bool,
      let l := la.getD (if col then j else i) z
      let sum : Int := ((List.range 64).map (intElem u t.tya l)).foldl (· + ·) 0
      (u.sumLines t col c la).accAt n i j =
        ⟨(addInt sat (old.v, false) (num .i32 c.v * sum)).1, old.p || u.mPois t.tya l || c.p⟩) ∧
    ∀ m < 4, m ≠ n → (∀ k, (u.mulStep k t la lb).accAt m i j = u.accAt m i j) ∧
      ∀ col, (u.sumLines t col c la).accAt m i j = u.accAt m i j) ∧
  (∀ (ty : Ty) (l : MLine) (g : Nat), g < 16 → ty = .t6 ∨ tyWidth ty = 8 →
    let most := outliers 2 ((List.range 4).map (fun i => (i, floatElem ty l (4 * g + i))))
    let kept := (List.range 4).filter (most.contains ·)
    let byte (i : Nat) : Byte × Bool := (compressLine ty l).getD i (0, false)
    (compressLine ty l).length = 64 ∧
    (∀ i < 2, byte (2 * g + i) = (BitVec.ofNat 8 (l.v / 256 ^ (4 * g + kept.getD i 0)), (List.range 8).any l.mark)) ∧
    (kept.length = 2 → (byte (32 + g / 2)).1.toNat / 16 ^ (g % 2) % 16 = kept.getD 0 0 + 4 * kept.getD 1 0) ∧
    (∀ i, 40 ≤ i → i < 64 → byte i = (0, false))) ∧
  ∀ (s : State) (k : Nat) (j : MatJob) (p : MPlan) (t : TOp) (o : MOper),
    let th := (s.coreAt k).thread
    let u := s.unitAt th
    let n := t.acc.toNat
    (s.coreAt k).st = .running → u.mq = [j] → u.gang = false → matPlan j.i = some p → p.pairs.head? = some o →
    let apart (f : Nat → Nat) (rows w : Nat) : Prop :=
      ∀ i < rows, ∀ i' < rows, i ≠ i' → f i + w ≤ f i' ∨ f i' + w ≤ f i
    let outside (r : State) (f : Nat → Nat) (rows w : Nat) : Prop :=
      (∀ x, (∀ i < rows, x < f i ∨ f i + w ≤ x) → lsByte r k x = lsByte s k x) ∧ ∀ c x, c ≠ k → lsByte r c x = lsByte s c x
    (j.i = .mcmp t → ∀ b, p.pairs[1]? = some b →
      ∃ r, exec (.matrixStep k) s = .next r ∧ r.mem = s.mem ∧ (r.unitAt th).acc = u.acc ∧
        outside r (o.addr j.regs j.step) 16 64 ∧ (apart (o.addr j.regs j.step) 16 64 → ∀ i < 16, ∀ x < 64,
          lsByte r k (o.addr j.regs j.step i + x) =
            ((compressLine t.tya (MLine.at (s.coreAt k).ls (b.addr j.regs j.step i))).getD x (0, false)).1)) ∧
    (j.i = .mdrn t → (t.fn.toNat % 8 ≠ 5 ∨ t.fn.getLsbD 5 = true ∨ t.accmode.toNat % 4 = 1 ∧ t.tya.isInt = true) →
      let row (i : Nat) : Nat := o.addr j.regs 0 (4 * j.step + i)
      let w := (tyWidth t.tya + 7) / 8
      let blk := if t.fn.getLsbD 5 && j.bufB.isEmpty then lsGranules (s.coreAt k).ls (vat j.regs 2).v.toNat 10 else j.bufB
      ∃ r, exec (.matrixStep k) s = .next r ∧ r.mem = s.mem ∧ (r.unitAt th).lfsr = u.lfsr ∧ outside r row 4 (16 * w) ∧
        (apart row 4 (16 * w) → ∀ i < 4, ∀ c < 16, ∀ x < w, lsByte r k (row i + w * c + x) =
          BitVec.ofNat 8 ((drained t blk (vat j.regs 3) c (u.accAt n (4 * j.step + i) c)).1 / 256 ^ x)) ∧
        ∀ m < 4, ∀ i < 16, ∀ c < 16, (r.unitAt th).accAt m i c =
          if t.fn.getLsbD 4 = true ∧ m = n ∧ i / 4 = j.step then ⟨0, false⟩ else u.accAt m i c)

/-- Both groups of rules above: `MatrixSteps` and `OtherMatrixSteps`. -/
def Obligations.MatrixStepsAccumulateDotProducts : Prop :=
  MatrixSteps ∧ OtherMatrixSteps


/-- R228. -/
def Sys2Proof.Claims.GlobalOperandLinesArrive : Prop :=
  ∀ (s₀ : State) (k : Nat) (ans : HostAns) (j : MatJob) (p : MPlan),
    let th := (s₀.coreAt k).thread
    let u := s₀.unitAt th
    (s₀.coreAt k).st = .running → u.mq = [j] → matPlan j.i = some p →
    (j.needs p = none → exec (.matrixGlobalRead k ans) s₀ = .next s₀) ∧
    (∀ o, j.needs p = some o → (∀ r ∈ s₀.reqs, r.k ≠ .rdMat) →
      let done := if o.1 then j.bufA.length else j.bufB.length
      let va := BitVec.ofNat 64 (o.2.addr j.regs j.step (done / 8) + 8 * (done % 8))
      let s := s₀.sigWalk u.asid va.toNat
      (s₀.mem.hall = [] → s = s₀) ∧
      (canonical va = true → ∀ t, s.translate u.asid va.toNat = .page t → t.aper = 0 → t.rd = true →
        s.bulkAt u.part u.asid va false ans = .dev t (t.pa va.toNat)) ∧
      (∀ st, s.bulkAt u.part u.asid va false ans = .fail st →
        exec (.matrixGlobalRead k ans) s₀ = .next ((s.logWalk u.part u.asid va.toNat).matDone k th j p st va)) ∧
      (∀ t pa, s.bulkAt u.part u.asid va false ans = .dev t pa →
        let b := s.bulkRead u.asid u.part va 64 false (.dev t pa)
        let run := if u.gang then (b.1.heldView th u.key j.seq).runAt pa 64 else b.2
        ∃ r j', exec (.matrixGlobalRead k ans) s₀ = .next r ∧ (r.unitAt th).mq = [j'] ∧
          (o.1 = true → j'.bufA = j.bufA ++ lineVals run t.et ∧ j'.bufB = j.bufB) ∧
          (o.1 = false → j'.bufB = j.bufB ++ lineVals run t.et ∧ j'.bufA = j.bufA) ∧
          j'.step = j.step))

/-- Both groups of rules above: `MatrixOperationsIssue` and `GlobalOperandLinesArrive`. -/
def Obligations.MatrixOperationsIssueAndRead : Prop :=
  MatrixOperationsIssue ∧ GlobalOperandLinesArrive



/-! ## Engines and timelines -/

/-- The state after an engine command with operation k: sources read, the number it takes written to GA, the operation
outstanding; an operation of no bytes ends at once with status 0. -/
def Sys2Proof.Claims.engEntered (s : State) (t : TOp) (srcs : List SrcOp) (k : OpKind) (held : Bool) (empty : Bool) (tag : Option Word) : State :=
  let no := (s.tlAt s.th t.tl.toNat).iss + 1
  let u := (s.takeAll srcs).writeDst ⟨BitVec.ofNat 64 no, false⟩ t.ga
  let o := u.newOp s.th s.ctx t.tl.toNat k (t.notify.getLsbD 0) held
  let u := if o.2.2 && empty then o.1.opDone s.th t.tl.toNat o.2.1 0 0 0 else o.1
  let u := match tag with | some g => u.modThr s.th (·.collNext g) | none => u
  u.retire.drain s.core

/-- The three registers of an engine command. -/
def Sys2Proof.Claims.engSrcs (t : TOp) : List SrcOp := [(t.gb, false), (t.gc, false), (t.gd, false)]

/-- R246, R247, R256. That a COLL with a bad descriptor traps C03 whatever its ranges and alignment, one outside the local store included, and
that the descriptor's poison is ignored there, is the model's choice (DEDUCED, log 28). -/
def Obligations.EngineCommandsIssue : Prop :=
  ∀ (s : State) (t : TOp) (op : CollOp) (x y z : Val) (n : Nat),
    let dsp := engSpace (t.osrc.toNat % 4)
    let ssp := engSpace (t.osrc.toNat / 4)
    let row := 2 ^ (t.fn.toNat % 16)
    let rows := t.kcnt.toNat
    let held := s.un.gang && (dsp == .glob || (dsp == .mra && !(mraThread x.v == s.th && mraChip x.v == s.peer)))
    let span (sp : ESpace) (a : Word) : Prop := match sp with
      | .ls => a.toNat + n ≤ 0x30000
      | .cl => a.toNat < 2 ^ 24 ∧ a.toNat % 2 ^ 18 + n ≤ 0x30000
      | .glob => canonical a = true ∧ a.toNat + n - 1 < 2 ^ 64 ∧ canonical (BitVec.ofNat 64 (a.toNat + n - 1)) = true
      | .mra => True
    (s.runs = true → (s.owesAll = true ∨ 256 ≤ (s.thr s.th).ops.length) → let w : Out := .next (s.waits .engines)
      exec (.cpy t) s = w ∧ exec (.gath t) s = w ∧ exec (.scat t) s = w ∧ exec (.coll op t) s = w) ∧
    (s.owesAll = false → (s.thr s.th).ops.length < 256 → (s.un.phased && !s.un.exchange) = false →
      (Ready s (t.kcnt.zeroExtend 64) (engSrcs t) (some t.ga) [x, y, z] → n = z.v.toNat →
        (x.p = true → exec (.cpy t) s = .next (s.consume (cz (if dsp = .mra then 0xA04 else 0xA03)) s.cx.pc)) ∧
        (x.p = false → y.p = false → z.p = false →
          (2 ^ 32 < n ∨ dsp = .mra ∧ n ≠ 8 → exec (.cpy t) s = .next (s.trap (cz 0xC02) s.cx.pc z.v)) ∧
          (n ≤ 2 ^ 32 → (dsp = .mra → n = 8 ∧ y.v.toNat % 8 = 0 ∧ MraOk s x) → (n ≠ 0 → span dsp x.v ∧ span ssp y.v) →
            exec (.cpy t) s = .next (engEntered s t (engSrcs t) (.cpy dsp ssp x.v y.v n) held (n == 0) none)))) ∧
      (Ready s 0 (engSrcs t) (some t.ga) [x, y, z] →
        ((x.p || y.p || z.p) = true → exec (.gath t) s = .next (s.consume (cz 0xA03) s.cx.pc) ∧
          exec (.scat t) s = .next (s.consume (cz 0xA03) s.cx.pc) ∧
          exec (.coll op t) s = .next (s.consume (cz 0xA03) s.cx.pc)) ∧
        (rowChk s dsp ssp false (row * rows) rows [x, y, z] = none → exec (.gath t) s =
          .next (engEntered s t (engSrcs t) (.gath dsp ssp x.v y.v z.v row rows) held (row * rows == 0) none)) ∧
        (rowChk s dsp ssp true (row * rows) rows [x, y, z] = none → exec (.scat t) s =
          .next (engEntered s t (engSrcs t) (.scat dsp ssp x.v y.v z.v row rows) held (row * rows == 0) none)) ∧
        (∀ d m, x.p = false → y.p = false → z.p = false → z.v.toNat % 64 = 0 → dsp = .glob → ssp = .glob →
          collDesc (s.lsOf s.core) z.v.toNat (handle s.peer s.th s.un.key) = some d →
          n = tyWidth t.tya / 8 * collDst op d → (n ≠ 0 → span .glob x.v) → m = tyWidth t.tya / 8 * collSrc op d →
          (m ≠ 0 → canonical y.v = true ∧ y.v.toNat + m - 1 < 2 ^ 64 ∧
            canonical (BitVec.ofNat 64 (y.v.toNat + m - 1)) = true) →
          exec (.coll op t) s = .next (engEntered s t (engSrcs t)
            (.coll op t.tya .glob .glob x.v y.v d ((s.thr s.th).collNo d.tag) 0) held false (some d.tag))) ∧
        (x.p = false → y.p = false → z.p = false → dsp = .glob → ssp = .glob → collDesc (s.lsOf s.core) z.v.toNat (handle s.peer s.th s.un.key) = none →
          exec (.coll op t) s = .next (s.trap (cz 0xC03) s.cx.pc z.v))))

/-- R250, R251, R255. -/
def Sys2Proof.Claims.TimelinesCountCompletions : Prop :=
  (∀ (t : Timeline) (n st : Nat) (a : Word) (k : Nat), t.comp < n → (∀ m ∈ t.done, t.comp < m) → t.comp + 1 ∉ t.done →
    let u := t.finish n st a k
    t.comp ≤ u.comp ∧ u.comp + 1 ∉ u.done ∧ (∀ m, t.comp < m → m ≤ u.comp → m = n ∨ m ∈ t.done) ∧
    (∀ m, m ∈ u.done ↔ (m = n ∨ m ∈ t.done) ∧ u.comp < m) ∧ u.iss = t.iss ∧
    (st = 0 → u.status = t.status ∧ u.errNo = t.errNo ∧ u.errAddr = t.errAddr ∧ u.errStep = t.errStep ∧ u.qpErr = t.qpErr) ∧
    (st ≠ 0 → t.status = 0 → u.status = st ∧ u.errNo = n ∧ u.errAddr = a ∧ u.errStep = k) ∧
    (t.status ≠ 0 → u.status = t.status ∧ u.errNo = t.errNo ∧ u.errAddr = t.errAddr ∧ u.errStep = t.errStep) ∧
    (u.qpErr = true ↔ t.qpErr = true ∨ st ≠ 0 ∧ st ≠ 6)) ∧
  ∀ (s : State) (t c tl : Nat) (k : OpKind) (uf g : Bool),
    let o := s.newOp t c tl k uf g
    o.2.1 = (s.tlAt t tl).iss + 1 ∧ (o.1.tlAt t tl).iss = (s.tlAt t tl).iss + 1 ∧
    ((s.tlAt t tl).qpErr = false → o.2.2 = true ∧ ∃ p, (o.1.thr t).ops = (s.thr t).ops ++ [p] ∧ p.no = o.2.1 ∧ p.tl = tl ∧
      p.k = k ∧ p.ctx = c ∧ p.heldGang = g) ∧
    ((s.tlAt t tl).qpErr = true → (∀ p ∈ (s.thr t).ops, ¬ (p.tl = tl ∧ p.no = o.2.1)) → o.2.2 = false ∧
      (o.1.thr t).ops = (s.thr t).ops) ∧
    (∀ j, j ≠ t → o.1.thr j = s.thr j) ∧ o.1.mem = s.mem ∧
    (∀ j, (o.1.unitAt j).ctxs = (s.unitAt j).ctxs) ∧ ((s.tlAt t tl).qpErr = false → o.1.units = s.units ∧ o.1.cores = s.cores)

/-- R258 to R261. -/
def Sys2Proof.Claims.TimelineInstructionResults : Prop :=
  ∀ (s : State) (tl f : BitVec 3) (o : Src) (d a : Opd) (ta : Bool) (imm : BitVec 16) (v w : Val),
    let t := s.tlAt s.th tl.toNat
    let n := v.v.toNat
    let heldTo := (s.thr s.th).ops.any (fun o => o.tl == tl.toNat && o.no ≤ n && o.heldGang)
    (Ready s (sx16 o.imm) [(o.a, o.ta)] none [v] →
      (t.iss < n → exec (.tlwait tl o) s = .next (s.trap (cz 0xC01) s.cx.pc v.v)) ∧
      (n ≤ t.iss → n ≤ t.comp → exec (.tlwait tl o) s = .next ((s.takeAll [(o.a, o.ta)]).retire.drain s.core)) ∧
      (n ≤ t.iss → t.comp < n → heldTo = false → exec (.tlwait tl o) s = .next (s.waits .tlwait)) ∧
      (n ≤ t.iss → t.comp < n → heldTo = true → exec (.tlwait tl o) s = .next (s.trap (cz 0xC04) s.cx.pc v.v))) ∧
    (Ready s 0 [] (some d) [] → exec (.tlread d tl f) s = .next (after s [] d ⟨match f.toNat with
      | 0 => BitVec.ofNat 64 t.iss
      | 1 => BitVec.ofNat 64 t.comp
      | 2 => BitVec.ofNat 64 (t.status + (if t.qpErr then 256 else 0))
      | 3 => BitVec.ofNat 64 t.errNo
      | 4 => t.errAddr
      | 5 => BitVec.ofNat 64 t.errStep
      | _ => 0, false⟩)) ∧
    (Ready s (sx16 imm) [(d, false), (a, ta)] none [v, w] → (s.thr s.th).ops.length < 256 → s.threadOwes s.th = false →
      (v.p = true → exec (.tlnote d a ta imm tl) s = .next (s.consume (cz 0xA04) s.cx.pc)) ∧
      (MraOk s v → exec (.tlnote d a ta imm tl) s = .next ((((s.takeAll [(d, false), (a, ta)]).newOp s.th s.ctx tl.toNat
        (.note v.v w) false (s.un.gang && !(mraThread v.v == s.th && mraChip v.v == s.peer))).1.retire).drain s.core))) ∧
    (Ready s 0 [] none [] →
      ((s.thr s.th).ops.any (·.tl == tl.toNat) = true → exec (.fqprst tl) s = .next (s.waits .fqprst)) ∧
      ((s.thr s.th).ops.any (·.tl == tl.toNat) = false → exec (.fqprst tl) s = .next (((s.setTl s.th tl.toNat
        { t with status := 0, errNo := 0, errAddr := 0, errStep := 0, qpErr := false }).retire).drain s.core)))

/-- Both groups of rules above: `TimelinesCountCompletions` and `TimelineInstructionResults`. -/
def Obligations.TimelinesCountAndReport : Prop :=
  TimelinesCountCompletions ∧ TimelineInstructionResults


/-- n bytes from pa hold nothing of the tables that the package keeps itself: the thread location table, the slots and the address-space
entries (R336, R337). -/
def Sys2Proof.Claims.outsideTables (s : State) (pa n : Nat) : Prop :=
  (pa + n ≤ s.tltBase ∨ s.tltBase + 32 * 2 ^ s.tltLog ≤ pa) ∧ (pa + n ≤ s.slotBase ∨ s.slotBase + 16 * 4096 ≤ pa) ∧
  (pa + n ≤ s.asBase ∨ s.asBase + 64 * 65536 ≤ pa)

/-- R248 to R251, R256, R260. The order in which the members' elements are combined is an argument of COLL_MATCH (the model's choice, log 27). -/
def Sys2Proof.Claims.EngineAccessesMoveBytes : Prop :=
  (∀ (s : State) (t i : Nat) (ans : HostAns) (o : EngOp) (dst src : Word) (len : Nat), (s.thr t).ops[i]? = some o →
    (s.thr t).ops.find? (·.is o.tl o.no) = some o →
    let e := s.thr t
    let from_ := src + BitVec.ofNat 64 (o.pos + o.buf.length)
    let n := min (len - o.pos - o.buf.length) (64 - from_.toNat % 64)
    let to_ := dst + BitVec.ofNat 64 o.pos
    let run := min o.buf.length (64 - to_.toNat % 64)
    let w := if len - o.pos - o.buf.length = 0 then run else run - (to_.toNat + run) % 8
    let piece := o.buf.take w
    (s.engReady t o = false → exec (.engineAccess t i ans) s = .next s) ∧
    (o.k = .cpy .glob .glob dst src len → s.engReady t o = true → (∀ pa, s.viewOf pa = none) → s.views = [] →
      (w = 0 →
        let r₁ := s.sigWalk e.asid from_.toNat
        (∀ st, r₁.bulkAt e.part e.asid from_ false ans = .fail st →
          exec (.engineAccess t i ans) s = .next ((r₁.logWalk e.part e.asid from_.toNat).opDone t o.tl o.no st from_ 0)) ∧
        (∀ tr pa, s.bulkAt e.part e.asid from_ false ans = .dev tr pa → s.mem.hall = [] → outsideTables s pa n →
          ∃ r, exec (.engineAccess t i ans) s = .next r ∧ r.mem = s.mem ∧
            ∃ o' ∈ (r.thr t).ops, o'.buf = o.buf ++ s.mem.runAt pa n ∧ o'.pos = o.pos ∧ o'.no = o.no ∧ o'.tl = o.tl)) ∧
      (w ≠ 0 →
        let r₁ := s.sigWalk e.asid to_.toNat
        (∀ st, r₁.bulkAt e.part e.asid to_ true ans = .fail st →
          exec (.engineAccess t i ans) s = .next ((r₁.logWalk e.part e.asid to_.toNat).opDone t o.tl o.no st to_ 0)) ∧
        (∀ tr pa, s.bulkAt e.part e.asid to_ true ans = .dev tr pa → s.mem.hall = [] → o.hm = none → outsideTables s pa w →
          ∃ r, exec (.engineAccess t i ans) s = .next r ∧
            (∀ a, a < pa ∨ pa + w ≤ a → Memory.byte r.mem.bytes a = Memory.byte s.mem.bytes a) ∧
            (∀ b < w, some (Memory.byte r.mem.bytes (pa + b)) = (piece[b]?).map (·.1)) ∧
            ∃ o' ∈ (r.thr t).ops, o'.pos = o.pos + w ∧ o'.buf = o.buf.drop w ∧ o'.no = o.no ∧ o'.tl = o.tl))) ∧
    (o.allMoved = true → exec (.engineOpComplete t i) s = .next (s.opDone t o.tl o.no 0 0 0)) ∧
    (o.allMoved = false → exec (.engineOpComplete t i) s = .next s) ∧
    (∀ m v, o.k = .note m v → o.heldGang = false → o.sent = false →
      ((s.tlAt t o.tl).comp + 1 ≠ o.no ∨ s.threadBefore t o.seq = true → exec (.tlnoteLand t i) s = .next s) ∧
      ((s.tlAt t o.tl).comp + 1 = o.no → s.threadBefore t o.seq = false → ∃ r g, exec (.tlnoteLand t i) s = .next r ∧
        r.flight = s.flight ++ [g] ∧ g.mra = m ∧ g.val = v ∧ g.sthread = t ∧ g.tl = some (o.tl, o.no)))) ∧
  ∀ (s : State) (tag : Word) (order : List Nat) (away : Away),
    ((∀ e ∈ s.threads, ∀ p ∈ e.2.ops, ∀ op ty a b x y d turn ph, p.k = .coll op ty a b x y d turn ph → d.tag ≠ tag) →
      exec (.collMatch tag (order, away)) s = .next s) ∧
    (∃ r, exec (.collMatch tag (order, away)) s = .next r ∧ r.mem = s.mem ∧ ∀ j, (r.unitAt j).ctxs = (s.unitAt j).ctxs) ∧
    (∀ t o op ty a b x y d turn ph, s.threads.flatMap (fun e => e.2.ops.map (e.1, ·)) = [(t, o)] → o.heldGang = false →
      o.k = .coll op ty a b x y d turn ph → d.tag = tag → order.length = d.n → (∀ k < d.n, k ∈ order) →
      exec (.collMatch tag (order, away)) s = .next (s.collTurn d o.k turn order away)) ∧
    ∀ (d : CollDesc) (op : CollOp) (ty : Ty) (dsp ssp : ESpace) (dst src : Word) (d' : CollDesc) (n ph turn : Nat),
      let k := OpKind.coll op ty dsp ssp dst src d' n ph
      let ops := (d.members.zip (List.range d.n)).filterMap (fun m =>
        (s.collOf (mraThread m.1) d.tag turn).map (fun o => (mraThread m.1, m.2, o)))
      let moved (r : State) (f : Nat → EngOp → EngOp) : Prop := (∀ e ∈ ops, (r.thr e.1).ops =
        modFirst (·.is e.2.2.tl e.2.2.no) (f e.2.1) (s.thr e.1).ops) ∧ ∀ t, t ∉ ops.map (·.1) → r.thr t = s.thr t
      let agreed : Prop := (∀ m ∈ d.members, s.collLost m d.tag turn = false) ∧ ∀ e ∈ ops, collSame e.2.2.k k = true
      d.members.length = d.n → (d.members.map mraThread).Nodup → (∀ m ∈ d.members, mraChip m = s.peer) →
      (¬ agreed → (∀ e ∈ ops, e.2.2.k.ph ≠ 2) → s.collTurn d k turn order away =
        ops.foldl (fun s e => s.opDone e.1 e.2.2.tl e.2.2.no 9 0 0) s) ∧
      (agreed → ops.length < d.n → s.collTurn d k turn order away = s) ∧
      (agreed → ops.length = d.n → d.n ≠ 0 →
        ((∀ e ∈ ops, e.2.2.k.ph = 0) → moved (s.collTurn d k turn order away)
          (fun _ o => { o with k := o.k.phase 1, pos := 0, buf := [] })) ∧
        ((∀ e ∈ ops, e.2.2.k.ph = 1 ∧ e.2.2.sent = false ∧ e.2.2.pos = e.2.2.k.total) →
          moved (s.collTurn d k turn order away) (fun rank o => { o with
            k := o.k.phase 2, pos := 0, buf := collResult op ty d order (ops.map (·.2.2.buf)) rank })))

/-- R256: what a collective computes. -/
def Sys2Proof.Claims.CollectivesCombine : Prop :=
  (∀ (ty : Ty) (xs : List (Nat × Bool)), ty.isInt = true → xs ≠ [] →
    let w := tyWidth ty
    let any := xs.any (·.2)
    collElem .allred ty xs = ((xs.map (·.1)).foldl (· + ·) 0 % 2 ^ w, any) ∧
    collElem .redscat ty xs = collElem .allred ty xs ∧
    (collElem .allmax ty xs).2 = any ∧
    (∀ x ∈ xs, intOf w true x.1 ≤ intOf w true (collElem .allmax ty xs).1) ∧
    (∃ x ∈ xs, intOf w true x.1 = intOf w true (collElem .allmax ty xs).1)) ∧
  ∀ (ty : Ty) (d : CollDesc) (order : List Nat) (srcs : List (List (Byte × Bool))) (r : Nat),
    let w := tyWidth ty / 8
    let n := w * d.count
    let element (op : CollOp) (i : Nat) : List (Byte × Bool) :=
      let c := collElem op ty (order.map (fun k => runElem (srcs.getD k []) w i))
      (natLine w c.1).map (·, c.2)
    collResult .bcast ty d order srcs r = srcs.getD d.root [] ∧
    collResult .allgath ty d order srcs r = srcs.flatten ∧
    collResult .alltoall ty d order srcs r = (srcs.map (fun l => (l.drop (n * r)).take n)).flatten ∧
    collResult .allred ty d order srcs r = ((List.range d.count).map (element .allred)).flatten ∧
    collResult .allmax ty d order srcs r = ((List.range d.count).map (element .allmax)).flatten ∧
    collResult .redscat ty d order srcs r =
      ((List.range d.count).map (fun e => element .redscat (r * d.count + e))).flatten

/-- Both groups of rules above: `EngineAccessesMoveBytes` and `CollectivesCombine`. -/
def Obligations.EnginesMoveAndCombine : Prop :=
  EngineAccessesMoveBytes ∧ CollectivesCombine



/-! ## Helpers, tasks, tile buffers, spans and levels -/

/-- The assay of a UEXIT or HEXIT agrees: unarmed, or the CRC fed with the instruction is the expected one (R286). -/
def Sys2Proof.Claims.EndSigOk (s : State) : Prop := s.cx.assay.armed = false ∨ (s.cx.assay.feed s.ir).c = s.cx.assay.e

/-- A helper of the acting unit is live. -/
def Sys2Proof.Claims.HelperLive (s : State) : Prop := ∃ e ∈ s.un.ctxs, e.1 ≠ 0 ∧ e.2.live = true

/-- R262: the helper instructions. That HEXIT of a control context traps D05 whatever its signature is the model's choice (DEDUCED, log 53). -/
def Obligations.HelperInstructions : Prop :=
  ∀ (s : State) (a : Src) (off : BitVec 32) (v : Val),
    let h := v.v.toNat
    let srcs := [(a.a, a.ta)]
    let pc := s.cx.pc
    let trap (c : Nat) : Out := .next (s.trap (cz c) pc pc)
    let fresh (t : State) : State := { t with nextReq := t.nextReq + 1 }
    (Ready s (sx16 a.imm) srcs none [v] →
      (v.p = true → exec (.start a off) s = .next (s.consume (cz 0xA08) pc) ∧
        exec (.hjoin a) s = .next (s.consume (cz 0xA02) pc)) ∧
      (v.p = false → h < 1 ∨ 10 < h → exec (.start a off) s = trap 0xD01 ∧ exec (.hjoin a) s = trap 0xD01) ∧
      (v.p = false → 1 ≤ h → h ≤ 10 → (s.un.ctxAt h).live = true → exec (.start a off) s = trap 0xD02 ∧
        (h ≠ s.ctx → exec (.hjoin a) s = .next (s.waits .hjoin))) ∧
      (v.p = false → 1 ≤ h → h ≤ 10 → h = s.ctx → exec (.hjoin a) s = trap 0xD06) ∧
      (v.p = false → 1 ≤ h → h ≤ 10 → (s.un.ctxAt h).live = false →
        exec (.start a off) s = .next (((((fresh (s.takeAll srcs)).orphanInvs s.th (· == h)).modCtx s.th h (fun _ => { Ctx.reset with
          born := (s.takeAll srcs).nextReq + 1, live := true, pc := pc + off.signExtend 64 * 4, uvec := (s.un.ctxAt 0).uvec })).retire).drain s.core) ∧
        (h ≠ s.ctx → exec (.hjoin a) s = .next ((s.takeAll srcs).retire.drain s.core)))) ∧
    (Ready s 0 [] none [] →
      (s.ctx = 0 → exec .hexit s = trap 0xD05) ∧
      (s.ctx ≠ 0 → ¬ EndSigOk s → exec .hexit s = .next ((s.sigFault pc pc).drain s.core)) ∧
      (s.ctx ≠ 0 → EndSigOk s → (∀ k, (s.coreAt k).lbuf = []) →
        ∃ t, exec .hexit s = .next t ∧ (t.unitAt s.th).ctxAt s.ctx = .reset ∧
          (t.thr s.th).notices.get [] s.ctx = [] ∧
          ∀ c, c ≠ s.ctx → (t.unitAt s.th).ctxAt c = s.un.ctxAt c))

/-- R266, R267, R276 to R278. That a helper's UEXIT traps D05 before its signature is judged (DEDUCED, log 53), and that YIELD asks for a halt
at any candidate, whatever its level (DEDUCED, log 55), are the model's choice. -/
def Obligations.UnitSpanAndLevelInstructions : Prop :=
  ∀ (s : State) (d : Opd) (lvl : BitVec 16),
    let pc := s.cx.pc
    let trap (c : Nat) : Out := .next (s.trap (cz c) pc pc)
    let done (t : State) : Out := .next (t.drain s.core)
    (Ready s 0 [] none [] →
      (s.ctx ≠ 0 → exec .uexit s = trap 0xD05 ∧ exec .yield s = trap 0xD05 ∧ exec .gbar s = trap 0xD05) ∧
      (s.ctx = 0 →
        (¬ EndSigOk s → exec .uexit s = done (s.sigFault pc pc)) ∧
        (EndSigOk s → HelperLive s →
          exec .uexit s = done ((s.setCx { s.cx with assay := s.cx.assay.disarm }).waits .uexit)) ∧
        (EndSigOk s → ¬ HelperLive s → s.instOf s.th = none → (s.thr s.th).loc = s.core → (s.thr s.th).hold = [] →
          (∀ k, (s.coreAt k).lbuf = []) →
          ∃ t, exec .uexit s = .next t ∧ (t.thr s.th).st = .closed ∧ (t.thr s.th).freed = true ∧
            (t.coreAt s.core).st = .idle ∧ ∀ j, j ≠ s.th → t.thr j = s.thr j) ∧
        (s.un.gang = true ∨ s.un.phased = true → exec .yield s = trap 0xD0F) ∧
        (s.un.gang = false → s.un.phased = false →
          (s.retire.recs.any (s.retire.candidate s.core) = false → exec .yield s = done s.retire) ∧
          (s.retire.recs.any (s.retire.candidate s.core) = true →
            exec .yield s = done (s.retire.askHalt s.core .slice))) ∧
        (s.un.gang = false → exec .gbar s = trap 0xD0C) ∧
        (s.un.gang = true → HelperLive s → exec .gbar s = trap 0xD03) ∧
        (s.un.gang = true → ¬ HelperLive s →
          exec .gbar s = done ((s.setUn { s.un with arrived := true }).waits .gbar))) ∧
      (s.un.phased = true → s.un.exchange = false →
        exec .spanx s = done (s.setUn { s.un with exchange := true }).retire ∧ exec .spanc s = trap 0xD0E) ∧
      (s.un.phased = true → s.un.exchange = true →
        exec .spanc s = done (s.setUn { s.un with exchange := false }).retire ∧ exec .spanx s = trap 0xD0E) ∧
      (s.un.phased = false → exec .spanx s = trap 0xD0E ∧ exec .spanc s = trap 0xD0E) ∧
      (lvl.toNat ≤ 3 → exec (.cancel lvl) s = done (s.retire.cancel s.un.part lvl.toNat (s.levelId lvl.toNat))) ∧
      (3 < lvl.toNat → exec (.cancel lvl) s = trap 0xD0F)) ∧
    (Ready s 0 [] (some d) [] →
      let l := s.launchAt (inPart s.un.part s.un.launch)
      let word (count : Nat) (canc : Bool) : Word := BitVec.ofNat 64 (count % 2 ^ 40 + if canc then 2 ^ 63 else 0)
      let put (n : Nat) (w : Word) : Prop := lvl.toNat = n → exec (.lcnt d lvl) s = .next (after s [] d ⟨w, false⟩)
      let level (t : Tab Machine.Level) (id : Nat) : Machine.Level := t.get .reset (inPart s.un.part id)
      put 0 (word l.count l.canc) ∧
      put 1 (word (level s.graphs l.graph).count (level s.graphs l.graph).canc) ∧
      put 2 (word (level s.phases l.phase).count (level s.phases l.phase).canc) ∧
      put 3 (word (level s.jobs l.job).count (level s.jobs l.job).canc) ∧
      (3 < lvl.toNat → exec (.lcnt d lvl) s = trap 0xD0F))

/-- What R263 asks of a POST or a SUSP before it waits or acts: affinity, mask and requirements as read. -/
def Sys2Proof.Claims.PostOk (s : State) (p : PostOp) (susp : Bool) (aff mask : Val) (reqs : List Val) : Prop :=
  let m := mask.v.toNat
  s.un.phased = false ∧ (susp = true → s.ctx = 0 ∧ s.un.gang = false ∧ ¬ HelperLive s) ∧
  aff.p = false ∧ mask.p = false ∧ (∀ q ∈ reqs, q.p = false ∧ tbRole q.v ≠ 3) ∧
  m % 2 = 0 ∧ m < 2 ^ 32 ∧ ((List.range 64).filter m.testBit).length ≤ 16 ∧ reqBeyond p.mask p.ntb.toNat = false ∧
  (susp = true → ∀ n < 32, m.testBit n = true → (s.cx.reg n).depth = 0) ∧ canonical aff.v = true

/-- R263 to R265: tasks that leave a record. -/
def Obligations.TasksLeaveRecords : Prop :=
  ∀ (s : State) (p : PostOp) (aff mask : Val) (reqs : List Val),
    Ready s (p.imm.zeroExtend 64) (postSrcs p) none (aff :: mask :: reqs) →
    let pc := s.cx.pc
    let trap (c : Nat) : Out := .next (s.trap (cz c) pc pc)
    let t := s.takeAll (postSrcs p)
    let vs := aff :: mask :: reqs
    let u := s.un
    let key := inPart u.part u.launch
    let l := s.launchAt key
    let live := liveList (mask.v.truncate 32)
    let img (susp : Bool) : RecImg := t.postImg p vs susp
    (s.ctx ≠ 0 → exec (.susp p) s = trap 0xD05) ∧
    (s.ctx = 0 → u.gang = true ∨ u.phased = true → exec (.susp p) s = trap 0xD0F) ∧
    (u.phased = true → exec (.post p) s = trap 0xD0F) ∧
    (∀ b, (img b).pc = pc + p.off.signExtend 64 * 4 ∧ (img b).live = mask.v.truncate 32 ∧ (img b).aff = aff.v ∧
      (img b).uidx = u.uidx ∧ (img b).tbreq = reqs.map (·.v) ∧ (img b).ntb = p.ntb.toNat ∧
      (img b).vals = live.map (fun n => match (t.cx.reg n).head with | some v => v.v | none => (t.cx.reg n).v)) ∧
    (PostOk s p false aff mask reqs →
      ((∃ n ∈ live, (t.cx.reg n).head = none) → exec (.post p) s = .next ((s.waits .reg).drain s.core)) ∧
      ((∀ n ∈ live, (t.cx.reg n).head ≠ none) →
        (l.cut = true → exec (.post p) s = .next (t.retire.drain s.core)) ∧
        (l.cut = false → s.freeFrame u.part = none → exec (.post p) s = .next ((s.waits .frame).drain s.core)) ∧
        (∀ f, l.cut = false → s.freeFrame u.part = some f →
          let r := t.postRec (img false) .posted f
          exec (.post p) s = .next (((((t.setLaunch key { l with count := l.count + 1 }).addRec r).writeFrame r r.nat).retire).drain
            s.core) ∧
          r.k = .posted ∧ r.frame = f ∧ r.launch = u.launch ∧ r.key = 0 ∧ (u.gang = false → r.thread = 0)))) ∧
    (PostOk s p true aff mask reqs →
      ((u.vq ≠ [] ∨ u.mq ≠ []) → exec (.susp p) s = .next ((s.waits .unitIdle).drain s.core)) ∧
      (u.vq = [] → u.mq = [] → s.freeFrame u.part = none → exec (.susp p) s = .next ((s.waits .frame).drain s.core)) ∧
      (∀ f, u.vq = [] → u.mq = [] → s.freeFrame u.part = some f → (s.coreAt s.core).lbuf = [] →
        ∃ t' r, exec (.susp p) s = .next t' ∧ r ∈ t'.recs ∧ r.k = .suspended ∧ r.frame = f ∧ r.thread = s.th ∧
          r.key = u.key ∧ r.img = img true ∧ (t'.thr s.th).st = .suspended ∧ (t'.coreAt s.core).st = .idle))

/-- R272 to R275: the tile-buffer instructions. That 30A and 30B report the base and TBSTAT's 30C the index, and that setting a valid empty
descriptor empty keeps its base and size, are the model's choice (DEDUCED, log 54; DESIGN CHOICE, log 92). -/
def Obligations.TileBufferInstructions : Prop :=
  (∀ (l : List Blk) (k : Nat),
    (allocBlk l k = none ↔ ∀ b ∈ l, b.used = true ∨ b.lg < k) ∧
    ∀ l' off, allocBlk l k = some (l', off) → ∃ b ∈ l, b.used = false ∧ k ≤ b.lg ∧ off = b.off ∧ ⟨off, k, true⟩ ∈ l' ∧
      ∀ c ∈ l, c.used = false → k ≤ c.lg → b.lg < c.lg ∨ (b.lg = c.lg ∧ b.off ≤ c.off)) ∧
  ∀ (s : State) (o : Un) (a : Src) (st : BufState) (i b : Opd) (ti tb : Bool) (imm : BitVec 16) (v w : Val),
    let pc := s.cx.pc
    let u := s.un
    let trap (c : Nat) (x : Word) : Out := .next (s.trap (cz c) pc x)
    (Ready s (sx16 o.imm) [(o.a, o.ta)] (some o.d) [v] →
      let put (x : Word) : State := (s.takeAll [(o.a, o.ta)]).writeDst ⟨x, false⟩ o.d
      (v.p = true → exec (.tballoc o) s = .next (s.consume (cz 0xA03) pc)) ∧
      (v.p = false → (∀ k, 8 ≤ k → k ≤ 16 → v.v.toNat ≠ 2 ^ k) → exec (.tballoc o) s = trap 0x309 v.v) ∧
      (v.p = false → ∀ k, 8 ≤ k → k ≤ 16 → v.v.toNat = 2 ^ k →
        (allocBlk u.alloc k = none → exec (.tballoc o) s = .next ((put (BitVec.allOnes 64)).retire.drain s.core)) ∧
        (∀ l x, allocBlk u.alloc k = some (l, x) → exec (.tballoc o) s = .next
          ((((put (BitVec.ofNat 64 x)).setUn { (put (BitVec.ofNat 64 x)).un with alloc := l }).retire).drain s.core))) ∧
      (31 < v.v.toNat → exec (.tbstat o) s = trap 0x30C v.v) ∧
      (v.v.toNat ≤ 31 →
        let x := u.bufs.get .reset v.v.toNat
        exec (.tbstat o) s = .next (after s [(o.a, o.ta)] o.d ⟨BitVec.ofNat 64 ((if x.v then 2 ^ 24 else 0) +
          (match x.st with | .empty => 0 | .filling => 1 | .full => 2 | .draining => 3) * 2 ^ 22 +
          x.size % 16 * 2 ^ 18 + x.base % 2 ^ 18), false⟩))) ∧
    (Ready s (sx16 a.imm) [(a.a, a.ta)] none [v] →
      let n := v.v.toNat
      let t := s.takeAll [(a.a, a.ta)]
      let held := ∃ e ∈ u.bufs, e.2.v = true ∧ e.2.base = n ∧ e.2.st ≠ .empty
      (v.p = true → exec (.tbfree a) s = .next (s.consume (cz 0xA03) pc)) ∧
      (v.p = false → u.blockAt n = none ∨ held → exec (.tbfree a) s = trap 0x30A v.v) ∧
      (v.p = false → u.blockAt n ≠ none → ¬ held → exec (.tbfree a) s = .next ((t.setUn { t.un with
        alloc := freeBlk u.alloc n
        bufs := u.bufs.map (fun e => if e.2.v && e.2.base == n then (e.1, Buf.reset) else e) }).retire.drain s.core))) ∧
    (Ready s (sx16 imm) [(i, ti), (b, tb)] none [v, w] →
      let n := v.v.toNat
      let x := u.bufs.get .reset n
      let t := s.takeAll [(i, ti), (b, tb)]
      let fresh := x.v = false ∨ x.st = .empty
      let e : Instr := .tbset st i ti b tb imm
      let wrong := (st = .draining ∧ fresh) ∨ (x.v = true ∧ x.st = .filling ∧ st = .draining) ∨
        (x.v = true ∧ x.st = .full ∧ st = .filling) ∨ (x.v = true ∧ x.st = .draining ∧ (st = .filling ∨ st = .full))
      let set (y : Buf) : Out := .next ((t.setUn { t.un with bufs := t.un.bufs.set n y }).retire.drain s.core)
      (v.p = true → exec e s = .next (s.consume (cz 0xA02) pc)) ∧
      (v.p = false → w.p = true → exec e s = .next (s.consume (cz 0xA03) pc)) ∧
      (v.p = false → w.p = false → 31 < n → exec e s = trap 0x30C v.v) ∧
      (v.p = false → w.p = false → n ≤ 31 →
        (fresh → u.blockAt w.v.toNat = none → exec e s = trap 0x30A w.v) ∧
        (¬ fresh → x.base ≠ w.v.toNat → exec e s = trap 0x30B w.v) ∧
        (fresh → ∀ k, u.blockAt w.v.toNat = some k →
          (wrong → exec e s = trap 0x30B w.v) ∧
          (¬ wrong → ¬ (x.v = true ∧ st = .empty) → exec e s = set ⟨true, st, k.lg - 8, w.v.toNat⟩) ∧
          (x.v = true → st = .empty → exec e s = .next (t.retire.drain s.core))) ∧
        (¬ fresh → x.base = w.v.toNat → (wrong → exec e s = trap 0x30B w.v) ∧
          (¬ wrong → exec e s = set { x with st := st }))))


/-! ## Stages -/

/-- ENQ or ENQW completes with a status: its sources taken, no record of the context waits, retired. -/
def Sys2Proof.Claims.enqEnds (s : State) (srcs : List SrcOp) (d : Opd) (n : Nat) : State :=
  let t := (s.takeAll srcs).writeDst ⟨BitVec.ofNat 64 n, false⟩ d
  (t.setCx { t.cx with enq := none }).retire.drain s.core

/-- R268 to R271, R371, R377, R379, R380, R383: the stage instructions. That a DEQ may follow one that is outstanding (DEDUCED, log 49), and that
RECDONE waits for the record's landings (DEDUCED, log 93), are the model's choice. -/
def Obligations.StageInstructions : Prop :=
  ∀ (s : State) (d b : Opd) (a : Src) (v key : Val) (rest : List Val) (k i : Nat),
    let pc := s.cx.pc
    let trap (c : Nat) : Out := .next (s.trap (cz c) pc pc)
    let poisoned : Out := .next (s.consume (cz 0xA09) pc)
    let srcs := (a.a, a.ta) :: recSrcs b
    let t := s.takeAll srcs
    let st := v.v.toNat
    let asid := s.un.asid
    let krt := (t.stage asid st).krt
    let done (u : State) (n : Nat) : Out := .next ((enqEnds u srcs d n).drain s.core)
    let both (o : Out) : Prop := exec (.enq d a b) s = o ∧ exec (.enqw d a b) s = o
    let table := (s.stage (k / 256) (k % 256)).krt
    let me := s.krt table i
    let x := s.inst k i
    (∀ l, let h := s.lane l
      (h.bcnt = 0 → h.fcnt < 4096 → s.pushLane l (key :: rest) =
        some ((s.putRecord (h.fbase + 64 * ((h.fhead + h.fcnt) % 4096)) (key :: rest)).setLane l { h with fcnt := h.fcnt + 1 })) ∧
      (0 < h.bcnt → h.bcnt < h.brim → s.pushLane l (key :: rest) =
        some ((s.putRecord (h.bbase + 64 * ((h.bhead + h.bcnt) % h.brim)) (key :: rest)).setLane l { h with bcnt := h.bcnt + 1 })) ∧
      (h.fcnt = 4096 → h.bcnt = h.brim → s.pushLane l (key :: rest) = none)) ∧
    (Ready s (sx16 a.imm) srcs (some d) (v :: key :: rest) → s.cx.enq = none →
      (key.p = true → both poisoned) ∧
      (key.p = false → s.installed asid st = false → both (trap 0xD07)) ∧
      (key.p = false → s.installed asid st = true → s.stageEnt asid st = none ∨ s.krtOk (s.stage asid st).krt = false →
        both (trap 0xD11)) ∧
      (key.p = false → s.installed asid st = true → ∀ n, s.stageEnt asid st = some n → stageRsv n = true → both (trap 0xD11)) ∧
      (key.p = false → s.installed asid st = true → s.routable asid st = true →
        ∀ j, t.routeKey krt key.v.toNat = some j →
          (t.krt krt j).routes = true ∧ (t.krt krt j).lo ≤ key.v.toNat ∧ key.v.toNat < (t.krt krt j).top ∧
          let lane := t.laneFor krt j key.v.toNat
          let w := s.waits (.enqw asid st j)
          let stays : Out := .next ((w.setCx { w.cx with
              enq := some ⟨pc, asid, st, j, lane, s.clk, key :: rest, false⟩ }).drain s.core)
          (s.enqBehind asid st s.clk = true → exec (.enq d a b) s = .next ((s.waits .hold).drain s.core) ∧
            exec (.enqw d a b) s = stays) ∧
          (s.enqBehind asid st s.clk = false → ∀ u, s.pushLane lane (key :: rest) = some u → both (done u 0)) ∧
          (s.enqBehind asid st s.clk = false → s.pushLane lane (key :: rest) = none → exec (.enq d a b) s = done s 1) ∧
          (s.pushLane lane (key :: rest) = none → exec (.enqw d a b) s = stays))) ∧
    (∀ h, s.runs = true → s.room srcs d = true → s.cx.enq = some h → h.pc = pc →
      (h.dead = true → both (.next (enqEnds s srcs d 2))) ∧
      (h.dead = false → ∀ a1 b1 c1, s.cx.wait = .enqw a1 b1 c1 →
        (∀ u, s.enqBehind h.asid h.stage h.at_ = false → s.installed h.asid h.stage = true → s.enterLane h = some u →
          exec (.enqw d a b) s = .next (enqEnds u srcs d 0)) ∧
        let w := s.waits (.enqw h.asid h.stage h.inst)
        (s.enqBehind h.asid h.stage h.at_ = true ∨ s.enterLane h = none →
          exec (.enqw d a b) s = .next (w.setCx { w.cx with enq := some h })))) ∧
    (∀ h : EnqHold, (s.pushLane h.lane h.vals = none → s.enterLane h = none) ∧
      ∀ u, s.pushLane h.lane h.vals = some u →
        (s.routedOld (s.stage h.asid h.stage).krt h.inst h = false → s.enterLane h = some u) ∧
        (s.routedOld (s.stage h.asid h.stage).krt h.inst h = true → ∃ v, s.enterLane h = some v ∧ v.mem = u.mem ∧
          ∀ m ∈ (v.stageAt (stageKey h.asid h.stage)).markers, m.1 = h.inst → m.2.1 = 0 → m.2.2 = (u.lane h.lane).count)) ∧
    (Ready s 0 [] none [] →
      ((s.ctx ≠ 0 ∨ s.instOf s.th = none) → exec .deq s = trap 0xD0B ∧ exec .recdone s = trap 0xD0B ∧ exec .mergeok s = trap 0xD0D) ∧
      (s.ctx = 0 → s.instOf s.th = some (k, i) →
        (x.delivered = true → exec .deq s = trap 0xD0B ∧
          (s.recLanding = true → exec .recdone s = .next ((s.waits .hold).drain s.core)) ∧
          (s.recLanding = false → exec .recdone s =
            .next ((((s.modInst k i (fun x => { x with delivered := false })).setCx s.cx.dropRecord).retire).drain s.core)) ∧
          ∀ n, s.cx.dropRecord.reg n = if 8 ≤ n ∧ n < 16 then (s.cx.reg n).take else s.cx.reg n) ∧
        (x.delivered = false → exec .recdone s = trap 0xD0B ∧
          (s.routineDue k i = false → exec .deq s =
            .next (((s.modInst k i (fun x => { x with deq := true, deqPc := pc })).retire).drain s.core)) ∧
          (s.routineDue k i = true → exec .deq s = .next ((s.enterRoutine k i pc).drain s.core))) ∧
        (x.routine ≠ .merge → exec .mergeok s = trap 0xD0D) ∧
        (x.routine = .merge → me.twin ≠ i → (s.stageAt k).stopped = false → ∃ u, exec .mergeok s = .next u ∧ ((u.unitAt s.th).ctxAt 0).pc = x.ret ∧
          (u.krt table i).tv = false ∧ (u.krt table i).st = 1 ∧ (u.krt table me.twin).st = 0))) ∧
    (Ready s (sx16 a.imm) [(a.a, a.ta)] none [v] →
      (v.p = true → exec (.splitok a) s = poisoned) ∧
      (v.p = false → (s.ctx ≠ 0 ∨ s.instOf s.th = none) → exec (.splitok a) s = trap 0xD0D) ∧
      (v.p = false → s.ctx = 0 → s.instOf s.th = some (k, i) →
        (x.routine ≠ .split → exec (.splitok a) s = trap 0xD0D) ∧
        (x.routine = .split → x.forTwin ≠ i → (s.stageAt k).stopped = false → ∃ u, exec (.splitok a) s = .next u ∧
          ((u.unitAt s.th).ctxAt 0).pc = x.ret ∧ (u.krt table i).st = 1 ∧ (u.krt table i).lo = me.lo ∧
          (if me.lo < v.v.toNat ∧ v.v.toNat < me.top then
            (u.krt table i).hi = v.v.toNat ∧ (u.krt table i).tv = true ∧ (u.krt table i).twin = x.forTwin % 16 ∧
            (u.krt table x.forTwin).lo = v.v.toNat ∧ (u.krt table x.forTwin).hi = me.hi ∧
            (u.krt table x.forTwin).ov = true ∧ (u.krt table x.forTwin).orig = i % 16 ∧ (u.krt table x.forTwin).st = 3
          else (u.krt table i).hi = me.hi ∧ (u.krt table i).tv = me.tv))))

/-- R370 to R387, R404: what the governor does. That a stage with an unsound KRT or lane header is bad until it stops (DEDUCED, log 57), which
core the governor takes (DEDUCED, log 93) and what its copies do at pages that the host translates (DEDUCED, logs 18 and 93) are the
model's choice. -/
def Obligations.StageEvents : Prop :=
  ∀ (s : State) (asid st i t part : Nat) (ans : HostAns), st < 256 →
    let k := stageKey asid st
    let r := s.stageAt k
    let x := s.inst k i
    let e := s.stage asid st
    let me := s.krt e.krt i
    let lane (l : Nat) := s.lane (laneAt e.krt i l)
    (∀ v, (s.part part).stCmd = some v → s.boot.away = false →
      fieldOf v.toNat 0 16 = asid → fieldOf v.toNat 16 8 = st →
      let op := fieldOf v.toNat 62 2
      let mine := s.asValid asid = true ∧ s.asPart asid = part
      let i := Instr.stageInstall part
      let u := Instr.stageUninstall part
      let answer (n : Nat) : Out := .next (s.stageDone part n)
      (op ≠ 1 → op ≠ 2 → exec i s = answer 4) ∧ (op = 1 → ¬ mine → exec i s = answer 4) ∧ (op = 2 → ¬ mine → exec u s = answer 4) ∧
      (op = 1 → mine → r.inst = true → exec i s = answer 2) ∧ (op = 2 → mine → r.inst = false → exec u s = answer 2) ∧
      let w := s.vcome none asid (s.stageVa asid st) 64
      let krt := (w.stage asid st).krt
      (op = 1 → mine → r.inst = false → w.stageEnt asid st = none → exec i s = .next (w.stageDone part 1)) ∧
      (op = 1 → mine → r.inst = false → ∀ n, w.stageEnt asid st = some n →
        let sound := stageEntOk n = true ∧ w.krtPoison krt = false ∧ w.mem.read krt 512 = 0 ∧
          ∀ m < 48, laneOk (w.mem.read (laneAt krt (m / 3) (m % 3)) 64) = true
        (¬ sound → exec i s = .next (w.stageDone part 1)) ∧
        (sound → ∃ u, exec i s = .next u ∧ (u.stageAt k).inst = true ∧ (u.stageAt k).part = part ∧
          (u.part part).stStatus = 0 ∧ (u.part part).stBusy = false)) ∧
      (op = 2 → mine → r.inst = true →
        let busy := (∃ m < 16, 2 ≤ (s.krt e.krt m).st ∧ (s.krt e.krt m).st ≤ 6) ∨
          ∃ m < 48, (s.lane (laneAt e.krt (m / 3) (m % 3))).count ≠ 0
        (busy → r.stopped = false → exec u s = answer 3) ∧
        (¬ busy ∨ r.stopped = true → ∃ u', exec u s = .next u' ∧ u'.stageAt k = .reset ∧
          (u'.part part).stStatus = 0 ∧ (u'.part part).stBusy = false))) ∧
    (r.inst = true → r.stopped = false → x.thread = 0 → (s.part r.part).inReset = false →
      (x.taken = false → ∀ c, s.pickStageCore r.part (s.stagePrio r.part e) none = some c →
        let o := s.takeCore c asid st i
        let u := o.1.modInst k i (fun x => { x with core := c, slotKept := some o.2, gen := o.1.genOf c })
        (me.ov = false → me.st = 1 → exec (.instanceStart asid st i t) s = .next u) ∧
        (me.ov = true → me.st = 3 → exec (.twinStart asid st i (t, ans)) s = .next u)) ∧
      (x.taken = true → (s.coreAt x.core).st = .idle → s.awake x.core = true → s.threadFree t = true →
        ∀ bs off, allocBlk (arenaFree (s.launchAt (inPart r.part e.launch)).arena) e.lg = some (bs, off) →
        let begun (u : State) : Prop := (u.thr t).st = .resident ∧ (u.coreAt x.core).st = .running ∧
          (u.coreAt x.core).thread = t ∧ ((u.unitAt t).ctxAt 0).pc = e.handler ∧
          (((u.unitAt t).ctxAt 0).reg 1).v = BitVec.ofNat 64 off ∧ (u.inst k i).thread = t
        (me.ov = false → me.st = 1 → ∃ u, exec (.instanceStart asid st i t) s = .next u ∧ begun u) ∧
        (me.ov = true → me.st = 3 → s.govBusy k i = false →
          (∀ n ∈ x.after, n ∉ s.begun (s.inst k me.orig).thread) → (∀ o ∈ x.afterOps, o ∉ s.begunOps (s.inst k me.orig).thread) →
          let c := s.copyLines k i off (e.xfer + 2 ^ e.lg * i) false ans true ((2 ^ e.lg - x.pos) / 64)
          let past : Prop := (c.stageAt k).stopped = false ∧ 2 ^ e.lg ≤ (c.inst k i).pos
          (¬ past → exec (.twinStart asid st i (t, ans)) s = .next c) ∧
          (past → exec (.twinStart asid st i (t, ans)) s =
            .next ((c.startInstance k i t).modInst k i (fun x => { x with pos := 0, after := [], afterOps := [] })))))) ∧
    (∀ off slot out n stt, let va := BitVec.ofNat 64 (slot + x.pos)
      let w := s.sigWalk asid va.toNat
      w.bulkAt r.part asid va out ans = .fail stt →
        s.copyLines k i off slot out ans true (n + 1) =
          ((w.logWalk r.part asid va.toNat).stopStage k va).modInst k i (fun x => { x with pos := 0 })) ∧
    (∀ l, r.inst = true → l < 3 → i < 16 → 0 < (lane l).bcnt → (lane l).fcnt < 4096 →
      exec (.brimMove asid st i l) s = .next
        ((s.putRecord ((lane l).fbase + 64 * (((lane l).fhead + (lane l).fcnt) % 4096))
          (s.getRecord ((lane l).bbase + 64 * (lane l).bhead))).setLane (laneAt e.krt i l)
          { lane l with fcnt := (lane l).fcnt + 1, bcnt := (lane l).bcnt - 1, bhead := ((lane l).bhead + 1) % (lane l).brim })) ∧
    (r.inst = true → r.stopped = false → x.deq = true → x.parked = false → x.routine = .none → s.instRuns k i = true →
      let ev := exec (.recordDelivery asid st i) s
      (∀ l rec, s.takeNext k i = .deliver l → s.headOf (laneAt e.krt i l) = some rec →
        ev = .next ((s.popLane k e.krt i l).deliver k i rec)) ∧
      (∀ f rec u, s.takeNext k i = .forward f → s.headOf (laneAt e.krt i 0) = some rec →
        s.pushLane (laneAt e.krt me.twin 1) rec = some u → ev = .next (u.popLane k e.krt i 0)) ∧
      (s.enqWaiting k (s.routedOld e.krt i) = true → s.takeNext k i ≠ .markerOut) ∧
      (s.takeNext k i = .markerOut → ∃ u, ev = .next u ∧ u.mem = s.mem ∧ (me.twin, 1, (s.lane (laneAt e.krt me.twin 1)).count) ∈ (u.stageAt k).markers) ∧
      (s.takeNext k i = .markerIn → ∃ u, ev = .next u ∧ (u.krt e.krt i).st = 1 ∧ (u.krt e.krt i).lo = me.lo)) ∧
    (s.routineDue k i = true → s.withdrawable k i = true →
      (me.st = 2 → exec (.splitRoutineEntry asid st i) s = .next (s.enterRoutine k i x.deqPc)) ∧
      (me.st = 6 → exec (.mergeRoutineEntry asid st i) s = .next (s.enterRoutine k i x.deqPc))) ∧
    ((s.quiescent k i = true → (∀ l < 3, (lane l).count = 0) ∧ x.delivered = false ∧ x.deq = true ∧
        s.enqWaiting k (·.inst == i) = false) ∧
      (r.inst = true → r.stopped = false → me.st = 5 → s.quiescent k i = true → s.govBusy k i = false →
        let c := s.copyLines k i x.off (e.xfer + 2 ^ e.lg * i) true ans true ((2 ^ e.lg - x.pos) / 64)
        let past : Prop := (c.stageAt k).stopped = false ∧ 2 ^ e.lg ≤ (c.inst k i).pos
        (¬ past → exec (.twinQuiesce asid st (i, ans)) s = .next c) ∧
        (past → ∃ u, exec (.twinQuiesce asid st (i, ans)) s = .next u ∧ (u.krt e.krt me.orig).st = 6))) ∧
    (r.inst = true → r.stopped = false → r.bad = false →
      let ev := exec (.governorSample asid st) s
      let s := s.vcome none asid (s.stageVa asid st) 64
      let e := s.stage asid st
      (s.stageEnt asid st = none → ev = .next ((s.logEntry asid st r.part).stopStage k 0)) ∧
      (s.stageEnt asid st ≠ none → s.krtPoison e.krt = true → ev = .next ((s.logEntry asid st r.part).stopStage k 0)) ∧
      (s.stageEnt asid st ≠ none → s.krtPoison e.krt = false → s.routable asid st = false →
        ev = .next (s.modStage k (fun r => { r with bad := true }))) ∧
      (s.stageEnt asid st ≠ none → s.krtPoison e.krt = false → s.routable asid st = true →
        let live := (upto 16).filter (fun j => (s.krt e.krt j).st != 0)
        let s1 := live.foldl (fun s j => s.sampleInst k j) s
        let s2 := match firstSome (s1.tryClone k) live with
          | some s2 => s2
          | none => (firstSome (s1.tryMerge k) live).getD s1
        let s3 := live.foldl (fun s j => s.tryPark k j) s2
        ev = .next (live.foldl (fun s j => s.tryUnpark k j) s3).breakCycles)) ∧
    (let y := (s.sampleInst k i).inst k i
      let n := (lane 0).count + (lane 1).count + (lane 2).count
      y.up = (if e.high < n then min 255 (x.up + 1) else 0) ∧ y.down = (if n < e.low then min 255 (x.down + 1) else 0) ∧
        y.quiet = (if n = 0 ∧ x.deq = true ∧ ((s.unitAt x.thread).ctxAt 0).wait = .reg ∧
          (∃ n ∈ ((s.unitAt x.thread).ctxAt 0).awaited, 8 ≤ n ∧ n < 16) then min 255 (x.quiet + 1) else 0)) ∧
    (r.inst = true → (∃ y ∈ r.insts, y.2.thread ≠ 0 ∧ (s.thr y.2.thread).st = .closed) →
      exec (.stageStop asid st) s = .next ((s.logEntry asid st r.part).stopStage k 0))


/-! ## Poison marks, signatures, traps, upcalls and system registers -/

/-- The state after an instruction that leaves the acting context as c and retires; held landings then resolve. -/
def Sys2Proof.Claims.kept (s : State) (c : Ctx) : State := ((s.setCx c).retire).drain s.core

/-- R141, R142, R283, R286, R297, R298. -/
def Obligations.PoisonSignatureAndRegisterInstructions : Prop :=
  ∀ (s : State) (d a : Opd) (ta : Bool) (o : Un) (n : BitVec 5) (k : BitVec 3) (e : BitVec 24) (m : BitVec 12) (v : Val),
    let pc := s.cx.pc
    let r := s.cx.reg n.toNat
    let mark (b : Bool) : GReg := if r.depth = 0 then { r with p := b }
      else { r with q := match r.q with | [] => [] | x :: l => { x with p := b } :: l }
    let acc := csrAcc m.toNat
    (Ready s 0 [(a, ta)] (some d) [v] →
      exec (.pchk d a ta) s = .next (after s [(a, ta)] d ⟨if v.p then 1 else 0, false⟩)) ∧
    (Ready s 0 [(.g n, false)] none [v] →
      exec (.pclr (.g n)) s = .next (kept s (s.cx.setReg n.toNat (mark false))) ∧
      exec (.pset (.g n)) s = .next (kept s (s.cx.setReg n.toNat (mark true)))) ∧
    (Ready s 0 [(.x k, false)] none [v] →
      exec (.pclr (.x k)) s = .next (kept s (s.cx.setX k.toNat { s.cx.xreg k.toNat with p := false })) ∧
      exec (.pset (.x k)) s = .next (kept s (s.cx.setX k.toNat { s.cx.xreg k.toNat with p := true }))) ∧
    (Ready s 0 [] none [] →
      (s.cx.assay.armed = true → s.cx.assay.c ≠ s.cx.assay.e → exec (.sig e) s = .next ((s.sigFault pc pc).drain s.core)) ∧
      (s.cx.assay.armed = false ∨ s.cx.assay.c = s.cx.assay.e →
        exec (.sig e) s = .next (((s.setCx { s.cx with pc := pc + BitVec.ofNat 64 s.len, wait := .no, assay := ⟨true, e, 0xFFFFFF⟩ }).pm
          s.th 1 s.cx.priv).drain s.core))) ∧
    (Ready s (sx16 o.imm) [(o.a, o.ta)] (some o.d) [v] →
      let t := (s.takeAll [(o.a, o.ta)]).writeDst ⟨if s.cx.uen then 1 else 0, false⟩ o.d
      (v.p = true → exec (.upmask o) s = .next (s.consume (cz 0xA0A) pc)) ∧
      (v.p = false → exec (.upmask o) s =
        .next (((t.setCx { t.cx with uen := v.v.getLsbD 0 }).retire).drain s.core))) ∧
    (Ready s 0 [] (some d) [] →
      (acc = none → exec (.csrr d m) s = .next (s.trap (cz 0xE02) pc (m.zeroExtend 64))) ∧
      (∀ sup, acc = some (.no, sup) → s.cx.priv = false → exec (.csrr d m) s = .next (s.trap (cz 0xE01) pc pc)) ∧
      (∀ user sup, acc = some (user, sup) → s.cx.priv = true ∨ user ≠ .no →
        exec (.csrr d m) s = .next (after s [] d ⟨s.csrRead m.toNat, false⟩))) ∧
    (Ready s 0 [(a, ta)] none [v] → (m = 0x010#12 → s.drawBusy = false) →
      let w := s.takeAll [(a, ta)]
      (acc = none → exec (.csrw a ta m) s = .next (s.trap (cz 0xE02) pc (m.zeroExtend 64))) ∧
      (∀ sup, acc = some (.no, sup) → s.cx.priv = false → exec (.csrw a ta m) s = .next (s.trap (cz 0xE01) pc pc)) ∧
      (∀ user sup, acc = some (user, sup) → s.cx.priv = true ∨ user ≠ .no →
        (v.p = true → exec (.csrw a ta m) s = .next (s.consume (cz 0xA0A) pc)) ∧
        (v.p = false → user = .rw ∨ (s.cx.priv = true ∧ sup = .rw) →
          exec (.csrw a ta m) s = .next ((w.csrWrite m.toNat v.v).retire.drain s.core)) ∧
        (v.p = false → user ≠ .rw → s.cx.priv = false ∨ sup ≠ .rw →
          exec (.csrw a ta m) s = .next (w.retire.drain s.core))))

/-- R291. -/
def Obligations.TrapRaisesItsNumber : Prop :=
  ∀ (s : State) (n : BitVec 5), Ready s 0 [] none [] → targetOk (s.part s.un.part).tvec = true →
    let next := s.cx.pc + BitVec.ofNat 64 s.len
    ∃ t, exec (.trap n) s = .next t ∧
      let c := (t.unitAt s.th).ctxAt s.ctx
      c.tcause = cz (0xF00 + n.toNat) ∧ c.tpc = next ∧ c.taddr = s.cx.pc ∧ c.tpprv = s.cx.priv ∧
      ∀ u, Ready u 0 [] none [] → u.cx.priv = true → u.cx.tpc = c.tpc → u.cx.tpcSame = c.tpcSame →
        u.cx.assayT = c.assayT → u.cx.tpprv = c.tpprv → targetOk next = true →
        ∃ r, exec .tret u = .next r ∧
          let b := (r.unitAt u.th).ctxAt u.ctx
          b.pc = next ∧ b.priv = s.cx.priv ∧ b.assay = s.cx.assay.feed s.ir

/-- R292. -/
def Obligations.TretReturns : Prop :=
  ∀ s : State, Ready s 0 [] none [] →
    let c := s.cx
    (c.priv = false → exec .tret s = .next (s.trap (cz 0xE01) c.pc c.pc)) ∧
    (c.priv = true → ¬ Target c.tpc → exec .tret s = .next (s.trap (cz 0x401) c.pc c.tpc)) ∧
    (c.priv = true → Target c.tpc → ∃ t, exec .tret s = .next t ∧
      let b := (t.unitAt s.th).ctxAt s.ctx
      b.priv = c.tpprv ∧ b.pc = c.tpc ∧ b.assay = (if c.tpcSame then c.assayT else { c.assay with armed := false }) ∧
      b.uact = c.uact ∧ b.uen = c.uen ∧ b.upc = c.upc ∧ b.ucause = c.ucause ∧ b.uarg = c.uarg ∧ b.x = c.x ∧
      b.vres = (if c.vres.kind ≠ 0 ∧ c.vres.addr = c.tpc then c.vres else .none))

/-- R290, R294 to R296. -/
def Obligations.ExceptionEntryAndUpcallReturn : Prop :=
  ∀ (s : State) (cause : Cause) (pc arg : Word), s.runs = true →
    let c := s.cx
    let p := s.part s.un.part
    let off (a : Assay) : Assay := { a with armed := false }
    let mine (t : State) : Ctx := (t.unitAt s.th).ctxAt s.ctx
    (Target p.tvec → ∃ t, exec (.trapEntry cause pc arg) s = .next t ∧ t = s.trap cause pc arg ∧ t.mem = s.mem ∧
      mine t = { c with
        tpc := pc, tcause := cause, taddr := arg, tctx := s.ctx, tuact := c.uact, tpprv := c.priv, tgang := s.un.gang
        assayT := c.assay, assay := off c.assay, tpcSame := true, priv := true, pc := p.tvec, wait := .no, enq := none,
        busy := .no }) ∧
    (¬ Target p.tvec → (s.thr s.th).st ≠ .closed → ∃ t, exec (.trapEntry cause pc arg) s = .next t ∧
      (t.thr s.th).st = .closed ∧ 1 ∈ (t.part s.un.part).irq ∧
      ∃ l ∈ (t.part s.un.part).logq, l.evt = 5 ∧ l.cause = cause ∧ l.addr = pc ∧ l.thread = s.th) ∧
    (c.uen = true → c.uact = false → c.priv = false → Target c.uvec →
      ∃ t, exec (.upcallEntry cause pc arg) s = .next t ∧ t.mem = s.mem ∧ mine t = { c with
        upc := pc, ucause := cause, uarg := arg, x := [], uact := true, assayU := c.assay, assay := off c.assay
        upcSame := true, pc := c.uvec, wait := .no, enq := none, busy := .no } ∧ ∀ k, (mine t).xreg k = .zero) ∧
    (¬ (c.uen = true ∧ c.uact = false ∧ c.priv = false ∧ Target c.uvec) →
      exec (.upcallEntry cause pc arg) s = .next (s.trap cause pc arg)) ∧
    (Ready s 0 [] none [] →
      (c.uact = false → exec .upret s = .next (s.trap (cz 0xE03) c.pc c.pc)) ∧
      (c.uact = true → ¬ Target c.upc → exec .upret s = .next (s.trap (cz 0x401) c.pc c.upc)) ∧
      (c.uact = true → Target c.upc → ∃ t, exec .upret s = .next t ∧ (mine t).uact = false ∧ (mine t).pc = c.upc ∧
        (mine t).assay = (if c.upcSame then c.assayU else off c.assay) ∧ (mine t).x = c.x ∧ (mine t).priv = c.priv ∧
        (mine t).vres = (if c.vres.kind ≠ 0 ∧ c.vres.addr = c.upc then c.vres else .none)))

/-- R167, R293, R294, R398, R402. -/
def Obligations.FetchCausesAndNotices : Prop :=
  (∀ (s t : State) (k : FetchCause) (pte : Nat) (ans : HostAns), s.runs = true →
    let pc := s.cx.pc
    let watch (e : Option Nat) : Monitor := ⟨e, t.un.part, t.un.asid, t.cx.pc, t.peer, t.th, t.un.key, t.ctx, false⟩
    let up (u : State) (c : Nat) : Out := .next (u.syncUpcall u.th u.ctx (cz c) t.cx.pc t.cx.pc)
    (s.fetchAt = (t, .fault k pte) → (k = .hostNotPresent → ans = .notPresent) →
      exec (.fetchFault (k, ans)) s = (match k with
        | .notValid => up { t with monitors := t.monitors ++ [watch (some pte)] } 0x501
        | .hostNotPresent => up ({ t with monitors := t.monitors ++ [watch none] }.askHost t.un.part t.un.asid t.cx.pc) 0x601
        | .entryInvalid => .next ((t.logWalk t.un.part t.un.asid t.cx.pc.toNat).trap (cz 0x506) t.cx.pc t.cx.pc)
        | .noExecute => .next (t.trap (cz 0x507) t.cx.pc t.cx.pc)
        | .hostDenies => .next (t.trap (cz 0x602) t.cx.pc t.cx.pc)
        | .poisoned => .next (t.trap (cz 0x007) t.cx.pc t.cx.pc))) ∧
    (s.fetchAt = (t, .fault .hostNotPresent pte) →
      (ans = .denied → exec (.fetchFault (.hostDenies, ans)) s = .next (t.trap (cz 0x602) t.cx.pc t.cx.pc)) ∧
      (∀ hpa lg rd w, ans = .translated hpa lg rd w →
        exec (.fetchFault (.hostNotPresent, ans)) s = .next (s.keepHost s.un.asid s.cx.pc.toNat ans))) ∧
    (∀ c a, s.fetchAt = (t, .reject c a) → exec (.decodeTrap c a) s = .next (t.trap c pc a))) ∧
  ∀ (s : State) (i : Nat) (n : Notice), s.notes[i]? = some n →
    let q := (s.thr n.thread).notices.get [] n.ctx
    let gone (t : State) : Prop := t.notes = dropNth i s.notes
    let both (P : Out → Prop) : Prop :=
      (n.refusedAt = none → P (exec (.noticeArrival i) s)) ∧
      (∀ c, n.refusedAt = some c → c + 64 ≤ s.clk → P (exec (.noticeRetry i) s))
    (s.noticeLive n = false → both (fun o => o = .next { s with notes := dropNth i s.notes })) ∧
    (s.noticeLive n = true → q.length < 8 → both (fun o => ∃ t, o = .next t ∧ gone t ∧
      (t.thr n.thread).notices.get [] n.ctx = q ++ [{ n with refusedAt := none }] ∧
      ((s.thr n.thread).st = .resident → ((s.unitAt n.thread).ctxAt n.ctx).wait = .idle →
        ((t.unitAt n.thread).ctxAt n.ctx).wait = .woken))) ∧
    (s.noticeLive n = true → 8 ≤ q.length → both (fun o =>
      o = .next { s with notes := modNth (fun n => { n with refusedAt := some s.clk }) i s.notes })) ∧
    ∀ k c m, s.noticeDue k c = some m →
      let t : State := { s with core := k, ctx := c }
      (t.fetchAt.2.stops = false →
        (¬ Target t.cx.uvec → exec (.noticeDelivery k c) s = .next (t.trap (cz 0x401) t.cx.pc t.cx.uvec)) ∧
        (Target t.cx.uvec → ∃ u, exec (.noticeDelivery k c) s = .next u ∧
          (u.thr t.th).notices.get [] c = ((t.thr t.th).notices.get [] c).drop 1 ∧
          let b := (u.unitAt t.th).ctxAt c
          b.upc = t.cx.pc ∧ b.ucause = m.cause ∧ b.uarg = m.arg ∧ b.uact = true ∧ b.pc = t.cx.uvec)) ∧
      (t.fetchAt.2.stops = true → exec (.noticeDelivery k c) s = .next s)

/-- R293, R299 to R302, R305. -/
def Obligations.InvalidationAndIdle : Prop :=
  ∀ (s : State) (d a b : Opd) (scope : BitVec 2) (mode : Bool) (x y z : Val),
    let pc := s.cx.pc
    let part := s.un.part
    let srcs : List SrcOp := [(d, false), (a, false), (b, false)]
    let numbered (t : State) (waits : List Nat) : State :=
      { t.setCx { t.cx with invIss := t.cx.invIss + 1 } with
        invs := t.invs ++ [⟨t.th, t.un.key, t.ctx, (t.cx.invIss + 1).toNat, waits⟩] }
    let user (o : Out) : Prop := s.cx.priv = false → o = .next (s.trap (cz 0xE01) pc pc)
    (Ready s 0 srcs none [x, y, z] →
      let e : Instr := .tinv d a b scope
      let asid := x.v.toNat % 65536
      let own := s.asPart asid = part
      let t := s.takeAll srcs
      let r := t.invalidate (tinvScope part scope.toNat x.v y.v z.v)
      user (exec e s) ∧
      (s.cx.priv = true → s.owes = true → exec e s = .next (s.waits .hold)) ∧
      (s.cx.priv = true → s.owes = false → (x.p || y.p || z.p) = true → exec e s = .next (s.consume (cz 0xA03) pc)) ∧
      (s.cx.priv = true → s.owes = false → (x.p || y.p || z.p) = false →
        (canonical y.v = false → exec e s = .next (s.trap (cz 0x403) pc y.v)) ∧
        (canonical y.v = true → scope ≠ 2 → ¬ own → exec e s = .next (s.trap (cz 0xE04) pc (BitVec.ofNat 64 asid))) ∧
        (canonical y.v = true → (scope = 2 ∨ own) → exec e s = .next ((numbered r.1 r.2).retire.drain s.core) ∧
          (∀ tr ∈ r.1.tcs, (tinvScope part scope.toNat x.v y.v z.v).names tr = false)))) ∧
    (Ready s 0 [] none [] →
      user (exec (.l2fl mode) s) ∧ user (exec .tsync s) ∧
      (s.cx.priv = true → exec (.l2fl mode) s = .next ((numbered (s.flushL2 part mode) []).retire.drain s.core)) ∧
      (s.cx.priv = true → s.cx.invDone ≠ s.cx.invIss → exec .tsync s = .next (s.waits .tsync)) ∧
      (s.cx.priv = true → s.cx.invDone = s.cx.invIss → exec .tsync s = .next (s.retire.drain s.core)) ∧
      (s.cx.wait ≠ .woken → exec .idle s = .next (s.waits .idle)) ∧
      (s.cx.wait = .woken → exec .idle s = .next (s.retire.drain s.core))) ∧
    (s.l2Priv = false → ∀ l ∈ (s.flushL2 part mode).l2, s.asPart l.asid = part → mode = false ∧ l.dirty = false) ∧
    (∀ t c v, s.invs.find? (fun v => v.thread == t && v.ctx == c) = some v →
      (∀ i ∈ v.waits, ∀ r ∈ s.reqs, r.id = i → r.phase = .performed) → (s.thr t).key = v.key → (s.thr t).st ≠ .closed →
      ∃ u, exec (.invalidationComplete t c) s = .next u ∧ ((u.unitAt t).ctxAt c).invDone = BitVec.ofNat 32 v.no ∧
        u.mem = s.mem ∧ u.invs.length + 1 = s.invs.length) ∧
    (∀ (i : Nat) (m : Monitor) (e : Nat), s.monitors[i]? = some m → m.pte = some e →
      let seen : Prop := m.hit = true ∨ (s.mem.read e 8).testBit 0 = true
      let t : State := { s with monitors := dropNth i s.monitors }
      (¬ seen → exec (.monitorFire i) s = .next s) ∧
      (seen → m.chip = s.peer → exec (.monitorFire i) s =
        .next { t with notes := s.notes ++ [⟨m.thread, m.key, m.ctx, cz 0x508, m.va, none⟩] }) ∧
      (seen → m.chip ≠ s.peer → exec (.monitorFire i) s = .next (t.sendNotice m)))


/-! ## Halts, saves, restores; records, groups and gangs -/

/-- R38 to R44, R54, R55, R411. That Resident or Moved is judged by the physical core, so that a remap alone gives Resident, is the model's
choice (DEDUCED, log 70). -/
def Obligations.HaltSaveAndRestoreEvents : Prop :=
  ∀ (s : State) (k : Nat),
    let c := s.coreAt k
    let t := c.thread
    let u := s.unitAt t
    let e := s.thr t
    let asked (why : HaltWhy) (o : Out) : Prop := ∃ n, o = .next n ∧ (n.coreAt k).halt = some why ∧
      n.units = s.units ∧ n.mem = s.mem ∧ n.threads = s.threads ∧
      (u.gang = false → u.phased = false → ∀ j, j ≠ k → n.coreAt j = s.coreAt j)
    let kept := c.halt ≠ some .cancel ∧ c.halt ≠ some .reset
    (c.st = .running → c.halt = none →
      ((∃ r ∈ s.recs, s.placement r = some (k, 284)) → asked .priority (exec (.preemptRequest k .priority) s)) ∧
      (s.boot.away = false → asked .packing (exec (.preemptRequest k .packing) s) ∧
        asked .remap (exec (.preemptRequest k .remap) s)) ∧
      ((s.part u.part).inReset = true → asked .reset (exec (.preemptRequest k .reset) s)) ∧
      ((s.launchAt (inPart u.part u.launch)).canc = true → asked .cancel (exec (.preemptRequest k .cancel) s)) ∧
      (u.bindClk + 2 ^ (s.part u.part).slice ≤ s.clk → (∃ r ∈ s.recs, s.candidate k r = true ∧ u.prio ≤ r.level) →
        asked .slice (exec (.timeSliceExpiry k) s)) ∧
      ((∀ x ∈ u.ctxs, x.2.live = true → ∃ a, s.spinSince t x.1 = some a ∧ a + 2 ^ (s.part u.part).spin ≤ s.clk) →
        (∃ r ∈ s.recs, s.candidate k r = true) → asked .spin (exec (.spinDeschedule k) s))) ∧
    (c.st = .running → c.halt ≠ none → s.rolling t = false → s.chunkQueued k t = false → (∀ x < 11, s.boundaryStop k x = false) →
      ∃ n, exec (.unitHalt k) s = .next n ∧ (n.coreAt k).st = .halted ∧
      n.unitAt t = u.stopped ∧ u.stopped.vq = [] ∧ (∀ j ∈ u.stopped.mq, j.tle = true) ∧
      (∀ x ∈ u.stopped.ctxs, x.2.wait = .no) ∧ n.mem = s.mem ∧ n.threads = s.threads ∧
      ∀ q ∈ n.reqs, ¬ (q.k = .rdMat ∧ q.thread = t ∧ q.tag = none)) ∧
    (c.st = .halted → kept → ∃ n, exec (.unitSave k) s = .next n ∧ (n.coreAt k).st = .saving ∧ (n.thr t).st = .beingSaved ∧
      (n.thr t).addr = (if e.addr = 0 then s.freeCsa e.part else e.addr) ∧ (n.thr t).lsImg = lsImage c.ls u (s.bufAt t) (c.halt == some .remap) ∧ n.units = s.units ∧
      n.hostMem = s.hostMem) ∧
    (c.st = .saving → kept → ∃ n, exec (.saveComplete k) s = .next n ∧ (n.coreAt k).st = .idle ∧ (n.coreAt k).lbuf = [] ∧
      (n.thr t).st = .saved ∧ (n.thr t).from_ = s.physCore k ∧
      (s.instOf t = none → ∃ r ∈ n.recs, r.k = .saved ∧ r.thread = t ∧ r.level = u.prio ∧ r.haltNo = c.haltNo ∧
        r.spun = (c.halt == some .spin) ∧
        r.notCore = (if c.halt = some .packing then some (s.physCore k) else none) ∧
        r.onCore = (if c.halt = some .remap then some k else none) ∧ r.place = .bucket (s.sliceOf u.part u.asid u.aff.toNat)) ∧
      (s.instOf t ≠ none → n.recs = s.recs)) ∧
    (∀ th, (s.thr th).st = .saved → c.st = .idle → s.restoreDue k th = true → (s.part (s.thr th).part).inReset = false →
      let bad := .unusable ∈ s.csaHits th ∨ s.csaReserved (s.thr th).addr (s.unitAt th) = true
      (¬ bad → ∃ n, exec (.restoreBegin k th) s = .next n ∧ (n.coreAt k).st = .restoring ∧
        (n.coreAt k).thread = th ∧ (n.thr th).loc = k ∧
        (n.thr th).st = (if (s.thr th).from_ = s.physCore k then .resident else .moved) ∧
        n.mem = s.mem ∧ ∀ r ∈ n.recs, ¬ (r.k = .saved ∧ r.thread = th)) ∧
      (bad → ∃ n, exec (.restoreBegin k th) s = .next n ∧ (n.thr th).st = .closed ∧
        1 ∈ (n.part (s.thr th).part).irq)) ∧
    (c.st = .restoring → kept → ∃ n, exec (.restoreComplete k) s = .next n ∧ (n.coreAt k).st = .running ∧
      (n.thr t).st = .resident ∧ (n.thr t).addr = (if u.gang then e.addr else 0) ∧
      (let m := lsRestore c.ls e.lsImg u (s.bufAt t) e.img; (n.coreAt k).ls = (if e.rbp then restoreSnap m e.snap else m)) ∧ n.mem = s.mem ∧
      (n.unitAt t).bindClk = s.clk ∧ ∀ x, ((n.unitAt t).ctxAt x).pc = (u.ctxAt x).pc) ∧
    (c.st ≠ .idle → c.st ≠ .running →
      (c.halt = some .cancel → exec (.unitDiscard k) s = .next (s.discard t 8)) ∧
      (c.halt = some .reset → exec (.unitDiscard k) s = .next (s.discard t 7))) ∧
    ∀ th n, ((s.discard th n).thr th).st = .closed

/-- R28, R32, R337, R359 to R364, R404. -/
def Obligations.RecordAdmissionAndBindingEvents : Prop :=
  ∀ (s : State) (p ring k t : Nat) (ans : HostAns),
    let e := s.part p
    let g := e.ring ring
    let base := g.rbase.toNat + 256 * (g.cons % 2 ^ g.rlog)
    let h := (s.keepHost g.rasid base ans).vcome none g.rasid base 256
    let ev := exec (.admitLaunchRecord p (ring, ans)) s
    let stopOf (s : State) (n : Nat) : Prop := ev = .next ((s.modRing p ring (fun e => { e with err := true, ecode := n })).irq p 1)
    let stop (n : Nat) : Prop := stopOf h n
    (s.boot.stage = 7 → g.en = true → g.err = false → g.prod ≠ g.cons → e.inReset = false →
      let ahead := 2 ^ g.rlog < (g.prod + 2 ^ 32 - g.cons) % 2 ^ 32
      let mine := s.asValid g.rasid = true ∧ s.asPart g.rasid = p
      let at_ := if h.untold g.rasid base then none else h.vread g.rasid base 256
      (ahead → stopOf s 4) ∧ (¬ ahead → ¬ mine → stopOf (s.logSpace p g.rasid) 2) ∧
      (¬ ahead → mine → at_ = none → stopOf (h.logWalk p g.rasid base) 2) ∧
      (∀ n, ¬ ahead → mine → at_ = some (n, true) → stopOf (h.logTable p 10) 2) ∧
      (∀ n, ¬ ahead → mine → at_ = some (n, false) →
        let key := inPart p (fieldOf n 160 32)
        let old := h.launchAt key
        (h.launchOk p n = false → stop 1) ∧
        (h.launchOk p n = true → old.known = true → old.count ≠ 0 → stop 3) ∧
        (h.launchOk p n = true → old.known = false ∨ old.count = 0 → ∀ f, h.freeFrame p = some f →
          ∃ u, ev = .next u ∧ (u.launchAt key).known = true ∧ (u.launchAt key).count = fieldOf n 576 32 ∧
            (u.launchAt key).canc = false ∧ ((u.part p).ring ring).cons = (g.cons + 1) % 2 ^ 32 ∧
            u.mem.read f 256 = n % 256 ^ 256 ∧
            ∃ r ∈ u.recs, r.k = .source ∧ r.frame = f ∧ r.part = p ∧ r.launch = fieldOf n 160 32 ∧ r.next = 0))) ∧
    (∀ id r, s.rec? id = some r →
      (∀ w, r.place = .gateway w → s.placeOf r ≠ .gateway w →
        exec (.recordEligible id) s = .next (s.toTail { r with place := s.placeOf r })) ∧
      (∀ b, r.place = .bucket b → r.level < min (s.part r.part).phi (s.launchAt (inPart r.part r.launch)).ceil →
        r.enq + 2 ^ (s.part r.part).age ≤ s.clk → s.selected id = false →
        exec (.recordAgeing id) s = .next (s.toTail { r with level := r.level + 1 }))) ∧
    (∀ c x, c = s.coreAt k → c.st = .running → ((s.unitAt c.thread).ctxAt x).wait = .frame →
        ((s.unitAt c.thread).ctxAt x).waitSince + 64 ≤ s.clk → ∃ u, exec (.recordFrameRetry k x) s = .next u ∧
          ((u.unitAt c.thread).ctxAt x).wait = .frameDue) ∧
    (∀ r, s.free k = true → s.choose k = some r → s.granted r.bucket = some k →
      r ∈ s.recs ∧ s.candidate k r = true ∧ (∀ q ∈ s.recs, s.candidate k q = true → q.level ≤ r.level) ∧
      ∃ u, exec (.dispatchSelect k) s = .next u ∧ (u.coreAt k).sel = some r.id ∧ (u.coreAt k).selIdx = r.next ∧ u.units = s.units ∧
        u.recs = if r.k = .source then modFirst (·.id == r.id) (fun q => { q with next := q.next + 1 }) s.recs else s.recs) ∧
    (∀ id r, (s.coreAt k).sel = some id → s.rec? id = some r → (s.coreAt k).st = .idle → (s.part r.part).inReset = true →
      exec (.unitBind k t) s = .next s) ∧
    (∀ id r, (s.coreAt k).sel = some id → s.rec? id = some r → (s.coreAt k).st = .idle → (s.part r.part).inReset = false →
      let l := s.launchAt (inPart r.part r.launch)
      let runs (o : Out) (uidx : Nat) (aff : Word) : Prop := ∃ u, o = .next u ∧ (u.coreAt k).st = .running ∧
        (u.coreAt k).thread = t ∧ (u.coreAt k).sel = none ∧ (u.thr t).st = .resident ∧ (u.thr t).loc = k ∧
        (u.unitAt t).uidx = uidx ∧ (u.unitAt t).aff = aff ∧ ((u.unitAt t).ctxAt 0).pc = r.img.pc ∧
        ((u.unitAt t).ctxAt 0).live = true ∧ ((u.unitAt t).ctxAt 0).priv = false
      (r.k = .source → s.threadFree t = true → s.asValid r.asid = true →
        let n := (s.coreAt k).selIdx
        runs (exec (.unitBind k t) s) n (l.img.aff + l.affstr * BitVec.ofNat 64 n)) ∧
      (r.k = .posted → s.threadFree t = true → s.recBad r = false → s.asValid r.asid = true →
        runs (exec (.unitBind k t) s) r.img.uidx r.img.aff) ∧
      (r.k = .posted → s.threadFree t = true → s.recBad r = true →
        exec (.unitBind k t) s = .next (((s.dropBad r).unsel k).boundLate k r.cut).settleDue) ∧
      (r.k = .suspended → r.thread = t → s.recBad r = false → s.asValid r.asid = true →
        ∃ u, exec (.unitBind k t) s = .next u ∧ (u.coreAt k).st = .restoring ∧ (u.coreAt k).thread = t ∧ (u.thr t).st = .moved ∧
          ((u.unitAt t).ctxAt 0).pc = r.img.pc))

/-- R48 to R51, R267, R277, R366 to R373, R400, R401, R430. That a restore or a wake which a step starts stands on State.agenda (DESIGN
CHOICE, log 2), and which cores the next attempt of a group takes and keeps (DEDUCED, logs 60 and 91), are the model's choice. -/
def Obligations.GroupGangAndLaunchEvents : Prop :=
  ∀ (s : State) (id k : Nat) (r : Rec) (cores threads : List Nat) (ans : HostAns),
    let l := s.launchAt (inPart r.part r.launch)
    (s.rec? id = some r →
      (∀ g, s.groupOf r = some g → s.groupPlan r g = some (cores.map (·, 0)) → cores.Nodup → (∀ c ∈ cores, s.free c = true) →
        r.k = .source → threads.length = l.units → threads.Nodup →
        (∀ t ∈ threads, s.threadFree t = true) → s.firstInList r = true → s.asValid r.asid = true →
        ∃ u, exec (.groupBind id cores threads) s = .next u ∧ (u.launchAt (inPart r.part r.launch)).members = threads ∧
          ∀ i, (h : i < cores.length) → (h' : i < threads.length) → (u.coreAt cores[i]).st = .running ∧ (u.coreAt cores[i]).thread = threads[i] ∧
            (u.thr threads[i]).st = .resident ∧ (u.unitAt threads[i]).uidx = i ∧ (u.unitAt threads[i]).gang = l.gang) ∧
      (∀ g, s.groupOf r = some g → s.groupPlan r g = some (cores.map (·, 0)) → cores.Nodup → (∀ c ∈ cores, s.free c = true) →
        r.k = .saved →
        ∃ u, exec (.groupBind id cores threads) s = .next u ∧
          u.agenda = s.agenda ++ ((g.map (·.2)).zip cores).map (fun e => .restoreBegin e.2 e.1.thread)) ∧
      (∀ g, s.groupOf r = some g → r.k = .source → (s.part r.part).phi ≤ r.level →
        r.enq + 2 ^ (s.part r.part).age ≤ s.clk → cores = s.nextCores r g →
        ∃ u, exec (.groupReserve id cores) s = .next u ∧ ∀ c ∈ cores, (u.coreAt c).rsvFor = some id) ∧
      (s.unheld r = true → s.firstInList r = true → s.selected r.id = false →
        (∀ c, r.placed = some c → (s.coreAt c).halt = none ∨ s.candidate c r = false) →
        (∀ c ∈ s.asking r.bucket, (s.choose c).map (·.id) ≠ some r.id) →
        ∀ c cost, s.leastCore (s.boundCores.filter (fun k => s.candidate k r)) r.level r.bucket = some (c, cost) →
          let put (u : State) : Out := .next (u.modRec id (fun q => { q with placed := if cost = 284 then some c else none }))
          (cost = 284 → exec (.recordPlacement id) s = put (s.preempt c .priority)) ∧
          (cost = 0 → exec (.recordPlacement id) s = put s) ∧
          (cost ≠ 284 → cost ≠ 0 → exec (.recordPlacement id) s = put { s with agenda := s.agenda ++ [.islandWake c] }))) ∧
    (s.missed k = true → ∃ u, exec (.coreClockGate k) s = .next u ∧ (u.coreAt k).gated = false ∧ (u.coreAt k).idleSince = s.clk) ∧
    (s.allWait k = true → ∃ u, exec (.coreClockGate k) s = .next u ∧ (u.coreAt k).gated = true) ∧
    (s.free k = true → (s.coreAt k).idleSince + 64 ≤ s.clk → 1 ≤ (s.slotOf k).pwr →
      s.choose k = none → ∃ u, exec (.coreClockGate k) s = .next u ∧ (u.coreAt k).gated = true) ∧
    (∀ ph, ph = s.physCore k →
      (ph / 64 ∈ s.clusOff → exec (.islandWake k) s = .next { s with clusOff := s.clusOff.filter (· != ph / 64) }) ∧
      (ph / 64 ∉ s.clusOff → ph / 16 ∈ s.gated → s.pagesIn (ph / 16) = [] → ∃ u, exec (.islandWake k) s = .next u ∧
        ph / 16 ∉ u.gated ∧ (u.coreAt k).gated = false) ∧
      (ph / 64 ∉ s.clusOff → ph / 16 ∉ s.gated → ∃ u, exec (.islandWake k) s = .next u ∧ (u.coreAt k).gated = false)) ∧
    (∀ g, g = s.launchAt id →
      (s.gangArrived g = true → ∃ u, exec (.gbarComplete id) s = .next u ∧ (u.launchAt id).rolls = 0 ∧
        (g.members.Nodup → ∀ t ∈ s.gangLive g, ∀ c, c = (u.unitAt t).ctxAt 0 →
            (u.thr t).snap = [] ∧ (u.thr t).gimg = [(0, c)] ∧ c.pc = ((s.unitAt t).ctxAt 0).pc + 8 ∧ c.wait = .no ∧ (u.unitAt t).arrived = false)) ∧
      (g.gang = true → g.rolling = false → s.gangLive g = [] → s.gangHolds g = true →
        exec (.gbarComplete id) s = .next (s.releaseGang g)) ∧
      (∀ q ∈ (s.releaseGang g).reqs, q.heldBy g = false) ∧
      (g.gang = true → g.rolling = false → g.rolls < 2 → ∃ u, exec (.gangRollback id) s = .next u ∧
        (u.launchAt id).rolls = g.rolls + 1 ∧ (u.launchAt id).rolling = true ∧ u.units = s.units) ∧
      (g.gang = true → g.rolling = true → s.gangDrained g = true → ∃ u, exec (.gangRollback id) s = .next u ∧
        (u.launchAt id).rolls = g.rolls ∧ (u.launchAt id).rolling = false ∧
        ∀ t ∈ s.gangLive g, (u.unitAt t).vq = [] ∧ (u.unitAt t).mq = [] ∧
          ((s.thr t).st = .resident → (s.coreAt (s.thr t).loc).st ≠ .restoring → (u.thr t).snap = []))) ∧
    (∀ e, e = s.thr id →
      e.st = .closed → e.freed = true → e.ops = [] → ∃ u, exec (.unitEndRelease id) s = .next u ∧ (u.thr id).freed = false ∧
        (e.counted = true → (u.launchAt (inPart e.part e.launch)).count = (s.launchAt (inPart e.part e.launch)).count - 1) ∧
        (e.counted = false → u.launches = s.launches)) ∧
    (∀ p j e canc, p = id / 2 ^ 32 → j = id % 2 ^ 32 → e = s.part p → e.jobsDone.find? (·.1 == j) = some (j, canc) →
        (s.jobOwes p j = true → exec (.jobCompletion (id, ans)) s = .next s) ∧
        (s.jobOwes p j = false →
        let a := e.cbase.toNat + 16 * (e.cprod % 2 ^ e.clog)
        let h := (s.modPart p (fun e => { e with jobsDone := dropFirst (·.1 == j) e.jobsDone })).keepHost e.casid a ans
        (e.cen = false ∨ ((e.cprod + 2 ^ 32 - e.ccons) % 2 ^ 32 < 2 ^ e.clog ∧ h.untold e.casid a = false)) →
        ∃ u, exec (.jobCompletion (id, ans)) s = .next u ∧
          0 ∈ (u.part p).irq ∧ (u.part p).jobsDone = dropFirst (·.1 == j) e.jobsDone ∧
          (e.cen = true → (u.part p).cprod = (e.cprod + 1) % 2 ^ 32 ∧ u.mem = (h.vwrite e.casid a 16
            (j + (if canc then 2 ^ 63 else 0)) false).mem)))


/-! ## The fabric -/

/-- R14, R413 to R422. What the answers repeat (DESIGN CHOICE, log 84), when an acknowledgement comes (log 26) and what answers a type 0x07
fragment that comes alone (DEDUCED, log 75) are the model's choice. -/
def Obligations.FabricEvents : Prop :=
  ∀ (s : State) (port peer gw i : Nat) (p : Packet),
    let q := s.port port
    (port < 32 → q.down = false → ∀ acks,
      let t := s.acked port acks
      (acks = 0 → t = s) ∧ (0 < acks → s.linkHeld = [] → t.port port = { q with buf := q.buf.drop acks, replays := 0 }) ∧
      exec (.packetReceive port p (.headerBad, acks)) s = .next t ∧ exec (.packetReceive port p (.payloadBad, acks)) s = .next t ∧
      exec (.packetReceive port p (.noPacket, acks)) s = .next t ∧
      (∀ line, line < p.nl →
        exec (.packetReceive port p (.hallmarkBad line, acks)) s = exec (.packetReceive port (p.poisonLine line) (.good, acks)) s) ∧
      (∀ line n, line < p.nl → p.nl ≤ 4 → n / 8 = line → ((p.poisonLine line).word n).p = true) ∧
      let ev := exec (.packetReceive port p (.good, acks)) s
      (p.valid = false → ev = .next { t with captures := t.captures.set port p }) ∧
      (p.valid = true → p.dst / 4096 ≠ s.peer → ev = .next (t.routePacket (some port) (p.dst / 4096) p)) ∧
      (p.valid = true → p.dst / 4096 = s.peer → p.typ ≤ 7 → ev = .next { t with inbound := t.inbound ++ [p] }) ∧
      (p.valid = true → p.dst / 4096 = s.peer → 7 < p.typ → ev = .next { t with resps := t.resps ++ [p] })) ∧
    (q.buf ≠ [] → q.down = false → q.replays < 8 → ∃ u, exec (.linkReplay port) s = .next u ∧
      u.port port = { q with replays := q.replays + 1 }) ∧
    (q.down = false → 8 ≤ q.replays → ∃ u, exec (.linkDown port) s = .next u ∧ (u.port port).down = true ∧
      ((∀ r ∈ s.reqs, ∀ n, r.tgt ≠ .peer n) → u.mem = s.mem) ∧ ∀ e ∈ u.routes, e.2.v = true → e.2.port ≠ port) ∧
    (gw < 32 → peer < 1024 → ∀ v, ∃ u, exec (.routeChange gw peer v port) s = .next u ∧
      u.routes = s.routes.set (1024 * gw + peer) ⟨v, port % 32⟩ ∧
      (v = false → u.portFor peer = none → s.peerSt peer = .present → u.peerSt peer = .disabled)) ∧
    (s.peerSt peer = .present → exec (.peerFailed peer) s = .next ((s.reqs.filter (·.tgt == .peer peer)).foldl
      (fun t r => t.failAtHome r.id) { s with peers := s.peers.set peer .disabled })) ∧
    (s.peerSt peer = .disabled → exec (.peerSetPresent peer) s = .next { s with peers := s.peers.set peer .present }) ∧
    (s.inbound[i]? = some p → (∀ x ∈ s.inbound.take i, x.src / 4096 ≠ p.src / 4096) →
      let g := p.asker
      let u : State := { s with inbound := dropNth i s.inbound }
      let ev := exec (.gauntletRequest i) s
      let answer (n : Nat) : Out := .next (u.respond g 0x12 n [] 0)
      (s.tenantPart p.tenant = none → ev = answer 3) ∧
      (∀ a, s.tenantPart p.tenant = some a →
        ((s.part a).inReset = true ∨ s.asValid p.asid = false ∨ s.asPart p.asid ≠ a ∨ s.nclus ≤ p.dst / 64 % 64 →
          ev = .next ((u.logSpace a p.asid).respond g 0x12 3 [] 0)) ∧
        ((s.part a).inReset = false → s.asValid p.asid = true → s.asPart p.asid = a → p.dst / 64 % 64 < s.nclus →
          (p.typ = 4 → ev = .next (u.gauntletLanding p a)) ∧
          (p.typ = 7 → ev = .next ((u.respond g 0x12 0 [] 0).respond g 0x10 0 [] 0)) ∧
          (p.typ ≠ 4 → p.typ ≠ 7 → p.kind = none → ev = answer 0x24) ∧
          (∀ k, p.typ ≠ 4 → p.typ ≠ 7 → p.kind = some k →
            let r := u.reqOf p a k
            let w := u.sigWalk p.asid p.addr.toNat
            (∀ st, w.gauntletJudge r (p.typ == 6) = .error (st, none) →
              ev = .next ((if st = 0x24 then w.logWalk a p.asid p.addr.toNat else w).respond g 0x12 st [] 0)) ∧
            (∀ st pte, st ≠ 0x24 → w.gauntletJudge r (p.typ == 6) = .error (st, some pte) →
              ev = .next (if k.lines then w.respond g 0x12 st [] 0
                else (w.respond g 0x12 st [] 0).watch ⟨some pte, a, p.asid, p.addr, p.src / 4096, p.src, p.tag, 0, false⟩)) ∧
            (∀ tr tgt, w.gauntletJudge r (p.typ == 6) = .ok (tr, tgt) → ∃ n, ev = .next n ∧
              { r with tgt := tgt, et := tr.et } ∈ n.reqs ∧ n.inbound = u.inbound ∧ (s.hostMem.hall = [] → n.hostMem = s.hostMem)))))) ∧
    (s.resps[i]? = some p →
      let u : State := { s with resps := dropNth i s.resps }
      let ev := exec (.responseReceived i) s
      let named (r : Req) : Bool := (r.phase == .sent || r.phase == .accepted) && r.tgt == .peer (p.src / 4096) &&
        r.ptag == p.tag && r.core == p.dst % 4096 && p.addr == r.wire && p.lo == loNum r.lo && p.sz == r.size
      let hit (m : Monitor) : Bool := m.pte.isNone && m.chip == p.src / 4096 && m.chip != s.peer && m.asid == p.asid && m.va == p.addr
      (p.typ = 0x11 → ∀ m, s.monitors.find? hit = some m → ev = .next { u with
        monitors := dropFirst hit s.monitors, notes := s.notes ++ [⟨m.thread, m.key, m.ctx, cz 0x508, m.va, none⟩] }) ∧
      (p.typ ≠ 0x11 → ∀ r, s.reqs.find? named = some r →
        (r.k = .send → ev = .next (u.sendAnswer r p)) ∧
        (r.k = .rdMat ∨ r.k = .rdLine ∨ r.k = .wrLine → ev = .next (u.engAnswer r p)) ∧
        (r.k ≠ .send → r.k ≠ .rdMat → r.k ≠ .rdLine → r.k ≠ .wrLine →
          ev = .next (u.ctxAnswer r p) ∧
          (p.status = 0x28 ∨ p.status = 0x29 →
            u.ctxAnswer r p = u.modReq r.id (fun q => { q with phase := .refused, at_ := s.clk })) ∧
          (p.status = 0 → p.typ ≠ 0x12 → u.unsettled r = false → u.ctxAnswer r p = u.remoteDone r p))))


/-! ## The host's side -/

/-- R313, R340, R406, R407, R425 to R428, R430, R432. That a refusal of the host is kept for the replay (DEDUCED, log 63), what
accesses outside the decoders give and where the control page stands (DESIGN CHOICE, log 66), that LEN 0 drops an entry (DEDUCED, log 67) and
what a function-level reset keeps (DEDUCED, log 68) are the model's choice. -/
def Obligations.HostEvents : Prop :=
  ∀ (s : State) (a n line off part asid : Nat) (bytes : List Byte) (poison : Bool) (op : AOp) (v va len : Word) (act : HostAct),
    let up := s.boot.stage = 7
    let u := s.recall a n
    let e := s.part part
    let ones : Out := .next { s with hostData := List.replicate n 0xFF#8, hostPoison := false }
    (s.boot.stage < 7 → exec (.hostMemRead (.hdm a) n) s = ones) ∧
    (s.boot.stage = 0 → exec (.hostMemRead (.bar0 part off) n) s = ones ∧ exec (.hostMemRead (.msix part off) n) s = ones ∧
      exec (.hostMemRead (.aperture off) n) s = ones ∧ exec (.hostMemRead (.ctl off) n) s = ones) ∧
    (1 ≤ s.boot.stage →
      let gives (h : HostPlace) (n : Nat) (l : List Byte) : Prop :=
        exec (.hostMemRead h n) s = .next { s with hostData := l, hostPoison := false }
      (part < 16 → n = 4 ∨ n = 8 → off % n = 0 → off + n ≤ 0x100000 →
        gives (.bar0 part off) n (natLine n (s.devLoad (part * 0x100000 + off) n))) ∧
      gives (.ctl 0x00) 8 (natLine 8 s.awin) ∧ gives (.ctl 0x08) 8 (natLine 8 s.boot.bootst) ∧
      gives (.ctl 0x40) 8 (natLine 8 (s.mcap % 2 ^ 11 + s.mdraw % 2 ^ 16 * 2 ^ 32)) ∧
      (off + n ≤ 0x100000 → 0x20000 ≤ off ∨ s.gdev * gddrStep < s.awin + 0x10000 → exec (.hostMemRead (.aperture off) n) s = ones)) ∧
    (up → a + n ≤ s.gdev * gddrStep → ∃ t, exec (.hostMemRead (.hdm (s.hdmBase + a)) n) s = .next t ∧
      let w := u.verify (s.ownerOf a) 5 (linesOf a n)
      t.mem = w.mem ∧ t.hostData = w.mem.bytesAt a n ∧
      (t.hostPoison = true ↔ ∃ k ∈ linesOf a n, w.mem.anyPoison (64 * k) 64 = true)) ∧
    (up → a + bytes.length ≤ s.gdev * gddrStep → exec (.hostMemWrite (s.hdmBase + a) bytes poison) s =
      .next { s.recall a bytes.length with mem := (s.recall a bytes.length).mem.writeRun a (bytes.map (·, poison)) }) ∧
    (up → a + 8 ≤ s.gdev * gddrStep → a % 8 = 0 →
      let u := ((s.recall a 8).verify (s.ownerOf a) 5 (linesOf a 8)).reportRead (a / 64)
      exec (.hostLockedRmw (s.hdmBase + a) op v) s = .next { u with
        hostData := natLine 8 (u.mem.read a 8), hostPoison := u.mem.anyPoison a 8
        mem := u.mem.write a 8 (atomicNew op 8 (u.mem.read a 8) v.toNat) (op != .swap && u.mem.anyPoison a 8) }) ∧
    (∃ t, exec (.hostSnoop (line, act)) s = .next t ∧ let w := s.hostRecall line
      line ∉ t.edge ∧ (∀ l ∈ t.l2, l.pa ≠ line + 2 ^ 60) ∧
      (∀ l ∈ t.stk, l.line ≠ line + 2 ^ 60) ∧
      ((∀ l ∈ s.l2, l.pa ≠ line + 2 ^ 60) → (∀ l ∈ s.stk, l.line ≠ line + 2 ^ 60) → t.mem = s.mem ∧ w.hostMem = s.hostMem) ∧
      (s.hostMem.hall = [] → w.hostMem = s.hostMem) ∧
      (act = .look → t.hostMem = w.hostMem) ∧
      (∀ o k, act = .read o k → o + k ≤ 64 → t.hostData = w.hostMem.bytesAt (64 * line + o) k ∧ t.hostMem = w.hostMem) ∧
      (∀ o, act = .write o bytes poison → o + bytes.length ≤ 64 →
        t.hostMem = w.hostMem.writeRun (64 * line + o) (bytes.map (·, poison))) ∧
      (∀ o, act = .rmw o op v → o % 8 = 0 → o < 64 → ∀ x, x = 64 * line + o →
        t.hostData = natLine 8 (w.hostMem.read x 8) ∧ t.hostPoison = w.hostMem.anyPoison x 8 ∧
        t.hostMem = w.hostMem.write x 8 (atomicNew op 8 (w.hostMem.read x 8) v.toNat) (op != .swap && w.hostMem.anyPoison x 8))) ∧
    (1 ≤ s.boot.stage → off < 0x20000 → s.awin + 0x10000 ≤ s.gdev * gddrStep →
      let w := s.awin + off / 16 * 8
      let u := s.recall w 8
      let c := s.hostCome w 8
      (off % 8 = 0 → ∃ t, exec (.hostMemRead (.aperture off) 8) s = .next t ∧ t.mem = c.mem ∧ t.hostPoison = false ∧
        t.hostData = if off % 16 = 0 then c.mem.bytesAt w 8 else BitVec.ofNat 8 ((if c.mem.isFull (w / 8) then 1 else 0) +
          (if c.mem.poisoned (w / 8) then 2 else 0)) :: List.replicate 7 0) ∧
      (off % 16 = 0 → exec (.aliasDataWrite off v) s =
        .next ({ u with mem := (u.mem.writeClean w 8 v.toNat).setFull (w / 8) true }.wordChanged (w / 8))) ∧
      (off % 16 = 8 → exec (.aliasFullEmptyWrite off v) s =
        .next ({ u with mem := u.mem.setFull (w / 8) (v.getLsbD 0) }.wordChanged (w / 8)))) ∧
    ((part, asid, va) ∈ s.priOut → (part, asid, va) ∉ s.priWait →
      let hit (m : Monitor) : Bool := m.pte.isNone && m.chip == s.peer && m.part == part && m.asid == asid && m.va == va
      ∀ ans, ∃ t, exec (.priResponse part asid va ans) s = .next t ∧ (part, asid, va) ∉ t.priOut ∧
        t.notes = s.notes ++ (s.monitors.filter hit).map (fun m => ⟨m.thread, m.key, m.ctx, cz 0x608, m.va, none⟩) ∧
        t.monitors = s.monitors.filter (fun m => !hit m) ∧
        (∀ page, ans = .success page → t.tcs = (s.keepHost asid va.toNat page).tcs) ∧
        (ans = .invalidRequest → t.priRefused = s.priRefused ++ [(part, asid, va)]) ∧
        (ans = .responseFailure → (t.part part).priFail = true)) ∧
    ((part, asid, va) ∉ s.priOut → (part, asid, va) ∉ s.priWait →
      ((s.priOut.filter (·.1 == part)).length < e.priAlloc → (s.askHost part asid va).priOut = s.priOut ++ [(part, asid, va)]) ∧
      (e.priAlloc ≤ (s.priOut.filter (·.1 == part)).length → (s.askHost part asid va).priOut = s.priOut ∧
        (s.askHost part asid va).priWait = s.priWait ++ [(part, asid, va)])) ∧
    (let k : InvScope := ⟨some asid, part, va.toNat % 2 ^ 57, rangeEnd va len.toNat⟩
     ∃ t, exec (.atsInvalidation part asid va len) s = .next t ∧ (∀ tr ∈ t.tcs, k.names tr = false) ∧
       t.invs = s.invs ++ [⟨0, 0, 0, 0, (s.invalidate k).2⟩] ∧ t.mem = (s.invalidate k).1.mem) ∧
    (∀ l rest, e.logq = l :: rest →
      let full := 2 ^ (e.llog + 6) ≤ (e.lprod + 2 ^ 32 - e.lcons) % 2 ^ 32
      ∃ t, exec (.logEntryWrite part) s = .next t ∧ (t.part part).logq = rest ∧
        (e.len = false → t.mem = s.mem ∧ (t.part part).lprod = e.lprod) ∧
        (e.len = true → full → t.mem = s.mem ∧ (t.part part).llost = min (2 ^ 48 - 1) (e.llost + 1)) ∧
        (e.len = true → ¬ full → t.mem = s.mem.write (e.lbase.toNat + 32 * (e.lprod % 2 ^ (e.llog + 6))) 32 l.nat false ∧
          (t.part part).lprod = (e.lprod + 1) % 2 ^ 32 ∧ 1 ∈ (t.part part).irq)) ∧
    (part < 16 →
      (e.inReset = false → ∃ t, exec (.functionLevelReset part) s = .next t ∧ (t.part part).inReset = true ∧
        (∀ r ∈ t.recs, r.part = part → r.k = .saved ∨ r.k = .suspended) ∧
        ∀ c ∈ s.cores, (s.coreAt c.1).st ≠ .idle → (s.thr (s.coreAt c.1).thread).part = part →
          (t.coreAt c.1).halt = some .reset ∨ (t.coreAt c.1).halt = some .cancel) ∧
      (e.inReset = true → (∀ c ∈ s.cores, c.2.st = .idle ∨ (s.thr c.2.thread).part ≠ part) →
        ∃ t, exec (.functionLevelReset part) s = .next t ∧ (t.part part).inReset = false ∧ (t.part part).rings = [] ∧
          (t.part part).phi = e.phi ∧ (t.part part).plo = e.plo ∧ (t.part part).pool = e.pool ∧ (t.part part).tvec = e.tvec ∧
          (∀ r ∈ t.recs, r.part ≠ part) ∧ ∀ l ∈ t.launches, l.1 / 2 ^ 32 ≠ part))

/-- R5, R330, R353 to R359, R364, R430, R431, R433, R435, R439. The host's PRI enable and allocation registers (DEDUCED, log 63), its HDM base
(DESIGN CHOICE, log 66) and its MSI-X table (PRESUMED, log 98), and the 16 bits of an island's cap (DEDUCED, log 72) are the model's choice. -/
def Obligations.RegisterEvents : Prop :=
  ∀ (s : State) (part ring w k off peer base : Nat) (v : Word) (v32 : BitVec 32),
    let e := s.part part
    let x := s.window w
    (part < 16 → ring < 254 → e.inReset = false →
      let g := e.ring ring
      (∃ t, exec (.notifyProdWrite part ring v32) s = .next t ∧ (t.part part).ring ring = { g with prod := v32.toNat }) ∧
      (∃ t, exec (.notifyErrClear part ring) s = .next t ∧ (t.part part).ring ring = { g with err := false }) ∧
      (let l := v.toNat % 2 ^ 32
       let mine (r : Rec) : Bool := r.part == part && r.launch == l && r.place != .held
       let hit (r : Rec) : Bool := mine r && !s.selected r.id
       let lvl := min (max e.plo (min e.phi (v.toNat / 2 ^ 32 % 2 ^ 7))) (s.launchAt (inPart part l)).ceil
       exec (.notifyReprioritise part ring v) s = .next { s with
         recs := (s.recs.filter (fun r => !hit r)).map (fun (r : Rec) => if mine r then { r with due := some lvl } else r) ++
           (s.recs.filter hit).map (fun r => { r with level := lvl, enq := s.clk }) })) ∧
    (w < 64 → x.part = part → e.inReset = false →
      (x.en = false → s.windowBad w x = false →
        exec (.windowEnable part w) s = .next (s.setWindow w { x with en := true, err := false })) ∧
      (x.en = false → s.windowBad w x = true → exec (.windowEnable part w) s = .next (s.setWindow w { x with err := true })) ∧
      (x.en = true → ∃ t, exec (.windowDisable part w) s = .next t ∧ (t.window w).en = false)) ∧
    (part < 16 → e.inReset = false → ∃ t, exec (.poisonReportClear part) s = .next t ∧
      t.part part = { e with pcount := 0, pfirst := 0 }) ∧
    (2 ≤ s.boot.stage → exec .bootstCommit s =
      .next { s with boot := { s.boot with fuseSvn := max s.boot.fuseSvn (min 255 s.boot.svn) } }) ∧
    (1 ≤ s.boot.stage → exec (.moduleCapWrite v) s = .next { s with mcap := min 1800 (max 600 (v.toNat % 2048)) }) ∧
    (s.boot.stage = 0 → exec (.moduleCapWrite v) s = .next s ∧
      ∀ by_ r, by_ ≠ Writer.treleveber → exec (.registerWrite by_ r v) s = .next s) ∧
    (let wr (by_ : Writer) (r : RegName) : Out := exec (.registerWrite by_ r v) s
     let sup (r : RegName) : Out := wr (.supervisor part) r
     let trv (r : RegName) : Out := wr .treleveber r
     let n := v.toNat
     (1 ≤ s.boot.stage → part < 16 → e.inReset = false →
       (∃ t, sup (.sched part) = .next t ∧ t.part part = e.writeSched n) ∧
       (∃ t, sup (.stageCmd part) = .next t ∧ t.part part = { e with stBusy := true, stCmd := some v }) ∧
       (∃ t, sup (.victimReq part true) = .next t ∧ t.part part = { e with vreqs := e.vreqs ++ [⟨s.un.asid, e.vlo, v⟩] }) ∧
       (∃ t, sup (.victimReq part false) = .next t ∧ t.part part = { e with vlo := v }) ∧
       (0x100 ≤ off → off ≤ 0x120 → sup (.logReg part off) = .next (s.mmioWrite part off n)) ∧
       (0x200 ≤ off → off ≤ 0x218 → sup (.complReg part off) = .next (s.mmioWrite part off n)) ∧
       (ring < 254 → sup (.ring part ring off) = .next (s.ringWrite part ring off n)) ∧
       (w < 64 → x.part = part → k < 5 → sup (.winReg w k) = .next (s.writeWindow w k n)) ∧
       (w < 64 → x.part = part → sup (.fold w) = .next (s.setWindow w { x with fold := n % 2 ^ 48 }))) ∧
     (part < 16 →
       (∃ t, trv (.sched part) = .next t ∧ (t.part part).pool = fieldOf n 0 24 ∧
         (fieldOf n 42 7 ≤ fieldOf n 49 7 → (t.part part).phi = fieldOf n 49 7 ∧ (t.part part).plo = fieldOf n 42 7)) ∧
       (∃ t, trv (.tenant part) = .next t ∧ t.part part = { e with tenant := n % 65536 }) ∧
       (∃ t, trv (.share part) = .next t ∧ t.part part = { e with share := BitVec.ofNat 64 (shareWord n) }) ∧
       (peer < 1024 → ∃ t, trv (.reach part peer) = .next t ∧ (peer ∈ (t.part part).reach ↔ n.testBit 0 = true)) ∧
       (1 ≤ s.boot.stage → n ≠ 0 → ∃ t, wr .physFunction (.memRange part base) = .next t ∧ (base, n) ∈ (t.part part).owned)) ∧
     (1 ≤ s.boot.stage →
       wr .physFunction .awin = .next { s with awin := fieldOf n 16 32 * 65536 } ∧
       wr .host .hdmBase = .next { s with hdmBase := n } ∧
       (part < 16 → n.testBit 0 = true → ∃ t, wr .host (.priEnable part) = .next t ∧ t.part part = { e with priFail := false }) ∧
       (part < 16 → ∃ t, wr .host (.priAlloc part) = .next t ∧ t.part part = { e with priAlloc := n % 2 ^ 32 }) ∧
       (part < 16 → k < 6 → ∃ t, wr .host (.msix part k) = .next t ∧ t.part part = { e with msix := e.msix.set k v })) ∧
     (∃ t, trv (.asPart off) = .next t ∧ t.asPart (off % 65536) = n % 16) ∧
     (w < 64 → x.en = false → trv (.winReg w 0) = .next (s.setWindow w { x with part := fieldOf n 52 4, fold := 0 })) ∧
     (ring < 288 → ∃ t, trv (.islandCap ring) = .next t ∧ (t.islands.get .reset ring).cap = n % 65536 ∧
       ∀ i, i ≠ ring → t.islands.get .reset i = s.islands.get .reset i) ∧
     (∀ q, q ≠ part → wr (.supervisor q) (.sched part) = .next s ∧ wr (.supervisor q) (.stageCmd part) = .next s ∧
       wr (.supervisor q) (.logReg part off) = .next s ∧ wr (.supervisor q) (.tenant part) = .next s) ∧
     trv (.stageCmd part) = .next s ∧ sup (.tenant part) = .next s ∧ sup .awin = .next s ∧ sup (.asPart off) = .next s ∧
     sup .hdmBase = .next s)


/-! ## Bring-up, platform and memories -/

/-- R43, R349, R355, R405, R433 to R440. That a power-on reset keeps what the part has, its clusters, dies and devices (DESIGN CHOICE, log 15), how
Treleveber restarts (DEDUCED, log 71), that an island falls by one point at each average (DEDUCED, log 72), which
islands hold a clock gate until step 6 and that the floor of an uncore island is free (DESIGN CHOICE, log 96), and what an SPDM answer holds
(PRESUMED, log 97), are the model's choice. -/
def Obligations.BringUpAndPlatformEvents : Prop :=
  ∀ (s : State) (inp : BootIn) (digest island c gen steps draw : Nat) (draws : List (Nat × Nat)) (p : OpPoint) (r : SpdmReq)
    (sl : Slot) (off : Bool),
    let b := s.boot
    let boot := exec (.bootStep inp) s
    (∃ t, exec .powerOnReset s = .next t ∧ t.mem = State.reset.mem ∧ t.cores = State.reset.cores ∧ t.threads = State.reset.threads ∧
      t.boot.stage = 0 ∧ t.boot.fuseSvn = b.fuseSvn ∧ t.hostMem = s.hostMem ∧ t.nclus = s.nclus ∧ t.dies = s.dies ∧ t.gdev = s.gdev ∧
      t.partNo = s.partNo ∧ t.clk = State.reset.clk) ∧
    (b.stage = 0 → inp.sramOk = true → ∃ t, boot = .next t ∧ t.boot.stage = 1 ∧ t.boot.fuseSvn = max b.fuseSvn (inp.fuseSvn % 256)) ∧
    (b.stage = 1 → b.slot = 15 → boot = .next s) ∧
    (b.stage = 1 → b.slot ≠ 15 → slotError inp.slotA inp b.fuseSvn = 0 → ∃ t, boot = .next t ∧ t.boot.stage = 2 ∧ t.boot.slot = 0 ∧
      t.boot.svn = inp.slotA.svn ∧ t.boot.digest = imgDigest inp.slotA) ∧
    (b.stage = 1 → b.slot ≠ 15 → slotError inp.slotA inp b.fuseSvn ≠ 0 → slotError inp.slotB inp b.fuseSvn = 0 → ∃ t, boot = .next t ∧
      t.boot.stage = 2 ∧ t.boot.slot = 1 ∧ t.boot.erra = slotError inp.slotA inp b.fuseSvn ∧ t.boot.svn = inp.slotB.svn) ∧
    (b.stage = 1 → b.slot ≠ 15 → slotError inp.slotA inp b.fuseSvn ≠ 0 → slotError inp.slotB inp b.fuseSvn ≠ 0 → ∃ t, boot = .next t ∧
      t.boot.stage = 1 ∧ t.boot.slot = 15 ∧ t.boot.erra ≠ 0 ∧ t.boot.errb ≠ 0) ∧
    (b.stage = 2 → ∃ t, boot = .next t ∧ t.boot.stage = 3 ∧ t.boot.uds = 0 ∧ t.boot.cdi = Config.hmac b.uds b.digest ∧
      t.boot.aliasKey = Config.aliasKey (Config.hmac b.uds b.digest) ∧
      t.boot.aliasCert = Config.certify (Config.deviceKey b.uds) t.boot.aliasKey ∧ t.boot.log = b.log ++ [(1, Config.romDigest), (2, b.digest)]) ∧
    (b.stage = 3 → 1 ≤ inp.carve → inp.carve ≤ 48 → ∃ t, boot = .next t ∧ t.boot.stage = 4 ∧ t.mem = .blank ∧ t.carve = inp.carve) ∧
    (b.stage = 4 → s.cmapOk inp.cmap = true → 16 ≤ inp.tltLog → inp.tltLog ≤ 24 → ∃ t, boot = .next t ∧ t.boot.stage = 5 ∧
      t.nclus = s.nclus ∧ t.nclus = inp.cmap.length ∧ t.threads = [] ∧ t.slots = [] ∧ ∀ k < 64 * inp.cmap.length, (t.coreAt k).st = .idle ∧ (t.coreAt k).gated = true ∧
      ∀ j, 256 ≤ j → j < 288 → (t.island j).gated = true) ∧
    (b.stage = 5 → inp.peer < 1024 → ∃ t, boot = .next t ∧ t.boot.stage = 6 ∧ t.peer = inp.peer ∧ t.peerSt inp.peer = .self ∧
      ∀ j, (t.island j).gated = false) ∧
    (b.stage = 6 → ∃ t, boot = .next t ∧ t.boot.stage = 7 ∧ t.boot.log = b.log ++ [(4, s.measure4)]) ∧
    (b.stage = 7 → b.stopped = false → ∃ t, exec (.treleveberRestart inp) s = .next t ∧
      let img := if b.slot = 0 then inp.slotA else inp.slotB
      t.boot.log = b.log ++ [(2, imgDigest img)] ∧ t.boot.down = none ∧ t.mem = s.mem ∧ t.units = s.units ∧
      (t.boot.stopped = true ↔ slotError img inp b.fuseSvn ≠ 0 ∨ imgDigest img ≠ b.digest ∨
        3 ≤ (b.restarts.filter (fun x => s.clk < x + minute)).length)) ∧
    (3 ≤ b.stage → b.stopped = false →
      exec (.policyFirmwareLoad digest) s = .next { s with boot := { b with policy := digest, log := b.log ++ [(3, digest)] } } ∧
      exec (.spdmRequest r) s = .next { s with boot := { b with answer := s.spdmAnswer r } }) ∧
    (b.away = false →
      (island < 288 → pointOk island p = true → ∃ t, exec (.dvfsChange island p) s = .next t ∧ (t.island island).point = p) ∧
      (pointOk island p = false → exec (.dvfsChange island p) s = .next s) ∧ (island < 256 → pointOk island p = true) ∧
      (c < 4096 → s.gens.get 0 c = gen → ∃ t, exec (.slotWrite c gen sl) s = .next t ∧ t.slots.get slotBlank c = sl ∧
        t.gens.get 0 c = (gen + 1) % 256) ∧
      (1 ≤ steps → steps ≤ 48 → (∀ e ∈ s.cores, e.2.st = .idle) → exec (.carveOutChange steps) s = .next { s with carve := steps }) ∧
      (island < 256 → off = false → s.mayGate (16 * island) 16 2 = true → island / 4 ∉ s.clusOff →
        ∃ t, exec (.islandPowerGating island off) s = .next t ∧ island ∈ t.gated ∧ t.cores = s.cores) ∧
      (island < 256 → off = true → s.mayGate (64 * (island / 4)) 64 3 = true → island / 4 ∉ s.clusOff →
        (∀ i < 4, s.pagesIn (4 * (island / 4) + i) = []) →
        ∃ t, exec (.islandPowerGating island off) s = .next t ∧ island / 4 ∈ t.clusOff ∧
          t.cores = s.cores) ∧
      (∀ m, s.remapOk m = true → ∃ t, exec (.clusterRemap m) s = .next t ∧ t.mem = s.mem ∧ t.threads = s.threads ∧
        ∀ n < s.nclus, t.physCluster n = match m.find? (·.1 == n) with | some e => e.2 | none => s.physCluster n)) ∧
    (draw < 65536 →
      let m := s.measured draw draws
      let falls (j : Nat) : Prop := j < 288 ∧ (m.island j).capping = true ∧ m.canSlow j = true
      let ev := exec (.powerCapRegulate (draw, draws)) s
      m.mdraw = draw ∧ (m.capping = true ↔ s.mcap < draw ∨ (s.capping = true ∧ draw = s.mcap)) ∧
      (∀ j d, draws = [(j, d)] → j < 288 → d < 65536 → (m.island j).draw = d ∧ ((m.island j).capping = true ↔
        (s.island j).cap ≠ 0 ∧ ((s.island j).cap < d ∨ ((s.island j).capping = true ∧ d = (s.island j).cap)))) ∧
      (b.stopped = true → ev = .next m) ∧
      (b.stopped = false → ∃ c : State, c.mdraw = draw ∧ c.mcap = s.mcap ∧ c.mem = s.mem ∧ c.units = s.units ∧
        (∀ j, falls j → (c.island j).point = OpPoint.lower (m.island j).point) ∧ (∀ j, ¬ falls j → c.island j = m.island j) ∧
        (m.capping = false → ev = .next c) ∧ (m.capping = true → c.slowest = none → ev = .next c) ∧
        (m.capping = true → ∀ i, c.slowest = some i →
          ∃ t, ev = .next t ∧ (t.island i).point = OpPoint.lower (c.island i).point ∧ ∀ j, j ≠ i → t.island j = c.island j)))

/-- R319 to R334, R346, R404. That an eviction with TOKEN set is malformed (DEDUCED, log 43), which of several statuses a victim request
gets (DESIGN CHOICE, log 99) and that Treleveber restarts 5 ms after the error (DEDUCED, log 71) are the model's choice. -/
def Obligations.MemoryTierAndErrorEvents : Prop :=
  ∀ (s : State) (asid w n part f token k g line : Nat) (va v : Word) (noise : List (Nat × Byte)) (priv : Bool),
    (∀ t, s.l2.any (fun l => l.asid == asid && l.vline == va.toNat / 64) = false →
      (s.sigWalk asid va.toNat).translate asid va.toNat = .page t → t.mt = 0 →
      (t.aper = 0 → ∃ u, exec (.l2Fill asid va noise) s = .next u ∧
        (∃ l ∈ u.l2, l.asid = asid ∧ l.vline = va.toNat / 64 ∧ l.pa = t.pa va.toNat / 64 ∧ l.dirty = false) ∧
        (s.hostMem.hall = [] → u.hostMem = s.hostMem)) ∧
      (t.aper = 1 → ∃ u, exec (.l2Fill asid va noise) s = .next u ∧
        (∃ l ∈ u.l2, l.asid = asid ∧ l.vline = va.toNat / 64 ∧ l.pa = hostLine (t.pa va.toNat)) ∧ t.pa va.toNat / 64 ∈ u.edge ∧
        (noise = [] → s.hostMem.hall = [] → u.hostMem = s.hostMem))) ∧
    (∀ l ∈ s.l2, l.asid = asid → l.vline = va.toNat / 64 → l.dirty = true → ∃ u, exec (.l2Writeback asid va noise) s = .next u ∧
      (∀ m ∈ u.l2, ¬ (m.asid = asid ∧ m.vline = va.toNat / 64 ∧ m.dirty = true)) ∧
      (s.views = [] → ∀ m ∈ s.l2, ¬ (m.asid = asid ∧ m.vline = va.toNat / 64) → m ∈ u.l2)) ∧
    ((∀ e ∈ s.cores, e.2.st = .idle) → s.boot.stopped = false → ∃ u, exec (.l2ModeChange priv) s = .next u ∧
      u.l2 = [] ∧ u.tcs = [] ∧ u.l2Priv = priv) ∧
    ((s.window w).en = true → n < (s.window w).vlines →
      (s.views.any (·.1 == ((s.window w).base + 64 * n) / 64) = false →
        ∃ u, exec (.viewLineAssemble w n) s = .next u ∧ u.views.any (·.1 == ((s.window w).base + 64 * n) / 64) = true) ∧
      ∃ u, exec (.viewLineEvict w n) s = .next u ∧ ∀ e ∈ u.views, e.1 ≠ ((s.window w).base + 64 * n) / 64) ∧
    (∀ r rest, (s.part part).vreqs = r :: rest → s.boot.away = false →
      let op := fieldOf r.lo.toNat 62 2
      let tok := fieldOf r.lo.toNat 0 16
      let done (o : Out) (st t : Nat) : Prop := o = .next (s.victimDone part r st t)
      (op ≠ 0 → op ≠ 1 → done (exec (.victimEvict part f) s) 4 0) ∧
      (op = 0 → tok ≠ 0 → done (exec (.victimEvict part f) s) 4 0) ∧
      (op = 0 → tok = 0 → s.victimPage part r = none → done (exec (.victimEvict part f) s) 2 0) ∧
      (∀ a, op = 0 → tok = 0 → s.victimPage part r = some a →
        (s.anyFrame = false → done (exec (.victimEvict part f) s) 1 0) ∧
        (s.anyFrame = true → s.frameFree f = true →
          let t := (s.recall a 0x10000).verifyRun none 2 a 0x10000
          let page := t.mem.slice a 0x10000 0
          exec (.victimEvict part f) s = .next ((({ t with
            frames := t.frames.set f ⟨true, t.freeToken, part, page⟩, nextToken := (t.freeToken + 1) % 65536 } : State).frameStore f page).victimDone
              part r 0 t.freeToken))) ∧
      (op = 1 → s.victimPage part r = none → done (exec (.victimRecall part) s) 2 tok) ∧
      (∀ a, op = 1 → s.victimPage part r = some a →
        (s.frameOf part tok = none → done (exec (.victimRecall part) s) 3 tok) ∧
        (∀ h, s.frameOf part tok = some h →
          let t := s.recall a 0x10000
          exec (.victimRecall part) s = .next ((({ t with
            mem := t.mem.paste a 0x10000 (t.vframe h).page, frames := t.frames.del h } : State).verifyRun none 2 a 0x10000).victimDone
              part r 0 tok)))) ∧
    (∀ e, s.frames.find? (fun e => e.2.used && e.2.token == token) = some e → f / 48 ≠ e.1 / 48 → s.frameFree f = true →
      ∃ u, exec (.victimMigrate token f) s = .next u ∧ u.vframe f = e.2 ∧ u.mem = s.mem) ∧
    (let hit (l : ErrLoc) (P : State → Prop) : Prop := ∃ u, exec (.softError l v) s = .next u ∧ P u
     let named (p table : Nat) (u : State) : Prop := ∃ l ∈ (u.part p).logq, l.evt = 9 ∧ l.detail = table
     (g < 0x6000 → ∀ h, h = 48 * (s.physCore k / 16) + 3 * (s.physCore k % 16) + g / 0x2000 →
       hit (.lsGranule k g) (fun u => (u.lsOf k).poisoned g = true ∧ (u.lsOf k).read (8 * g) 8 = v.toNat ∧ u.mem = s.mem ∧
         ((s.vframe h).used = true → (u.vframe h).page.poisoned (g % 0x2000) = true))) ∧
     (g / 8 < 2 ^ 60 → hit (.memGranule g) (fun u => u.mem.poisoned g = true ∧ u.mem.full = s.mem.full ∧ u.cores = s.cores)) ∧
     (line < 2 ^ 60 → hit (.memMarks line) (fun u => u.mem.bytes = s.mem.bytes ∧ ∀ i < 8, u.mem.poisoned (8 * line + i) = true)) ∧
     (∀ x, line = x + 2 ^ 60 →
       (s.holdsLine line = false → exec (.softError (.memMarks line) v) s = .next s ∧
         ∀ i < 8, exec (.softError (.memGranule (8 * line + i)) v) s = .next s) ∧
       (s.holdsLine line = true →
         hit (.memMarks line) (fun u => u.hostMem.bytes = s.hostMem.bytes ∧ u.mem = s.mem ∧ ∀ i < 8, u.hostMem.poisoned (8 * x + i) = true) ∧
         ∀ i < 8, hit (.memGranule (8 * line + i)) (fun u => u.hostMem.poisoned (8 * x + i) = true ∧ u.mem = s.mem))) ∧
     (line < 0xC00 → ∀ h, h = 48 * (s.physCore k / 16) + 3 * (s.physCore k % 16) + line / 0x400 →
       hit (.lsMarks k line) (fun u => (u.lsOf k).bytes = (s.lsOf k).bytes ∧ (∀ i < 8, (u.lsOf k).poisoned (8 * line + i) = true) ∧
         ((s.vframe h).used = true → ∀ i < 8, (u.vframe h).page.poisoned (8 * (line % 0x400) + i) = true))) ∧
     hit (.tltEntry k) (fun u => (u.thr k).st = .closed ∧ named (s.thr k).part 3 u) ∧
     exec (.tltEntryLost k) s = .next ((s.loseThread k).logTable (s.thr k).part 3) ∧ ((s.loseThread k).thr k).st = .closed ∧
     hit (.slotEntry k) (fun u => (u.slots.get slotBlank k).v = false ∧ named (s.slots.get slotBlank k).part 6 u) ∧
     ((s.coreAt k).st ≠ .idle → hit (.bufDesc k n) (fun u => (u.unitAt (s.coreAt k).thread).bufs.get .reset n = .reset ∧
       named (s.unitAt (s.coreAt k).thread).part 7 u)) ∧
     hit (.window w) (fun u => (u.window w).en = false ∧ (u.window w).err = true ∧ named (s.window w).part 8 u) ∧
     hit (.clusterMirror n) (fun u => u.mem = s.mem ∧ u.cores = s.cores ∧ u.units = s.units ∧ ∀ p < 16, named p 9 u) ∧
     ((s.stageAt (stageKey asid n)).inst = true →
       let p := (s.stageAt (stageKey asid n)).part
       hit (.krtEntry asid n) (fun u => (u.stageAt (stageKey asid n)).stopped = true ∧ named p 4 u) ∧
       hit (.stageEntry asid n) (fun u => (u.stageAt (stageKey asid n)).stopped = true ∧ named p 5 u)) ∧
     (s.boot.stage = 7 → s.boot.stopped = false → hit .trvSram (fun u => u = { s with boot := { s.boot with down := some (s.clk + 15000000) } }))) ∧
    ∃ u, exec (.deviceErrorReport line) s = .next u ∧ (∀ i < 8, u.mem.poisoned (8 * line + i) = true) ∧
      u.mem.bytes = s.mem.bytes ∧ u.pkgLog = s.pkgLog ++ [(64 * line, 2)]


/-- The instruction that the parcels written as numbers decode to, at offset 0 of a fetch block. -/
def Sys2Proof.Claims.Reads (ws : List Nat) (i : Instr) : Prop := decode 0 (ws.map (BitVec.ofNat 32)) = .ok i
/-- A memory operand with no index, not taken: INDEX 63, SC 0 (R72). -/
def Sys2Proof.Claims.Plain (base v : Opd) (sp : Space) (disp : BitVec 32) : MemOp := ⟨0, false, .imm, base, v, sp, disp⟩
/-- The major opcodes that the map leaves out (R93). -/
def Sys2Proof.Claims.Unassigned (n : Nat) : Prop :=
  n = 0 ∨ (0x28 ≤ n ∧ n ≤ 0x2F) ∨ (0x37 ≤ n ∧ n ≤ 0x3F) ∨ (0x46 ≤ n ∧ n ≤ 0x5F) ∨ (0x66 ≤ n ∧ n ≤ 0x6F) ∨
  (0x74 ≤ n ∧ n ≤ 0x7F) ∨ n = 0x9F ∨ (0xAE ≤ n ∧ n ≤ 0xAF) ∨ (0xBC ≤ n ∧ n ≤ 0xBF) ∨ (0xC8 ≤ n ∧ n ≤ 0xCF) ∨
  (0xE7 ≤ n ∧ n ≤ 0xEF) ∨ 0xF8 ≤ n

/-- R79, R94, R95, R144, R167, R402; the order in which agents act is the model's (log 2). -/
def Obligations.StepRunsTheDecodedInstruction : Prop :=
  (∀ (s u v x w : State) (k c : Nat) (tr : Trans) (i : Instr) (m : PMem) (pa : Nat) (p0 : Parcel),
    u = s.tick → u.agenda = [] → u.timedNow = none → (u.turn = false ∨ u.due = none) → u.next? = some (k, c) →
    v = { u with turn := true, core := k, ctx := c } → v.noticeDue k c = none →
    x = v.sigWalk v.un.asid v.cx.pc.toNat → x.translate v.un.asid v.cx.pc.toNat = .page tr → tr.x = true → pa = tr.pa v.cx.pc.toNat →
    (tr.aper = 0 ∧ w = x.fetchBlock v.un.asid v.cx.pc.toNat tr (.dev pa) pa ∧ m = w.mem) ∨
      (tr.aper = 1 ∧ w = (x.fetchBlock v.un.asid v.cx.pc.toNat tr (.host pa) pa).track (pa / 64) ∧ m = w.hostMem) →
    p0 = (blockParcels m pa).headD 0 → m.anyPoison pa 4 = false → m.anyPoison pa (lenOf p0) = false →
    decodeParcels (pa % 32) (blockParcels m pa) = .ok i →
    lateCause v.cx.uact (v.un.phased && v.un.exchange) i = none →
    step s = noteIssue k c (exec i { w with ir := p0, len := lenOf p0 })) ∧
  (∀ (k c : Nat) (t : State), noteIssue k c (.next t) =
    .next (if ((t.unitAt (t.coreAt k).thread).ctxAt c).wait = .no then
      { t.modCore k (fun x => { x with lastCtx := c, gated := false }) with issued := some k } else t)) ∧
  (∀ s : State, s.tick.clk = s.clk + 1 + s.pace.headD 0) ∧
  (∀ (s u : State) (i : Instr) (l : List Instr), u = s.tick → u.agenda = i :: l →
    (i.isStep = true → step s = exec i { u with agenda := l }) ∧ (i.isStep = false → step s = .next { u with agenda := l })) ∧
  (∀ (s u : State) (i : Instr), u = s.tick → u.agenda = [] → u.timedNow = some i → step s = exec i { u with timed := u.timed.drop 1 }) ∧
  (∀ s : State, s.timedNow = if s.clk % 2 = 0 then s.timed.head? else none) ∧
  (∀ (s u : State), u = s.tick → u.agenda = [] → u.timedNow = none →
    (∀ i, u.turn = true → u.due = some i → step s = exec i { u with turn := false }) ∧
    (∀ i, u.turn = false → u.next? = none → u.due = some i → step s = exec i u) ∧
    (u.due = none → u.next? = none → step s = .next u))

/-- The parcels of the worked examples of R78 to R96, of CVP, of the vectors, of the INT8 program and of STC. -/
def Obligations.WorkedWordsDecode : Prop :=
  Reads [0x003F28D0, 0x00020000] (.qcfg (.g 10) .imm 2) ∧
  Reads [0x0000286D, 0, 0] (.ldi (.g 10) 0) ∧
  Reads [0x0FC12D01, 0x00010003, 0] (.ld .d .plain .normal (Plain (.g 1) (.g 11) .ls 0)) ∧
  Reads [0x32CA2804, 0] (.iadd .i64 false ⟨.g 10, .g 10, true, .g 11, true, 0⟩) ∧
  Reads [0x0FC10404, 0x00080000] (.iadd .i64 false ⟨.g 1, .g 1, false, .imm, false, 8⟩) ∧
  Reads [0x0FC20808, 0x00010000] (.isub .i64 false ⟨.g 2, .g 2, false, .imm, false, 1⟩) ∧
  Reads [0x00020089, 0, 0xFFFFFFF6] (.bnz ⟨.g 2, false, 0⟩ (BitVec.ofInt 32 (-10))) ∧
  Reads [0x1FC32905, 0x00010003, 0] (.st .d .plain .normal { Plain (.g 3) (.g 10) .ls 0 with tv := true }) ∧
  Reads [0x00000358, 0] .uexit ∧
  Reads [0x0FC10B8D, 0x00010002, 0] (.stc .w .plain .normal (Plain (.g 1) (.g 2) .ls 0)) ∧
  Reads [0x00020F80, 0] (.pchk (.g 3) (.g 2) false) ∧
  Reads [0x00030085, 0, 6] (.bz ⟨.g 3, false, 0⟩ 6) ∧
  Reads [0x00810EAC, 0x00000189] (.cvp .b4 .e4m3 ⟨.rne, true⟩ ⟨.g 3, .g 1, false, .g 2, false, 0⟩) ∧
  Reads [0x0FC312B4, 0x00030009] (.cvu .e4m3 ⟨.g 4, .g 3, false, .imm, false, 3⟩) ∧
  Reads [0x00800201, 0, 0] (.shld ⟨.g 1, false, 0, 0, 0, 0, 0, 0⟩) ∧
  Reads [0x00800601, 0, 0x28] (.shld ⟨.g 1, false, 0, 0, 0, 1, 0, 0x28⟩) ∧
  Reads [0x1FC0061D, 6, 0x3F000000] (.vmul .f32 ⟨.rne, false⟩ ⟨.imm, true, 0, 0, 0, 1, 0, 0x3F000000⟩) ∧
  Reads [0x1F800609, 0x00003F00, 0] (.shset .rewind ⟨.imm, false, 0, 0, 0, 1, 0, 0⟩) ∧
  Reads [0x04002265, 6, 0] (.vsum .f32 false ⟨.g 8, false, 0, 0, 1, 0, 0, 0⟩) ∧
  Reads [0x00001AD6, 0x10, 0, 0]
    (.mlda ⟨.g 6, .g 0, .g 0, .g 0, 0, 0, 0, false, false, .i64, .i64, 1, 0, false, 0, 0, 0⟩) ∧
  Reads [0x00040AC2, 0x00029150, 1, 0]
    (.mma ⟨.g 2, .g 4, .g 0, .g 0, 0, 0, 2, true, false, .i8, .ui8, 1, 0, false, 0, 0, 1⟩) ∧
  Reads [0x034012E6, 0x00024110, 1, 0]
    (.mcsum ⟨.g 4, .g 0, .g 13, .g 0, 0, 0, 2, false, true, .i64, .i8, 1, 0, false, 0, 0, 1⟩) ∧
  Reads [0x02CA22DE, 0x03014110, 0, 0]
    (.mdrn ⟨.g 8, .g 10, .g 11, .g 0, 0, 0x30, 1, false, true, .i64, .i8, 1, 0, false, 0, 0, 0⟩) ∧
  Reads [0x00003EEE, 0x10, 0, 0]
    (.mstat ⟨.g 15, .g 0, .g 0, .g 0, 0, 0, 0, false, false, .i64, .i64, 1, 0, false, 0, 0, 0⟩)

/-- R78, R79, R82 to R87, R91, R92. -/
def Obligations.DecodeReadsBackEveryEncoding : Prop :=
  ∀ i : Instr,
    (i.isStep = false → i.WellFormed = true → ∀ (off : Nat) (rest : List Parcel), off + 4 * (encode i).length ≤ 32 →
      decode off (encode i ++ rest) = .ok i) ∧
    (i.isStep = true → encode i = [])

/-- R78, R79, R92 to R95. -/
def Obligations.DecodeCauses : Prop :=
  ∀ (off : Nat) (p0 : Parcel) (rest : List Parcel),
    let r := decode off (p0 :: rest)
    let n := (p0.extractLsb' 2 8).toNat
    let l := p0.extractLsb' 0 2
    (p0 = 0xFFFFFFFF#32 → r = .error .pad ∧ Reject.cause .pad = none) ∧
    (p0 ≠ 0xFFFFFFFF#32 → l = 3#2 → r = .error .fill ∧ Reject.cause .fill = some 0x003) ∧
    (l ≠ 3#2 → 32 < off + lenOf p0 → r = .error .crosses ∧ Reject.cause .crosses = some 0x004) ∧
    (l ≠ 3#2 → off + lenOf p0 ≤ 32 →
      (Unassigned n → r = .error .opcode ∧ Reject.cause .opcode = some 0x001) ∧
      (¬ Unassigned n → r ≠ .error .opcode ∧
        (∀ fmt, fmtOf (p0.extractLsb' 2 8) = some fmt →
          (fmt.len ≠ l → r = .error .length ∧ Reject.cause .length = some 0x002) ∧
          (fmt.len = l → ∀ f, Form.ofParcels fmt (p0 :: rest) = some f →
            ((f.instr = none ∨ ∃ i, f.instr = some i ∧ (encode i ≠ (p0 :: rest).take (encode i).length ∨ i.coded = false)) ↔
              r = .error .field) ∧
            ∀ i, f.instr = some i → encode i = (p0 :: rest).take (encode i).length → i.coded = true →
              r = (if i.noRsv = false then .error .code else if i.accepted = false then .error .operand
                else if i.combo = false then .error .combo else .ok i))))) ∧
    ∀ (pc : Word), pc.toNat + 32 < 2 ^ 64 →
      (rejectAddr .crosses pc).toNat = pc.toNat / 32 * 32 + 32 ∧
      ∀ e, e ≠ .crosses → rejectAddr e pc = pc

/-- R105, R114, R126, R137, R138, R142, R319, R357, R358, R406, R430, R431, R433, R439; the value 0 of memory before
bring-up and of an empty register is the model's (log 3, log 4). -/
def Obligations.ResetState : Prop :=
  let s := State.reset
  s.memOk ∧
  (∀ a n : Nat, s.mem.read a n = 0 ∧ s.mem.anyPoison a n = false ∧ s.mem.isFull a = false) ∧
  (∀ t : Nat, (s.thr t).st = .closed) ∧ s.reqs = [] ∧ s.notes = [] ∧ s.recs = [] ∧ s.flight = [] ∧ s.boot.stage = 0 ∧
  (∀ k : Nat, (s.coreAt k).st = .idle ∧ (s.coreAt k).ls = .blank ∧ (s.coreAt k).links = [] ∧ (s.coreAt k).aserr = 0) ∧
  (∀ k : Nat,
    let p := s.part k
    p.phi = 127 ∧ p.plo = 0 ∧ p.age = 20 ∧ p.spin = 12 ∧ p.slice = 20 ∧ p.pool = 0 ∧ p.share = 0x10101#64 ∧
    p.len = false ∧ p.cen = false ∧ p.stBusy = false ∧ p.pcount = 0 ∧
    ∀ r : Nat, (p.ring r).prod = 0 ∧ (p.ring r).cons = 0 ∧ (p.ring r).err = false ∧ (p.ring r).en = false) ∧
  s.mcap = 1800 ∧ s.mdraw = 0 ∧ (∀ w : Nat, (s.window w).en = false) ∧
  (∀ t : Nat,
    let u := s.unitAt t
    u.lfsr = 1#32 ∧ (∀ k : Nat, u.shape k = ⟨0, false⟩) ∧ (∀ n i j : Nat, u.accAt n i j = ⟨0, false⟩) ∧
    (∀ i : Fin 16, u.l4At i = ⟨BitVec.ofInt 64 (if (i : Nat) < 8 then i else i - 16) &&& 0xFF, false⟩) ∧
    (∀ k : Nat, (u.bufs.get .reset k).v = false) ∧
    ∀ c : Nat,
      let x := u.ctxAt c
      x.live = false ∧ x.priv = false ∧ x.uen = true ∧ x.uact = false ∧ x.assay.armed = false ∧ x.upc = 0 ∧ x.ucause = 0 ∧
      x.uarg = 0 ∧ x.uvec = 0 ∧ x.tpc = 0 ∧ x.tcause = 0 ∧ x.taddr = 0 ∧ x.tscratch = 0 ∧ x.subst = 0 ∧ x.orph = 0 ∧
      ∀ n : Fin 32, n ≠ 0 → x.reg n = ⟨0, false, false, 0, []⟩)

/-- R2, R174, R178, R180, R316. -/
def Obligations.MemoryIsReadBack : Prop :=
  (∀ (m : PMem) (a n v : Nat) (p : Bool),
    (m.write a n v p).read a n = v % 256 ^ n ∧
    (∀ b, (b < a ∨ a + n ≤ b) → Memory.byte (m.write a n v p).bytes b = Memory.byte m.bytes b) ∧
    (∀ g, (8 * g + 8 ≤ a ∨ a + n ≤ 8 * g) → (m.write a n v p).poisoned g = m.poisoned g) ∧
    (∀ g, a ≤ 8 * g → 8 * g + 8 ≤ a + n → (m.write a n v p).poisoned g = p) ∧
    (∀ g, a < 8 * g + 8 → 8 * g < a + n → ¬ (a ≤ 8 * g ∧ 8 * g + 8 ≤ a + n) → 0 < n →
      (m.write a n v p).poisoned g = (p || m.poisoned g)) ∧
    (∀ w, (m.write a n v p).isFull w = m.isFull w) ∧
    (∀ (w x : Nat) (f : Bool), (m.setFull w f).isFull x = if x = w then f else m.isFull x) ∧
    (Memory.wf m.bytes = true → Memory.wf (m.write a n v p).bytes = true ∧ Memory.wf (m.writeClean a n v).bytes = true ∧
      Memory.wf (m.clear a n).bytes = true ∧ (∀ l, Memory.wf (m.writeRun a l).bytes = true) ∧
      ∀ l, Memory.wf (m.corrupt a l).bytes = true)) ∧
  ∀ (l m : List Host.Cell), Memory.wf l = true → Memory.wf m = true → (∀ a, Memory.byte l a = Memory.byte m a) → l = m

/-- The form of the model's memories (R2, R316, R318, R319). -/
def Obligations.StepKeepsMemoryCanonical : Prop :=
  ∀ s t : State, s.memOk → step s = .next t → t.memOk


/-! ## Completion of forms that act in one step -/

/-- The bytes of a store stand in device memory, little-endian, at pa. -/
def Sys2Proof.Claims.stored (t : State) (r : Req) (pa : Nat) : Prop :=
  ∀ x < szBytes r.sz, Memory.byte t.mem.bytes (pa + x) = BitVec.ofNat 8 (r.d.v.toNat / 256 ^ x)

/-- An access i of this package in a given phase, aimed at device memory, with no access of any word waiting in a list. -/
def Sys2Proof.Claims.InTurn (s : State) (i : Nat) (r : Req) (ph : Phase) (pa : Nat) : Prop :=
  s.req i = some r ∧ r.phase = ph ∧ r.tag = none ∧ r.tgt = .dev pa ∧ r.sm = .plain ∧ ∀ q ∈ s.reqs, q.phase ≠ .listed

/-- R175, R178, R191, R192, R272 to R275, R307: each form completes under conditions on the state and the operands alone. -/
def Obligations.TileBufferAndAccessFormsComplete : Prop :=
  (∀ (s : State) (o : Un) (a : Src) (st : BufState) (i b : Opd) (ti tb : Bool) (imm : BitVec 16) (v w : Val),
    let u := s.un
    let n := v.v.toNat
    let x := u.bufs.get .reset n
    let next (e : Instr) (f : State → Prop) : Prop := ∃ t, exec e s = .next t ∧ t.cx.pc = s.nextPc ∧ f t
    let reg (t : State) (y : Word) : Prop := ∀ d : BitVec 5, o.d = .g d → d ≠ 0 → (s.cx.reg d.toNat).depth = 0 →
      (s.coreAt s.core).lbuf = [] → (t.cx.reg d.toNat).f = true ∧ (t.cx.reg d.toNat).v = y
    let block (z : Nat) : Prop := ∃ y ∈ u.alloc, y.off = z ∧ y.used = true
    (Ready s (sx16 o.imm) [(o.a, o.ta)] (some o.d) [v] → v.p = false →
      (∀ k, 8 ≤ k → k ≤ 16 → n = 2 ^ k →
        ((∀ y ∈ u.alloc, y.used = true ∨ y.lg < k) → next (.tballoc o) (fun t => reg t (BitVec.allOnes 64))) ∧
        (∀ y ∈ u.alloc, y.used = false → k ≤ y.lg → next (.tballoc o) (fun t => ∃ z ∈ u.alloc, z.used = false ∧
          k ≤ z.lg ∧ z.lg ≤ y.lg ∧ reg t (BitVec.ofNat 64 z.off) ∧ ⟨z.off, k, true⟩ ∈ t.un.alloc))) ∧
      (n ≤ 31 → next (.tbstat o) (fun t => reg t (BitVec.ofNat 64 x.word)))) ∧
    (Ready s (sx16 a.imm) [(a.a, a.ta)] none [v] → v.p = false → block n →
      (∀ e ∈ u.bufs, e.2.v = true → e.2.base = n → e.2.st = .empty) →
      next (.tbfree a) (fun t => t.un.alloc = freeBlk u.alloc n)) ∧
    (Ready s (sx16 imm) [(i, ti), (b, tb)] none [v, w] → v.p = false → w.p = false → n ≤ 31 →
      (x.v = false → st ≠ .draining → block w.v.toNat) → (x.v = false → st ≠ .draining) →
      (x.v = true → x.st = .empty → st ≠ .draining ∧ block w.v.toNat) →
      (x.v = true → x.st ≠ .empty → x.base = w.v.toNat ∧ (st = x.st ∨ st = .empty ∨
        (x.st = .filling ∧ st = .full) ∨ (x.st = .full ∧ st = .draining))) →
      next (.tbset st i ti b tb imm) (fun t => (t.un.bufs.get .reset n).v = true ∧ (t.un.bufs.get .reset n).st = st))) ∧
  (∀ (s : State) (i pa : Nat) (r : Req),
    let done (e : Instr) : Prop :=
      (r.k = .st → ∃ t, exec e s = .next t ∧ stored t r pa ∧ t.reqs.length + 1 = s.reqs.length) ∧
      (r.k = .ld → ∃ t q, exec e s = .next t ∧ t.req i = some q ∧ q.phase = .performed)
    (pa + szBytes r.sz ≤ s.asBase ∨ s.asBase + 64 * 65536 ≤ pa) →
    (InTurn s i r .accepted pa → s.earlier r = false → done (.accessPerform i)) ∧
    (InTurn s i r .refused pa → r.at_ + 64 ≤ s.clk → done (.requestRetry i))) ∧
  (∀ (s : State) (r : Req) (w : Nat), s.reqs.filter (fun q => q.phase == .listed) = [r] → s.req r.id = some r →
    r.k = .ld → r.sm = .rf → r.tag = none → r.tgt = .dev (8 * w) → (s.unitAt r.thread).gang = false →
    s.mem.isFull w = true →
    ∃ t q, exec (.retryListWalk w) s = .next t ∧ t.req r.id = some q ∧ q.phase = .performed) ∧
  (∀ (s : State) (i : Nat) (ans : HostAns) (r : Req) (t : Trans), s.req i = some r → r.k = .flag → r.sz = .d →
    r.phase = .accepted → r.tag = none → r.sub = false → s.coveredLeft r = false →
    s.opOut r = true → (s.sigWalk r.asid r.ea.toNat).translate r.asid r.ea.toNat = .page t → t.aper = 0 → t.w = true →
    (∀ q ∈ s.reqs, q.phase ≠ .listed) →
    (t.pa r.ea.toNat + 8 ≤ s.asBase ∨ s.asBase + 64 * 65536 ≤ t.pa r.ea.toNat) →
    ∃ z, exec (.flagfWrite i ans) s = .next z ∧ stored z r (t.pa r.ea.toNat)) ∧
  (∀ (s t : State) (core ctx : Nat) (o : Src) (ir : Parcel) (len : Nat) (v : Val),
    let u : State := ({ t with ir := ir, len := len } : State).mapRead [(o.a, o.ta)] (sx16 o.imm) (fun _ => [])
    (s.coreAt core).st = .running → (s.coreAt core).halt = none →
    ({ s with core := core, ctx := ctx } : State).cx.live = true →
    ({ s with core := core, ctx := ctx } : State).cx.wait = .smfrz →
    ({ s with core := core, ctx := ctx } : State).fetchAt = (t, .instr (.smfrz o) ir len) →
    MemReady u (sx16 o.imm) [(o.a, o.ta)] [v] → v.p = false → v.v.toNat < 4096 →
    u.smapSt u.un.asid v.v.toNat ≠ .invalid → (u.un.asid, v.v.toNat) ∈ u.frozen → u.inFlight u.un.asid v.v.toNat = 0 →
    exec (.smfrzDrain core ctx) s = .next ((u.retireMem [(o.a, o.ta)]).drain u.core))
end

