-- ==== Sys2Proof/Laws/Tab.lean ====
section
/-!
SUPPORT. The laws of finite tables and of the list operations beside them.
-/
namespace Sys2Proof.Machine

theorem Tab.get_del_same {α : Type} (d : α) (t : Tab α) (k : Nat) : (t.del k).get d k = d := by
  induction t with
  | nil => rfl
  | cons e t ih =>
    by_cases h : e.1 = k
    · simpa [Tab.del, h] using ih
    · simpa [Tab.del, h, Tab.get] using ih

theorem Tab.get_del_other {α : Type} (d : α) (t : Tab α) (k j : Nat) (h : j ≠ k) : (t.del k).get d j = t.get d j := by
  induction t with
  | nil => rfl
  | cons e t ih =>
    by_cases hk : e.1 = k
    · have : ¬ k = j := fun e => h e.symm
      simpa [Tab.del, hk, Tab.get, this] using ih
    · by_cases hj : e.1 = j
      · simp [Tab.del, hj, Tab.get, h]
      · simpa [Tab.del, hk, hj, Tab.get] using ih

theorem Tab.get_place_other {α : Type} (d v : α) (t : Tab α) (k j : Nat) (h : j ≠ k) :
    (t.place k v).get d j = t.get d j := by
  have hk : ¬ k = j := fun e => h e.symm
  induction t with
  | nil => simp [Tab.place, Tab.get, hk]
  | cons e t ih =>
    by_cases hlt : k < e.1
    · simp [Tab.place, hlt, Tab.get, hk]
    · simp [Tab.place, hlt, Tab.get, ih]

theorem Tab.get_place_same {α : Type} (d v : α) (t : Tab α) (k : Nat) (h : ∀ e ∈ t, e.1 ≠ k) :
    (t.place k v).get d k = v := by
  induction t with
  | nil => simp [Tab.place, Tab.get]
  | cons e t ih =>
    have he : ¬ e.1 = k := h e (by simp)
    by_cases hlt : k < e.1
    · simp [Tab.place, hlt, Tab.get]
    · simp [Tab.place, hlt, Tab.get, he, ih (fun x hx => h x (by simp [hx]))]

/-- What was put is read back. -/
@[simp] theorem Tab.get_set_same {α : Type} (d v : α) (t : Tab α) (k : Nat) : (t.set k v).get d k = v :=
  Tab.get_place_same d v _ k (by intro e he; simpa using (List.mem_filter.1 he).2)

/-- Every other entry stays. -/
theorem Tab.get_set_other {α : Type} (d v : α) (t : Tab α) (k j : Nat) (h : j ≠ k) : (t.set k v).get d j = t.get d j := by
  rw [Tab.set, Tab.get_place_other d v _ k j h, Tab.get_del_other d t k j h]

theorem Tab.get_set {α : Type} (d v : α) (t : Tab α) (k j : Nat) :
    (t.set k v).get d j = if j = k then v else t.get d j := by
  by_cases h : j = k
  · simp [h]
  · simp [h, Tab.get_set_other]

theorem Tab.get_put {α : Type} [DecidableEq α] (d v : α) (t : Tab α) (k j : Nat) :
    (t.put d k v).get d j = if j = k then v else t.get d j := by
  by_cases hv : v = d
  · by_cases h : j = k
    · simp [Tab.put, hv, h, Tab.get_del_same]
    · simp [Tab.put, hv, h, Tab.get_del_other]
  · simp [Tab.put, hv, Tab.get_set]

/-- A member of a list with a new entry is that entry, or was there before. -/
theorem Tab.mem_place {α : Type} (t : Tab α) (k : Nat) (v : α) (e : Nat × α) :
    e ∈ t.place k v ↔ e = (k, v) ∨ e ∈ t := by
  induction t with
  | nil => simp [Tab.place]
  | cons x t ih =>
    by_cases h : k < x.1
    · simp [Tab.place, h]
    · simp only [Tab.place, h, if_false, List.mem_cons, ih]
      exact or_left_comm

theorem Tab.mem_set {α : Type} (t : Tab α) (k : Nat) (v : α) (e : Nat × α) :
    e ∈ t.set k v ↔ e = (k, v) ∨ (e ∈ t ∧ e.1 ≠ k) := by
  simp [Tab.set, Tab.mem_place, Tab.del, List.mem_filter]

/-- Keys of a table rise strictly. -/
def Tab.Rising {α : Type} (t : Tab α) : Prop := t.Pairwise (fun a b => a.1 < b.1)

theorem Tab.Rising.del {α : Type} {t : Tab α} (h : t.Rising) (k : Nat) : (t.del k).Rising :=
  List.Pairwise.filter _ h

theorem Tab.Rising.place {α : Type} {t : Tab α} (h : t.Rising) (k : Nat) (v : α) (hk : ∀ e ∈ t, e.1 ≠ k) :
    (t.place k v).Rising := by
  induction t with
  | nil => simp [Tab.place, Tab.Rising]
  | cons x t ih =>
    have hx := List.pairwise_cons.1 h
    have hne : x.1 ≠ k := hk x (by simp)
    by_cases hlt : k < x.1
    · simp only [Tab.place, hlt, if_true]
      refine List.pairwise_cons.2 ⟨fun e he => ?_, h⟩
      rcases List.mem_cons.1 he with rfl | he
      · exact hlt
      · exact Nat.lt_trans hlt (hx.1 e he)
    · simp only [Tab.place, hlt, if_false]
      refine List.pairwise_cons.2 ⟨fun e he => ?_, ih hx.2 (fun e he => hk e (by simp [he]))⟩
      rcases (Tab.mem_place t k v e).1 he with rfl | he
      · show x.1 < k
        omega
      · exact hx.1 e he

theorem Tab.Rising.set {α : Type} {t : Tab α} (h : t.Rising) (k : Nat) (v : α) : (t.set k v).Rising :=
  (h.del k).place k v (by intro e he; simpa using (List.mem_filter.1 he).2)

end Sys2Proof.Machine
end

