-- ==== Sys2Proof/Laws/State.lean ====
section
/-!
SUPPORT. What the named updates of the state do to each field of it, and what the named reads give after them, so that no
proof unfolds an update.
-/
namespace Sys2Proof.Machine

set_option Elab.async false

/-! ## State.setCore -/

@[simp] theorem State.setCore_clk (s : State) (k : Nat) (c : Core) : (s.setCore k c).clk = s.clk := rfl
@[simp] theorem State.setCore_agenda (s : State) (k : Nat) (c : Core) : (s.setCore k c).agenda = s.agenda := rfl
@[simp] theorem State.setCore_timed (s : State) (k : Nat) (c : Core) : (s.setCore k c).timed = s.timed := rfl
@[simp] theorem State.setCore_pace (s : State) (k : Nat) (c : Core) : (s.setCore k c).pace = s.pace := rfl
@[simp] theorem State.setCore_core (s : State) (k : Nat) (c : Core) : (s.setCore k c).core = s.core := rfl
@[simp] theorem State.setCore_ctx (s : State) (k : Nat) (c : Core) : (s.setCore k c).ctx = s.ctx := rfl
@[simp] theorem State.setCore_turn (s : State) (k : Nat) (c : Core) : (s.setCore k c).turn = s.turn := rfl
@[simp] theorem State.setCore_issued (s : State) (k : Nat) (c : Core) : (s.setCore k c).issued = s.issued := rfl
@[simp] theorem State.setCore_ir (s : State) (k : Nat) (c : Core) : (s.setCore k c).ir = s.ir := rfl
@[simp] theorem State.setCore_len (s : State) (k : Nat) (c : Core) : (s.setCore k c).len = s.len := rfl
@[simp] theorem State.setCore_mem (s : State) (k : Nat) (c : Core) : (s.setCore k c).mem = s.mem := rfl
@[simp] theorem State.setCore_hostMem (s : State) (k : Nat) (c : Core) : (s.setCore k c).hostMem = s.hostMem := rfl
@[simp] theorem State.setCore_l2 (s : State) (k : Nat) (c : Core) : (s.setCore k c).l2 = s.l2 := rfl
@[simp] theorem State.setCore_stk (s : State) (k : Nat) (c : Core) : (s.setCore k c).stk = s.stk := rfl
@[simp] theorem State.setCore_l2Priv (s : State) (k : Nat) (c : Core) : (s.setCore k c).l2Priv = s.l2Priv := rfl
@[simp] theorem State.setCore_tcs (s : State) (k : Nat) (c : Core) : (s.setCore k c).tcs = s.tcs := rfl
@[simp] theorem State.setCore_views (s : State) (k : Nat) (c : Core) : (s.setCore k c).views = s.views := rfl
@[simp] theorem State.setCore_edge (s : State) (k : Nat) (c : Core) : (s.setCore k c).edge = s.edge := rfl
@[simp] theorem State.setCore_snooped (s : State) (k : Nat) (c : Core) : (s.setCore k c).snooped = s.snooped := rfl
@[simp] theorem State.setCore_cores (s : State) (k : Nat) (c : Core) : (s.setCore k c).cores = s.cores.set k c := rfl
@[simp] theorem State.setCore_spare (s : State) (k : Nat) (c : Core) : (s.setCore k c).spare = s.spare := rfl
@[simp] theorem State.setCore_units (s : State) (k : Nat) (c : Core) : (s.setCore k c).units = s.units := rfl
@[simp] theorem State.setCore_threads (s : State) (k : Nat) (c : Core) : (s.setCore k c).threads = s.threads := rfl
@[simp] theorem State.setCore_tltLog (s : State) (k : Nat) (c : Core) : (s.setCore k c).tltLog = s.tltLog := rfl
@[simp] theorem State.setCore_keyCtr (s : State) (k : Nat) (c : Core) : (s.setCore k c).keyCtr = s.keyCtr := rfl
@[simp] theorem State.setCore_reqs (s : State) (k : Nat) (c : Core) : (s.setCore k c).reqs = s.reqs := rfl
@[simp] theorem State.setCore_nextReq (s : State) (k : Nat) (c : Core) : (s.setCore k c).nextReq = s.nextReq := rfl
@[simp] theorem State.setCore_flight (s : State) (k : Nat) (c : Core) : (s.setCore k c).flight = s.flight := rfl
@[simp] theorem State.setCore_notes (s : State) (k : Nat) (c : Core) : (s.setCore k c).notes = s.notes := rfl
@[simp] theorem State.setCore_monitors (s : State) (k : Nat) (c : Core) : (s.setCore k c).monitors = s.monitors := rfl
@[simp] theorem State.setCore_invs (s : State) (k : Nat) (c : Core) : (s.setCore k c).invs = s.invs := rfl
@[simp] theorem State.setCore_launches (s : State) (k : Nat) (c : Core) : (s.setCore k c).launches = s.launches := rfl
@[simp] theorem State.setCore_graphs (s : State) (k : Nat) (c : Core) : (s.setCore k c).graphs = s.graphs := rfl
@[simp] theorem State.setCore_phases (s : State) (k : Nat) (c : Core) : (s.setCore k c).phases = s.phases := rfl
@[simp] theorem State.setCore_jobs (s : State) (k : Nat) (c : Core) : (s.setCore k c).jobs = s.jobs := rfl
@[simp] theorem State.setCore_recs (s : State) (k : Nat) (c : Core) : (s.setCore k c).recs = s.recs := rfl
@[simp] theorem State.setCore_nextRec (s : State) (k : Nat) (c : Core) : (s.setCore k c).nextRec = s.nextRec := rfl
@[simp] theorem State.setCore_haltCtr (s : State) (k : Nat) (c : Core) : (s.setCore k c).haltCtr = s.haltCtr := rfl
@[simp] theorem State.setCore_grants (s : State) (k : Nat) (c : Core) : (s.setCore k c).grants = s.grants := rfl
@[simp] theorem State.setCore_asBase (s : State) (k : Nat) (c : Core) : (s.setCore k c).asBase = s.asBase := rfl
@[simp] theorem State.setCore_tltBase (s : State) (k : Nat) (c : Core) : (s.setCore k c).tltBase = s.tltBase := rfl
@[simp] theorem State.setCore_slotBase (s : State) (k : Nat) (c : Core) : (s.setCore k c).slotBase = s.slotBase := rfl
@[simp] theorem State.setCore_frozen (s : State) (k : Nat) (c : Core) : (s.setCore k c).frozen = s.frozen := rfl
@[simp] theorem State.setCore_slots (s : State) (k : Nat) (c : Core) : (s.setCore k c).slots = s.slots := rfl
@[simp] theorem State.setCore_gens (s : State) (k : Nat) (c : Core) : (s.setCore k c).gens = s.gens := rfl
@[simp] theorem State.setCore_cmap (s : State) (k : Nat) (c : Core) : (s.setCore k c).cmap = s.cmap := rfl
@[simp] theorem State.setCore_nclus (s : State) (k : Nat) (c : Core) : (s.setCore k c).nclus = s.nclus := rfl
@[simp] theorem State.setCore_dies (s : State) (k : Nat) (c : Core) : (s.setCore k c).dies = s.dies := rfl
@[simp] theorem State.setCore_gdev (s : State) (k : Nat) (c : Core) : (s.setCore k c).gdev = s.gdev := rfl
@[simp] theorem State.setCore_partNo (s : State) (k : Nat) (c : Core) : (s.setCore k c).partNo = s.partNo := rfl
@[simp] theorem State.setCore_carve (s : State) (k : Nat) (c : Core) : (s.setCore k c).carve = s.carve := rfl
@[simp] theorem State.setCore_peer (s : State) (k : Nat) (c : Core) : (s.setCore k c).peer = s.peer := rfl
@[simp] theorem State.setCore_windows (s : State) (k : Nat) (c : Core) : (s.setCore k c).windows = s.windows := rfl
@[simp] theorem State.setCore_parts (s : State) (k : Nat) (c : Core) : (s.setCore k c).parts = s.parts := rfl
@[simp] theorem State.setCore_stages (s : State) (k : Nat) (c : Core) : (s.setCore k c).stages = s.stages := rfl
@[simp] theorem State.setCore_peers (s : State) (k : Nat) (c : Core) : (s.setCore k c).peers = s.peers := rfl
@[simp] theorem State.setCore_routes (s : State) (k : Nat) (c : Core) : (s.setCore k c).routes = s.routes := rfl
@[simp] theorem State.setCore_ports (s : State) (k : Nat) (c : Core) : (s.setCore k c).ports = s.ports := rfl
@[simp] theorem State.setCore_inbound (s : State) (k : Nat) (c : Core) : (s.setCore k c).inbound = s.inbound := rfl
@[simp] theorem State.setCore_resps (s : State) (k : Nat) (c : Core) : (s.setCore k c).resps = s.resps := rfl
@[simp] theorem State.setCore_linkHeld (s : State) (k : Nat) (c : Core) : (s.setCore k c).linkHeld = s.linkHeld := rfl
@[simp] theorem State.setCore_captures (s : State) (k : Nat) (c : Core) : (s.setCore k c).captures = s.captures := rfl
@[simp] theorem State.setCore_nextTag (s : State) (k : Nat) (c : Core) : (s.setCore k c).nextTag = s.nextTag := rfl
@[simp] theorem State.setCore_awin (s : State) (k : Nat) (c : Core) : (s.setCore k c).awin = s.awin := rfl
@[simp] theorem State.setCore_hostData (s : State) (k : Nat) (c : Core) : (s.setCore k c).hostData = s.hostData := rfl
@[simp] theorem State.setCore_hostPoison (s : State) (k : Nat) (c : Core) : (s.setCore k c).hostPoison = s.hostPoison := rfl
@[simp] theorem State.setCore_priOut (s : State) (k : Nat) (c : Core) : (s.setCore k c).priOut = s.priOut := rfl
@[simp] theorem State.setCore_priWait (s : State) (k : Nat) (c : Core) : (s.setCore k c).priWait = s.priWait := rfl
@[simp] theorem State.setCore_hdmBase (s : State) (k : Nat) (c : Core) : (s.setCore k c).hdmBase = s.hdmBase := rfl
@[simp] theorem State.setCore_priRefused (s : State) (k : Nat) (c : Core) : (s.setCore k c).priRefused = s.priRefused := rfl
@[simp] theorem State.setCore_frames (s : State) (k : Nat) (c : Core) : (s.setCore k c).frames = s.frames := rfl
@[simp] theorem State.setCore_nextToken (s : State) (k : Nat) (c : Core) : (s.setCore k c).nextToken = s.nextToken := rfl
@[simp] theorem State.setCore_gated (s : State) (k : Nat) (c : Core) : (s.setCore k c).gated = s.gated := rfl
@[simp] theorem State.setCore_clusOff (s : State) (k : Nat) (c : Core) : (s.setCore k c).clusOff = s.clusOff := rfl
@[simp] theorem State.setCore_islands (s : State) (k : Nat) (c : Core) : (s.setCore k c).islands = s.islands := rfl
@[simp] theorem State.setCore_mcap (s : State) (k : Nat) (c : Core) : (s.setCore k c).mcap = s.mcap := rfl
@[simp] theorem State.setCore_mdraw (s : State) (k : Nat) (c : Core) : (s.setCore k c).mdraw = s.mdraw := rfl
@[simp] theorem State.setCore_capping (s : State) (k : Nat) (c : Core) : (s.setCore k c).capping = s.capping := rfl
@[simp] theorem State.setCore_boot (s : State) (k : Nat) (c : Core) : (s.setCore k c).boot = s.boot := rfl
@[simp] theorem State.setCore_pkgLog (s : State) (k : Nat) (c : Core) : (s.setCore k c).pkgLog = s.pkgLog := rfl

/-! ## State.setUnit -/

@[simp] theorem State.setUnit_clk (s : State) (t : Nat) (u : UnitSt) : (s.setUnit t u).clk = s.clk := rfl
@[simp] theorem State.setUnit_agenda (s : State) (t : Nat) (u : UnitSt) : (s.setUnit t u).agenda = s.agenda := rfl
@[simp] theorem State.setUnit_timed (s : State) (t : Nat) (u : UnitSt) : (s.setUnit t u).timed = s.timed := rfl
@[simp] theorem State.setUnit_pace (s : State) (t : Nat) (u : UnitSt) : (s.setUnit t u).pace = s.pace := rfl
@[simp] theorem State.setUnit_core (s : State) (t : Nat) (u : UnitSt) : (s.setUnit t u).core = s.core := rfl
@[simp] theorem State.setUnit_ctx (s : State) (t : Nat) (u : UnitSt) : (s.setUnit t u).ctx = s.ctx := rfl
@[simp] theorem State.setUnit_turn (s : State) (t : Nat) (u : UnitSt) : (s.setUnit t u).turn = s.turn := rfl
@[simp] theorem State.setUnit_issued (s : State) (t : Nat) (u : UnitSt) : (s.setUnit t u).issued = s.issued := rfl
@[simp] theorem State.setUnit_ir (s : State) (t : Nat) (u : UnitSt) : (s.setUnit t u).ir = s.ir := rfl
@[simp] theorem State.setUnit_len (s : State) (t : Nat) (u : UnitSt) : (s.setUnit t u).len = s.len := rfl
@[simp] theorem State.setUnit_mem (s : State) (t : Nat) (u : UnitSt) : (s.setUnit t u).mem = s.mem := rfl
@[simp] theorem State.setUnit_hostMem (s : State) (t : Nat) (u : UnitSt) : (s.setUnit t u).hostMem = s.hostMem := rfl
@[simp] theorem State.setUnit_l2 (s : State) (t : Nat) (u : UnitSt) : (s.setUnit t u).l2 = s.l2 := rfl
@[simp] theorem State.setUnit_stk (s : State) (t : Nat) (u : UnitSt) : (s.setUnit t u).stk = s.stk := rfl
@[simp] theorem State.setUnit_l2Priv (s : State) (t : Nat) (u : UnitSt) : (s.setUnit t u).l2Priv = s.l2Priv := rfl
@[simp] theorem State.setUnit_tcs (s : State) (t : Nat) (u : UnitSt) : (s.setUnit t u).tcs = s.tcs := rfl
@[simp] theorem State.setUnit_views (s : State) (t : Nat) (u : UnitSt) : (s.setUnit t u).views = s.views := rfl
@[simp] theorem State.setUnit_edge (s : State) (t : Nat) (u : UnitSt) : (s.setUnit t u).edge = s.edge := rfl
@[simp] theorem State.setUnit_snooped (s : State) (t : Nat) (u : UnitSt) : (s.setUnit t u).snooped = s.snooped := rfl
@[simp] theorem State.setUnit_cores (s : State) (t : Nat) (u : UnitSt) : (s.setUnit t u).cores = s.cores := rfl
@[simp] theorem State.setUnit_spare (s : State) (t : Nat) (u : UnitSt) : (s.setUnit t u).spare = s.spare := rfl
@[simp] theorem State.setUnit_units (s : State) (t : Nat) (u : UnitSt) : (s.setUnit t u).units = s.units.set t u := rfl
@[simp] theorem State.setUnit_threads (s : State) (t : Nat) (u : UnitSt) : (s.setUnit t u).threads = s.threads := rfl
@[simp] theorem State.setUnit_tltLog (s : State) (t : Nat) (u : UnitSt) : (s.setUnit t u).tltLog = s.tltLog := rfl
@[simp] theorem State.setUnit_keyCtr (s : State) (t : Nat) (u : UnitSt) : (s.setUnit t u).keyCtr = s.keyCtr := rfl
@[simp] theorem State.setUnit_reqs (s : State) (t : Nat) (u : UnitSt) : (s.setUnit t u).reqs = s.reqs := rfl
@[simp] theorem State.setUnit_nextReq (s : State) (t : Nat) (u : UnitSt) : (s.setUnit t u).nextReq = s.nextReq := rfl
@[simp] theorem State.setUnit_flight (s : State) (t : Nat) (u : UnitSt) : (s.setUnit t u).flight = s.flight := rfl
@[simp] theorem State.setUnit_notes (s : State) (t : Nat) (u : UnitSt) : (s.setUnit t u).notes = s.notes := rfl
@[simp] theorem State.setUnit_monitors (s : State) (t : Nat) (u : UnitSt) : (s.setUnit t u).monitors = s.monitors := rfl
@[simp] theorem State.setUnit_invs (s : State) (t : Nat) (u : UnitSt) : (s.setUnit t u).invs = s.invs := rfl
@[simp] theorem State.setUnit_launches (s : State) (t : Nat) (u : UnitSt) : (s.setUnit t u).launches = s.launches := rfl
@[simp] theorem State.setUnit_graphs (s : State) (t : Nat) (u : UnitSt) : (s.setUnit t u).graphs = s.graphs := rfl
@[simp] theorem State.setUnit_phases (s : State) (t : Nat) (u : UnitSt) : (s.setUnit t u).phases = s.phases := rfl
@[simp] theorem State.setUnit_jobs (s : State) (t : Nat) (u : UnitSt) : (s.setUnit t u).jobs = s.jobs := rfl
@[simp] theorem State.setUnit_recs (s : State) (t : Nat) (u : UnitSt) : (s.setUnit t u).recs = s.recs := rfl
@[simp] theorem State.setUnit_nextRec (s : State) (t : Nat) (u : UnitSt) : (s.setUnit t u).nextRec = s.nextRec := rfl
@[simp] theorem State.setUnit_haltCtr (s : State) (t : Nat) (u : UnitSt) : (s.setUnit t u).haltCtr = s.haltCtr := rfl
@[simp] theorem State.setUnit_grants (s : State) (t : Nat) (u : UnitSt) : (s.setUnit t u).grants = s.grants := rfl
@[simp] theorem State.setUnit_asBase (s : State) (t : Nat) (u : UnitSt) : (s.setUnit t u).asBase = s.asBase := rfl
@[simp] theorem State.setUnit_tltBase (s : State) (t : Nat) (u : UnitSt) : (s.setUnit t u).tltBase = s.tltBase := rfl
@[simp] theorem State.setUnit_slotBase (s : State) (t : Nat) (u : UnitSt) : (s.setUnit t u).slotBase = s.slotBase := rfl
@[simp] theorem State.setUnit_frozen (s : State) (t : Nat) (u : UnitSt) : (s.setUnit t u).frozen = s.frozen := rfl
@[simp] theorem State.setUnit_slots (s : State) (t : Nat) (u : UnitSt) : (s.setUnit t u).slots = s.slots := rfl
@[simp] theorem State.setUnit_gens (s : State) (t : Nat) (u : UnitSt) : (s.setUnit t u).gens = s.gens := rfl
@[simp] theorem State.setUnit_cmap (s : State) (t : Nat) (u : UnitSt) : (s.setUnit t u).cmap = s.cmap := rfl
@[simp] theorem State.setUnit_nclus (s : State) (t : Nat) (u : UnitSt) : (s.setUnit t u).nclus = s.nclus := rfl
@[simp] theorem State.setUnit_dies (s : State) (t : Nat) (u : UnitSt) : (s.setUnit t u).dies = s.dies := rfl
@[simp] theorem State.setUnit_gdev (s : State) (t : Nat) (u : UnitSt) : (s.setUnit t u).gdev = s.gdev := rfl
@[simp] theorem State.setUnit_partNo (s : State) (t : Nat) (u : UnitSt) : (s.setUnit t u).partNo = s.partNo := rfl
@[simp] theorem State.setUnit_carve (s : State) (t : Nat) (u : UnitSt) : (s.setUnit t u).carve = s.carve := rfl
@[simp] theorem State.setUnit_peer (s : State) (t : Nat) (u : UnitSt) : (s.setUnit t u).peer = s.peer := rfl
@[simp] theorem State.setUnit_windows (s : State) (t : Nat) (u : UnitSt) : (s.setUnit t u).windows = s.windows := rfl
@[simp] theorem State.setUnit_parts (s : State) (t : Nat) (u : UnitSt) : (s.setUnit t u).parts = s.parts := rfl
@[simp] theorem State.setUnit_stages (s : State) (t : Nat) (u : UnitSt) : (s.setUnit t u).stages = s.stages := rfl
@[simp] theorem State.setUnit_peers (s : State) (t : Nat) (u : UnitSt) : (s.setUnit t u).peers = s.peers := rfl
@[simp] theorem State.setUnit_routes (s : State) (t : Nat) (u : UnitSt) : (s.setUnit t u).routes = s.routes := rfl
@[simp] theorem State.setUnit_ports (s : State) (t : Nat) (u : UnitSt) : (s.setUnit t u).ports = s.ports := rfl
@[simp] theorem State.setUnit_inbound (s : State) (t : Nat) (u : UnitSt) : (s.setUnit t u).inbound = s.inbound := rfl
@[simp] theorem State.setUnit_resps (s : State) (t : Nat) (u : UnitSt) : (s.setUnit t u).resps = s.resps := rfl
@[simp] theorem State.setUnit_linkHeld (s : State) (t : Nat) (u : UnitSt) : (s.setUnit t u).linkHeld = s.linkHeld := rfl
@[simp] theorem State.setUnit_captures (s : State) (t : Nat) (u : UnitSt) : (s.setUnit t u).captures = s.captures := rfl
@[simp] theorem State.setUnit_nextTag (s : State) (t : Nat) (u : UnitSt) : (s.setUnit t u).nextTag = s.nextTag := rfl
@[simp] theorem State.setUnit_awin (s : State) (t : Nat) (u : UnitSt) : (s.setUnit t u).awin = s.awin := rfl
@[simp] theorem State.setUnit_hostData (s : State) (t : Nat) (u : UnitSt) : (s.setUnit t u).hostData = s.hostData := rfl
@[simp] theorem State.setUnit_hostPoison (s : State) (t : Nat) (u : UnitSt) : (s.setUnit t u).hostPoison = s.hostPoison := rfl
@[simp] theorem State.setUnit_priOut (s : State) (t : Nat) (u : UnitSt) : (s.setUnit t u).priOut = s.priOut := rfl
@[simp] theorem State.setUnit_priWait (s : State) (t : Nat) (u : UnitSt) : (s.setUnit t u).priWait = s.priWait := rfl
@[simp] theorem State.setUnit_hdmBase (s : State) (t : Nat) (u : UnitSt) : (s.setUnit t u).hdmBase = s.hdmBase := rfl
@[simp] theorem State.setUnit_priRefused (s : State) (t : Nat) (u : UnitSt) : (s.setUnit t u).priRefused = s.priRefused := rfl
@[simp] theorem State.setUnit_frames (s : State) (t : Nat) (u : UnitSt) : (s.setUnit t u).frames = s.frames := rfl
@[simp] theorem State.setUnit_nextToken (s : State) (t : Nat) (u : UnitSt) : (s.setUnit t u).nextToken = s.nextToken := rfl
@[simp] theorem State.setUnit_gated (s : State) (t : Nat) (u : UnitSt) : (s.setUnit t u).gated = s.gated := rfl
@[simp] theorem State.setUnit_clusOff (s : State) (t : Nat) (u : UnitSt) : (s.setUnit t u).clusOff = s.clusOff := rfl
@[simp] theorem State.setUnit_islands (s : State) (t : Nat) (u : UnitSt) : (s.setUnit t u).islands = s.islands := rfl
@[simp] theorem State.setUnit_mcap (s : State) (t : Nat) (u : UnitSt) : (s.setUnit t u).mcap = s.mcap := rfl
@[simp] theorem State.setUnit_mdraw (s : State) (t : Nat) (u : UnitSt) : (s.setUnit t u).mdraw = s.mdraw := rfl
@[simp] theorem State.setUnit_capping (s : State) (t : Nat) (u : UnitSt) : (s.setUnit t u).capping = s.capping := rfl
@[simp] theorem State.setUnit_boot (s : State) (t : Nat) (u : UnitSt) : (s.setUnit t u).boot = s.boot := rfl
@[simp] theorem State.setUnit_pkgLog (s : State) (t : Nat) (u : UnitSt) : (s.setUnit t u).pkgLog = s.pkgLog := rfl

/-! ## State.setThr -/

@[simp] theorem State.setThr_clk (s : State) (t : Nat) (e : Thread) : (s.setThr t e).clk = s.clk := rfl
@[simp] theorem State.setThr_agenda (s : State) (t : Nat) (e : Thread) : (s.setThr t e).agenda = s.agenda := rfl
@[simp] theorem State.setThr_timed (s : State) (t : Nat) (e : Thread) : (s.setThr t e).timed = s.timed := rfl
@[simp] theorem State.setThr_pace (s : State) (t : Nat) (e : Thread) : (s.setThr t e).pace = s.pace := rfl
@[simp] theorem State.setThr_core (s : State) (t : Nat) (e : Thread) : (s.setThr t e).core = s.core := rfl
@[simp] theorem State.setThr_ctx (s : State) (t : Nat) (e : Thread) : (s.setThr t e).ctx = s.ctx := rfl
@[simp] theorem State.setThr_turn (s : State) (t : Nat) (e : Thread) : (s.setThr t e).turn = s.turn := rfl
@[simp] theorem State.setThr_issued (s : State) (t : Nat) (e : Thread) : (s.setThr t e).issued = s.issued := rfl
@[simp] theorem State.setThr_ir (s : State) (t : Nat) (e : Thread) : (s.setThr t e).ir = s.ir := rfl
@[simp] theorem State.setThr_len (s : State) (t : Nat) (e : Thread) : (s.setThr t e).len = s.len := rfl
@[simp] theorem State.setThr_mem (s : State) (t : Nat) (e : Thread) : (s.setThr t e).mem = s.mem := rfl
@[simp] theorem State.setThr_hostMem (s : State) (t : Nat) (e : Thread) : (s.setThr t e).hostMem = s.hostMem := rfl
@[simp] theorem State.setThr_l2 (s : State) (t : Nat) (e : Thread) : (s.setThr t e).l2 = s.l2 := rfl
@[simp] theorem State.setThr_stk (s : State) (t : Nat) (e : Thread) : (s.setThr t e).stk = s.stk := rfl
@[simp] theorem State.setThr_l2Priv (s : State) (t : Nat) (e : Thread) : (s.setThr t e).l2Priv = s.l2Priv := rfl
@[simp] theorem State.setThr_tcs (s : State) (t : Nat) (e : Thread) : (s.setThr t e).tcs = s.tcs := rfl
@[simp] theorem State.setThr_views (s : State) (t : Nat) (e : Thread) : (s.setThr t e).views = s.views := rfl
@[simp] theorem State.setThr_edge (s : State) (t : Nat) (e : Thread) : (s.setThr t e).edge = s.edge := rfl
@[simp] theorem State.setThr_snooped (s : State) (t : Nat) (e : Thread) : (s.setThr t e).snooped = s.snooped := rfl
@[simp] theorem State.setThr_cores (s : State) (t : Nat) (e : Thread) : (s.setThr t e).cores = s.cores := rfl
@[simp] theorem State.setThr_spare (s : State) (t : Nat) (e : Thread) : (s.setThr t e).spare = s.spare := rfl
@[simp] theorem State.setThr_units (s : State) (t : Nat) (e : Thread) : (s.setThr t e).units = s.units := rfl
@[simp] theorem State.setThr_threads (s : State) (t : Nat) (e : Thread) : (s.setThr t e).threads = s.threads.set t e := rfl
@[simp] theorem State.setThr_tltLog (s : State) (t : Nat) (e : Thread) : (s.setThr t e).tltLog = s.tltLog := rfl
@[simp] theorem State.setThr_keyCtr (s : State) (t : Nat) (e : Thread) : (s.setThr t e).keyCtr = s.keyCtr := rfl
@[simp] theorem State.setThr_reqs (s : State) (t : Nat) (e : Thread) : (s.setThr t e).reqs = s.reqs := rfl
@[simp] theorem State.setThr_nextReq (s : State) (t : Nat) (e : Thread) : (s.setThr t e).nextReq = s.nextReq := rfl
@[simp] theorem State.setThr_flight (s : State) (t : Nat) (e : Thread) : (s.setThr t e).flight = s.flight := rfl
@[simp] theorem State.setThr_notes (s : State) (t : Nat) (e : Thread) : (s.setThr t e).notes = s.notes := rfl
@[simp] theorem State.setThr_monitors (s : State) (t : Nat) (e : Thread) : (s.setThr t e).monitors = s.monitors := rfl
@[simp] theorem State.setThr_invs (s : State) (t : Nat) (e : Thread) : (s.setThr t e).invs = s.invs := rfl
@[simp] theorem State.setThr_launches (s : State) (t : Nat) (e : Thread) : (s.setThr t e).launches = s.launches := rfl
@[simp] theorem State.setThr_graphs (s : State) (t : Nat) (e : Thread) : (s.setThr t e).graphs = s.graphs := rfl
@[simp] theorem State.setThr_phases (s : State) (t : Nat) (e : Thread) : (s.setThr t e).phases = s.phases := rfl
@[simp] theorem State.setThr_jobs (s : State) (t : Nat) (e : Thread) : (s.setThr t e).jobs = s.jobs := rfl
@[simp] theorem State.setThr_recs (s : State) (t : Nat) (e : Thread) : (s.setThr t e).recs = s.recs := rfl
@[simp] theorem State.setThr_nextRec (s : State) (t : Nat) (e : Thread) : (s.setThr t e).nextRec = s.nextRec := rfl
@[simp] theorem State.setThr_haltCtr (s : State) (t : Nat) (e : Thread) : (s.setThr t e).haltCtr = s.haltCtr := rfl
@[simp] theorem State.setThr_grants (s : State) (t : Nat) (e : Thread) : (s.setThr t e).grants = s.grants := rfl
@[simp] theorem State.setThr_asBase (s : State) (t : Nat) (e : Thread) : (s.setThr t e).asBase = s.asBase := rfl
@[simp] theorem State.setThr_tltBase (s : State) (t : Nat) (e : Thread) : (s.setThr t e).tltBase = s.tltBase := rfl
@[simp] theorem State.setThr_slotBase (s : State) (t : Nat) (e : Thread) : (s.setThr t e).slotBase = s.slotBase := rfl
@[simp] theorem State.setThr_frozen (s : State) (t : Nat) (e : Thread) : (s.setThr t e).frozen = s.frozen := rfl
@[simp] theorem State.setThr_slots (s : State) (t : Nat) (e : Thread) : (s.setThr t e).slots = s.slots := rfl
@[simp] theorem State.setThr_gens (s : State) (t : Nat) (e : Thread) : (s.setThr t e).gens = s.gens := rfl
@[simp] theorem State.setThr_cmap (s : State) (t : Nat) (e : Thread) : (s.setThr t e).cmap = s.cmap := rfl
@[simp] theorem State.setThr_nclus (s : State) (t : Nat) (e : Thread) : (s.setThr t e).nclus = s.nclus := rfl
@[simp] theorem State.setThr_dies (s : State) (t : Nat) (e : Thread) : (s.setThr t e).dies = s.dies := rfl
@[simp] theorem State.setThr_gdev (s : State) (t : Nat) (e : Thread) : (s.setThr t e).gdev = s.gdev := rfl
@[simp] theorem State.setThr_partNo (s : State) (t : Nat) (e : Thread) : (s.setThr t e).partNo = s.partNo := rfl
@[simp] theorem State.setThr_carve (s : State) (t : Nat) (e : Thread) : (s.setThr t e).carve = s.carve := rfl
@[simp] theorem State.setThr_peer (s : State) (t : Nat) (e : Thread) : (s.setThr t e).peer = s.peer := rfl
@[simp] theorem State.setThr_windows (s : State) (t : Nat) (e : Thread) : (s.setThr t e).windows = s.windows := rfl
@[simp] theorem State.setThr_parts (s : State) (t : Nat) (e : Thread) : (s.setThr t e).parts = s.parts := rfl
@[simp] theorem State.setThr_stages (s : State) (t : Nat) (e : Thread) : (s.setThr t e).stages = s.stages := rfl
@[simp] theorem State.setThr_peers (s : State) (t : Nat) (e : Thread) : (s.setThr t e).peers = s.peers := rfl
@[simp] theorem State.setThr_routes (s : State) (t : Nat) (e : Thread) : (s.setThr t e).routes = s.routes := rfl
@[simp] theorem State.setThr_ports (s : State) (t : Nat) (e : Thread) : (s.setThr t e).ports = s.ports := rfl
@[simp] theorem State.setThr_inbound (s : State) (t : Nat) (e : Thread) : (s.setThr t e).inbound = s.inbound := rfl
@[simp] theorem State.setThr_resps (s : State) (t : Nat) (e : Thread) : (s.setThr t e).resps = s.resps := rfl
@[simp] theorem State.setThr_linkHeld (s : State) (t : Nat) (e : Thread) : (s.setThr t e).linkHeld = s.linkHeld := rfl
@[simp] theorem State.setThr_captures (s : State) (t : Nat) (e : Thread) : (s.setThr t e).captures = s.captures := rfl
@[simp] theorem State.setThr_nextTag (s : State) (t : Nat) (e : Thread) : (s.setThr t e).nextTag = s.nextTag := rfl
@[simp] theorem State.setThr_awin (s : State) (t : Nat) (e : Thread) : (s.setThr t e).awin = s.awin := rfl
@[simp] theorem State.setThr_hostData (s : State) (t : Nat) (e : Thread) : (s.setThr t e).hostData = s.hostData := rfl
@[simp] theorem State.setThr_hostPoison (s : State) (t : Nat) (e : Thread) : (s.setThr t e).hostPoison = s.hostPoison := rfl
@[simp] theorem State.setThr_priOut (s : State) (t : Nat) (e : Thread) : (s.setThr t e).priOut = s.priOut := rfl
@[simp] theorem State.setThr_priWait (s : State) (t : Nat) (e : Thread) : (s.setThr t e).priWait = s.priWait := rfl
@[simp] theorem State.setThr_hdmBase (s : State) (t : Nat) (e : Thread) : (s.setThr t e).hdmBase = s.hdmBase := rfl
@[simp] theorem State.setThr_priRefused (s : State) (t : Nat) (e : Thread) : (s.setThr t e).priRefused = s.priRefused := rfl
@[simp] theorem State.setThr_frames (s : State) (t : Nat) (e : Thread) : (s.setThr t e).frames = s.frames := rfl
@[simp] theorem State.setThr_nextToken (s : State) (t : Nat) (e : Thread) : (s.setThr t e).nextToken = s.nextToken := rfl
@[simp] theorem State.setThr_gated (s : State) (t : Nat) (e : Thread) : (s.setThr t e).gated = s.gated := rfl
@[simp] theorem State.setThr_clusOff (s : State) (t : Nat) (e : Thread) : (s.setThr t e).clusOff = s.clusOff := rfl
@[simp] theorem State.setThr_islands (s : State) (t : Nat) (e : Thread) : (s.setThr t e).islands = s.islands := rfl
@[simp] theorem State.setThr_mcap (s : State) (t : Nat) (e : Thread) : (s.setThr t e).mcap = s.mcap := rfl
@[simp] theorem State.setThr_mdraw (s : State) (t : Nat) (e : Thread) : (s.setThr t e).mdraw = s.mdraw := rfl
@[simp] theorem State.setThr_capping (s : State) (t : Nat) (e : Thread) : (s.setThr t e).capping = s.capping := rfl
@[simp] theorem State.setThr_boot (s : State) (t : Nat) (e : Thread) : (s.setThr t e).boot = s.boot := rfl
@[simp] theorem State.setThr_pkgLog (s : State) (t : Nat) (e : Thread) : (s.setThr t e).pkgLog = s.pkgLog := rfl

/-! ## State.setPart -/

@[simp] theorem State.setPart_clk (s : State) (p : Nat) (e : Part) : (s.setPart p e).clk = s.clk := rfl
@[simp] theorem State.setPart_agenda (s : State) (p : Nat) (e : Part) : (s.setPart p e).agenda = s.agenda := rfl
@[simp] theorem State.setPart_timed (s : State) (p : Nat) (e : Part) : (s.setPart p e).timed = s.timed := rfl
@[simp] theorem State.setPart_pace (s : State) (p : Nat) (e : Part) : (s.setPart p e).pace = s.pace := rfl
@[simp] theorem State.setPart_core (s : State) (p : Nat) (e : Part) : (s.setPart p e).core = s.core := rfl
@[simp] theorem State.setPart_ctx (s : State) (p : Nat) (e : Part) : (s.setPart p e).ctx = s.ctx := rfl
@[simp] theorem State.setPart_turn (s : State) (p : Nat) (e : Part) : (s.setPart p e).turn = s.turn := rfl
@[simp] theorem State.setPart_issued (s : State) (p : Nat) (e : Part) : (s.setPart p e).issued = s.issued := rfl
@[simp] theorem State.setPart_ir (s : State) (p : Nat) (e : Part) : (s.setPart p e).ir = s.ir := rfl
@[simp] theorem State.setPart_len (s : State) (p : Nat) (e : Part) : (s.setPart p e).len = s.len := rfl
@[simp] theorem State.setPart_mem (s : State) (p : Nat) (e : Part) : (s.setPart p e).mem = s.mem := rfl
@[simp] theorem State.setPart_hostMem (s : State) (p : Nat) (e : Part) : (s.setPart p e).hostMem = s.hostMem := rfl
@[simp] theorem State.setPart_l2 (s : State) (p : Nat) (e : Part) : (s.setPart p e).l2 = s.l2 := rfl
@[simp] theorem State.setPart_stk (s : State) (p : Nat) (e : Part) : (s.setPart p e).stk = s.stk := rfl
@[simp] theorem State.setPart_l2Priv (s : State) (p : Nat) (e : Part) : (s.setPart p e).l2Priv = s.l2Priv := rfl
@[simp] theorem State.setPart_tcs (s : State) (p : Nat) (e : Part) : (s.setPart p e).tcs = s.tcs := rfl
@[simp] theorem State.setPart_views (s : State) (p : Nat) (e : Part) : (s.setPart p e).views = s.views := rfl
@[simp] theorem State.setPart_edge (s : State) (p : Nat) (e : Part) : (s.setPart p e).edge = s.edge := rfl
@[simp] theorem State.setPart_snooped (s : State) (p : Nat) (e : Part) : (s.setPart p e).snooped = s.snooped := rfl
@[simp] theorem State.setPart_cores (s : State) (p : Nat) (e : Part) : (s.setPart p e).cores = s.cores := rfl
@[simp] theorem State.setPart_spare (s : State) (p : Nat) (e : Part) : (s.setPart p e).spare = s.spare := rfl
@[simp] theorem State.setPart_units (s : State) (p : Nat) (e : Part) : (s.setPart p e).units = s.units := rfl
@[simp] theorem State.setPart_threads (s : State) (p : Nat) (e : Part) : (s.setPart p e).threads = s.threads := rfl
@[simp] theorem State.setPart_tltLog (s : State) (p : Nat) (e : Part) : (s.setPart p e).tltLog = s.tltLog := rfl
@[simp] theorem State.setPart_keyCtr (s : State) (p : Nat) (e : Part) : (s.setPart p e).keyCtr = s.keyCtr := rfl
@[simp] theorem State.setPart_reqs (s : State) (p : Nat) (e : Part) : (s.setPart p e).reqs = s.reqs := rfl
@[simp] theorem State.setPart_nextReq (s : State) (p : Nat) (e : Part) : (s.setPart p e).nextReq = s.nextReq := rfl
@[simp] theorem State.setPart_flight (s : State) (p : Nat) (e : Part) : (s.setPart p e).flight = s.flight := rfl
@[simp] theorem State.setPart_notes (s : State) (p : Nat) (e : Part) : (s.setPart p e).notes = s.notes := rfl
@[simp] theorem State.setPart_monitors (s : State) (p : Nat) (e : Part) : (s.setPart p e).monitors = s.monitors := rfl
@[simp] theorem State.setPart_invs (s : State) (p : Nat) (e : Part) : (s.setPart p e).invs = s.invs := rfl
@[simp] theorem State.setPart_launches (s : State) (p : Nat) (e : Part) : (s.setPart p e).launches = s.launches := rfl
@[simp] theorem State.setPart_graphs (s : State) (p : Nat) (e : Part) : (s.setPart p e).graphs = s.graphs := rfl
@[simp] theorem State.setPart_phases (s : State) (p : Nat) (e : Part) : (s.setPart p e).phases = s.phases := rfl
@[simp] theorem State.setPart_jobs (s : State) (p : Nat) (e : Part) : (s.setPart p e).jobs = s.jobs := rfl
@[simp] theorem State.setPart_recs (s : State) (p : Nat) (e : Part) : (s.setPart p e).recs = s.recs := rfl
@[simp] theorem State.setPart_nextRec (s : State) (p : Nat) (e : Part) : (s.setPart p e).nextRec = s.nextRec := rfl
@[simp] theorem State.setPart_haltCtr (s : State) (p : Nat) (e : Part) : (s.setPart p e).haltCtr = s.haltCtr := rfl
@[simp] theorem State.setPart_grants (s : State) (p : Nat) (e : Part) : (s.setPart p e).grants = s.grants := rfl
@[simp] theorem State.setPart_asBase (s : State) (p : Nat) (e : Part) : (s.setPart p e).asBase = s.asBase := rfl
@[simp] theorem State.setPart_tltBase (s : State) (p : Nat) (e : Part) : (s.setPart p e).tltBase = s.tltBase := rfl
@[simp] theorem State.setPart_slotBase (s : State) (p : Nat) (e : Part) : (s.setPart p e).slotBase = s.slotBase := rfl
@[simp] theorem State.setPart_frozen (s : State) (p : Nat) (e : Part) : (s.setPart p e).frozen = s.frozen := rfl
@[simp] theorem State.setPart_slots (s : State) (p : Nat) (e : Part) : (s.setPart p e).slots = s.slots := rfl
@[simp] theorem State.setPart_gens (s : State) (p : Nat) (e : Part) : (s.setPart p e).gens = s.gens := rfl
@[simp] theorem State.setPart_cmap (s : State) (p : Nat) (e : Part) : (s.setPart p e).cmap = s.cmap := rfl
@[simp] theorem State.setPart_nclus (s : State) (p : Nat) (e : Part) : (s.setPart p e).nclus = s.nclus := rfl
@[simp] theorem State.setPart_dies (s : State) (p : Nat) (e : Part) : (s.setPart p e).dies = s.dies := rfl
@[simp] theorem State.setPart_gdev (s : State) (p : Nat) (e : Part) : (s.setPart p e).gdev = s.gdev := rfl
@[simp] theorem State.setPart_partNo (s : State) (p : Nat) (e : Part) : (s.setPart p e).partNo = s.partNo := rfl
@[simp] theorem State.setPart_carve (s : State) (p : Nat) (e : Part) : (s.setPart p e).carve = s.carve := rfl
@[simp] theorem State.setPart_peer (s : State) (p : Nat) (e : Part) : (s.setPart p e).peer = s.peer := rfl
@[simp] theorem State.setPart_windows (s : State) (p : Nat) (e : Part) : (s.setPart p e).windows = s.windows := rfl
@[simp] theorem State.setPart_parts (s : State) (p : Nat) (e : Part) : (s.setPart p e).parts = s.parts.set p e := rfl
@[simp] theorem State.setPart_stages (s : State) (p : Nat) (e : Part) : (s.setPart p e).stages = s.stages := rfl
@[simp] theorem State.setPart_peers (s : State) (p : Nat) (e : Part) : (s.setPart p e).peers = s.peers := rfl
@[simp] theorem State.setPart_routes (s : State) (p : Nat) (e : Part) : (s.setPart p e).routes = s.routes := rfl
@[simp] theorem State.setPart_ports (s : State) (p : Nat) (e : Part) : (s.setPart p e).ports = s.ports := rfl
@[simp] theorem State.setPart_inbound (s : State) (p : Nat) (e : Part) : (s.setPart p e).inbound = s.inbound := rfl
@[simp] theorem State.setPart_resps (s : State) (p : Nat) (e : Part) : (s.setPart p e).resps = s.resps := rfl
@[simp] theorem State.setPart_linkHeld (s : State) (p : Nat) (e : Part) : (s.setPart p e).linkHeld = s.linkHeld := rfl
@[simp] theorem State.setPart_captures (s : State) (p : Nat) (e : Part) : (s.setPart p e).captures = s.captures := rfl
@[simp] theorem State.setPart_nextTag (s : State) (p : Nat) (e : Part) : (s.setPart p e).nextTag = s.nextTag := rfl
@[simp] theorem State.setPart_awin (s : State) (p : Nat) (e : Part) : (s.setPart p e).awin = s.awin := rfl
@[simp] theorem State.setPart_hostData (s : State) (p : Nat) (e : Part) : (s.setPart p e).hostData = s.hostData := rfl
@[simp] theorem State.setPart_hostPoison (s : State) (p : Nat) (e : Part) : (s.setPart p e).hostPoison = s.hostPoison := rfl
@[simp] theorem State.setPart_priOut (s : State) (p : Nat) (e : Part) : (s.setPart p e).priOut = s.priOut := rfl
@[simp] theorem State.setPart_priWait (s : State) (p : Nat) (e : Part) : (s.setPart p e).priWait = s.priWait := rfl
@[simp] theorem State.setPart_hdmBase (s : State) (p : Nat) (e : Part) : (s.setPart p e).hdmBase = s.hdmBase := rfl
@[simp] theorem State.setPart_priRefused (s : State) (p : Nat) (e : Part) : (s.setPart p e).priRefused = s.priRefused := rfl
@[simp] theorem State.setPart_frames (s : State) (p : Nat) (e : Part) : (s.setPart p e).frames = s.frames := rfl
@[simp] theorem State.setPart_nextToken (s : State) (p : Nat) (e : Part) : (s.setPart p e).nextToken = s.nextToken := rfl
@[simp] theorem State.setPart_gated (s : State) (p : Nat) (e : Part) : (s.setPart p e).gated = s.gated := rfl
@[simp] theorem State.setPart_clusOff (s : State) (p : Nat) (e : Part) : (s.setPart p e).clusOff = s.clusOff := rfl
@[simp] theorem State.setPart_islands (s : State) (p : Nat) (e : Part) : (s.setPart p e).islands = s.islands := rfl
@[simp] theorem State.setPart_mcap (s : State) (p : Nat) (e : Part) : (s.setPart p e).mcap = s.mcap := rfl
@[simp] theorem State.setPart_mdraw (s : State) (p : Nat) (e : Part) : (s.setPart p e).mdraw = s.mdraw := rfl
@[simp] theorem State.setPart_capping (s : State) (p : Nat) (e : Part) : (s.setPart p e).capping = s.capping := rfl
@[simp] theorem State.setPart_boot (s : State) (p : Nat) (e : Part) : (s.setPart p e).boot = s.boot := rfl
@[simp] theorem State.setPart_pkgLog (s : State) (p : Nat) (e : Part) : (s.setPart p e).pkgLog = s.pkgLog := rfl

/-! ## State.setLaunch -/

@[simp] theorem State.setLaunch_clk (s : State) (l : Nat) (e : Launch) : (s.setLaunch l e).clk = s.clk := rfl
@[simp] theorem State.setLaunch_agenda (s : State) (l : Nat) (e : Launch) : (s.setLaunch l e).agenda = s.agenda := rfl
@[simp] theorem State.setLaunch_timed (s : State) (l : Nat) (e : Launch) : (s.setLaunch l e).timed = s.timed := rfl
@[simp] theorem State.setLaunch_pace (s : State) (l : Nat) (e : Launch) : (s.setLaunch l e).pace = s.pace := rfl
@[simp] theorem State.setLaunch_core (s : State) (l : Nat) (e : Launch) : (s.setLaunch l e).core = s.core := rfl
@[simp] theorem State.setLaunch_ctx (s : State) (l : Nat) (e : Launch) : (s.setLaunch l e).ctx = s.ctx := rfl
@[simp] theorem State.setLaunch_turn (s : State) (l : Nat) (e : Launch) : (s.setLaunch l e).turn = s.turn := rfl
@[simp] theorem State.setLaunch_issued (s : State) (l : Nat) (e : Launch) : (s.setLaunch l e).issued = s.issued := rfl
@[simp] theorem State.setLaunch_ir (s : State) (l : Nat) (e : Launch) : (s.setLaunch l e).ir = s.ir := rfl
@[simp] theorem State.setLaunch_len (s : State) (l : Nat) (e : Launch) : (s.setLaunch l e).len = s.len := rfl
@[simp] theorem State.setLaunch_mem (s : State) (l : Nat) (e : Launch) : (s.setLaunch l e).mem = s.mem := rfl
@[simp] theorem State.setLaunch_hostMem (s : State) (l : Nat) (e : Launch) : (s.setLaunch l e).hostMem = s.hostMem := rfl
@[simp] theorem State.setLaunch_l2 (s : State) (l : Nat) (e : Launch) : (s.setLaunch l e).l2 = s.l2 := rfl
@[simp] theorem State.setLaunch_stk (s : State) (l : Nat) (e : Launch) : (s.setLaunch l e).stk = s.stk := rfl
@[simp] theorem State.setLaunch_l2Priv (s : State) (l : Nat) (e : Launch) : (s.setLaunch l e).l2Priv = s.l2Priv := rfl
@[simp] theorem State.setLaunch_tcs (s : State) (l : Nat) (e : Launch) : (s.setLaunch l e).tcs = s.tcs := rfl
@[simp] theorem State.setLaunch_views (s : State) (l : Nat) (e : Launch) : (s.setLaunch l e).views = s.views := rfl
@[simp] theorem State.setLaunch_edge (s : State) (l : Nat) (e : Launch) : (s.setLaunch l e).edge = s.edge := rfl
@[simp] theorem State.setLaunch_snooped (s : State) (l : Nat) (e : Launch) : (s.setLaunch l e).snooped = s.snooped := rfl
@[simp] theorem State.setLaunch_cores (s : State) (l : Nat) (e : Launch) : (s.setLaunch l e).cores = s.cores := rfl
@[simp] theorem State.setLaunch_spare (s : State) (l : Nat) (e : Launch) : (s.setLaunch l e).spare = s.spare := rfl
@[simp] theorem State.setLaunch_units (s : State) (l : Nat) (e : Launch) : (s.setLaunch l e).units = s.units := rfl
@[simp] theorem State.setLaunch_threads (s : State) (l : Nat) (e : Launch) : (s.setLaunch l e).threads = s.threads := rfl
@[simp] theorem State.setLaunch_tltLog (s : State) (l : Nat) (e : Launch) : (s.setLaunch l e).tltLog = s.tltLog := rfl
@[simp] theorem State.setLaunch_keyCtr (s : State) (l : Nat) (e : Launch) : (s.setLaunch l e).keyCtr = s.keyCtr := rfl
@[simp] theorem State.setLaunch_reqs (s : State) (l : Nat) (e : Launch) : (s.setLaunch l e).reqs = s.reqs := rfl
@[simp] theorem State.setLaunch_nextReq (s : State) (l : Nat) (e : Launch) : (s.setLaunch l e).nextReq = s.nextReq := rfl
@[simp] theorem State.setLaunch_flight (s : State) (l : Nat) (e : Launch) : (s.setLaunch l e).flight = s.flight := rfl
@[simp] theorem State.setLaunch_notes (s : State) (l : Nat) (e : Launch) : (s.setLaunch l e).notes = s.notes := rfl
@[simp] theorem State.setLaunch_monitors (s : State) (l : Nat) (e : Launch) : (s.setLaunch l e).monitors = s.monitors := rfl
@[simp] theorem State.setLaunch_invs (s : State) (l : Nat) (e : Launch) : (s.setLaunch l e).invs = s.invs := rfl
@[simp] theorem State.setLaunch_launches (s : State) (l : Nat) (e : Launch) : (s.setLaunch l e).launches = s.launches.set l e := rfl
@[simp] theorem State.setLaunch_graphs (s : State) (l : Nat) (e : Launch) : (s.setLaunch l e).graphs = s.graphs := rfl
@[simp] theorem State.setLaunch_phases (s : State) (l : Nat) (e : Launch) : (s.setLaunch l e).phases = s.phases := rfl
@[simp] theorem State.setLaunch_jobs (s : State) (l : Nat) (e : Launch) : (s.setLaunch l e).jobs = s.jobs := rfl
@[simp] theorem State.setLaunch_recs (s : State) (l : Nat) (e : Launch) : (s.setLaunch l e).recs = s.recs := rfl
@[simp] theorem State.setLaunch_nextRec (s : State) (l : Nat) (e : Launch) : (s.setLaunch l e).nextRec = s.nextRec := rfl
@[simp] theorem State.setLaunch_haltCtr (s : State) (l : Nat) (e : Launch) : (s.setLaunch l e).haltCtr = s.haltCtr := rfl
@[simp] theorem State.setLaunch_grants (s : State) (l : Nat) (e : Launch) : (s.setLaunch l e).grants = s.grants := rfl
@[simp] theorem State.setLaunch_asBase (s : State) (l : Nat) (e : Launch) : (s.setLaunch l e).asBase = s.asBase := rfl
@[simp] theorem State.setLaunch_tltBase (s : State) (l : Nat) (e : Launch) : (s.setLaunch l e).tltBase = s.tltBase := rfl
@[simp] theorem State.setLaunch_slotBase (s : State) (l : Nat) (e : Launch) : (s.setLaunch l e).slotBase = s.slotBase := rfl
@[simp] theorem State.setLaunch_frozen (s : State) (l : Nat) (e : Launch) : (s.setLaunch l e).frozen = s.frozen := rfl
@[simp] theorem State.setLaunch_slots (s : State) (l : Nat) (e : Launch) : (s.setLaunch l e).slots = s.slots := rfl
@[simp] theorem State.setLaunch_gens (s : State) (l : Nat) (e : Launch) : (s.setLaunch l e).gens = s.gens := rfl
@[simp] theorem State.setLaunch_cmap (s : State) (l : Nat) (e : Launch) : (s.setLaunch l e).cmap = s.cmap := rfl
@[simp] theorem State.setLaunch_nclus (s : State) (l : Nat) (e : Launch) : (s.setLaunch l e).nclus = s.nclus := rfl
@[simp] theorem State.setLaunch_dies (s : State) (l : Nat) (e : Launch) : (s.setLaunch l e).dies = s.dies := rfl
@[simp] theorem State.setLaunch_gdev (s : State) (l : Nat) (e : Launch) : (s.setLaunch l e).gdev = s.gdev := rfl
@[simp] theorem State.setLaunch_partNo (s : State) (l : Nat) (e : Launch) : (s.setLaunch l e).partNo = s.partNo := rfl
@[simp] theorem State.setLaunch_carve (s : State) (l : Nat) (e : Launch) : (s.setLaunch l e).carve = s.carve := rfl
@[simp] theorem State.setLaunch_peer (s : State) (l : Nat) (e : Launch) : (s.setLaunch l e).peer = s.peer := rfl
@[simp] theorem State.setLaunch_windows (s : State) (l : Nat) (e : Launch) : (s.setLaunch l e).windows = s.windows := rfl
@[simp] theorem State.setLaunch_parts (s : State) (l : Nat) (e : Launch) : (s.setLaunch l e).parts = s.parts := rfl
@[simp] theorem State.setLaunch_stages (s : State) (l : Nat) (e : Launch) : (s.setLaunch l e).stages = s.stages := rfl
@[simp] theorem State.setLaunch_peers (s : State) (l : Nat) (e : Launch) : (s.setLaunch l e).peers = s.peers := rfl
@[simp] theorem State.setLaunch_routes (s : State) (l : Nat) (e : Launch) : (s.setLaunch l e).routes = s.routes := rfl
@[simp] theorem State.setLaunch_ports (s : State) (l : Nat) (e : Launch) : (s.setLaunch l e).ports = s.ports := rfl
@[simp] theorem State.setLaunch_inbound (s : State) (l : Nat) (e : Launch) : (s.setLaunch l e).inbound = s.inbound := rfl
@[simp] theorem State.setLaunch_resps (s : State) (l : Nat) (e : Launch) : (s.setLaunch l e).resps = s.resps := rfl
@[simp] theorem State.setLaunch_linkHeld (s : State) (l : Nat) (e : Launch) : (s.setLaunch l e).linkHeld = s.linkHeld := rfl
@[simp] theorem State.setLaunch_captures (s : State) (l : Nat) (e : Launch) : (s.setLaunch l e).captures = s.captures := rfl
@[simp] theorem State.setLaunch_nextTag (s : State) (l : Nat) (e : Launch) : (s.setLaunch l e).nextTag = s.nextTag := rfl
@[simp] theorem State.setLaunch_awin (s : State) (l : Nat) (e : Launch) : (s.setLaunch l e).awin = s.awin := rfl
@[simp] theorem State.setLaunch_hostData (s : State) (l : Nat) (e : Launch) : (s.setLaunch l e).hostData = s.hostData := rfl
@[simp] theorem State.setLaunch_hostPoison (s : State) (l : Nat) (e : Launch) : (s.setLaunch l e).hostPoison = s.hostPoison := rfl
@[simp] theorem State.setLaunch_priOut (s : State) (l : Nat) (e : Launch) : (s.setLaunch l e).priOut = s.priOut := rfl
@[simp] theorem State.setLaunch_priWait (s : State) (l : Nat) (e : Launch) : (s.setLaunch l e).priWait = s.priWait := rfl
@[simp] theorem State.setLaunch_hdmBase (s : State) (l : Nat) (e : Launch) : (s.setLaunch l e).hdmBase = s.hdmBase := rfl
@[simp] theorem State.setLaunch_priRefused (s : State) (l : Nat) (e : Launch) : (s.setLaunch l e).priRefused = s.priRefused := rfl
@[simp] theorem State.setLaunch_frames (s : State) (l : Nat) (e : Launch) : (s.setLaunch l e).frames = s.frames := rfl
@[simp] theorem State.setLaunch_nextToken (s : State) (l : Nat) (e : Launch) : (s.setLaunch l e).nextToken = s.nextToken := rfl
@[simp] theorem State.setLaunch_gated (s : State) (l : Nat) (e : Launch) : (s.setLaunch l e).gated = s.gated := rfl
@[simp] theorem State.setLaunch_clusOff (s : State) (l : Nat) (e : Launch) : (s.setLaunch l e).clusOff = s.clusOff := rfl
@[simp] theorem State.setLaunch_islands (s : State) (l : Nat) (e : Launch) : (s.setLaunch l e).islands = s.islands := rfl
@[simp] theorem State.setLaunch_mcap (s : State) (l : Nat) (e : Launch) : (s.setLaunch l e).mcap = s.mcap := rfl
@[simp] theorem State.setLaunch_mdraw (s : State) (l : Nat) (e : Launch) : (s.setLaunch l e).mdraw = s.mdraw := rfl
@[simp] theorem State.setLaunch_capping (s : State) (l : Nat) (e : Launch) : (s.setLaunch l e).capping = s.capping := rfl
@[simp] theorem State.setLaunch_boot (s : State) (l : Nat) (e : Launch) : (s.setLaunch l e).boot = s.boot := rfl
@[simp] theorem State.setLaunch_pkgLog (s : State) (l : Nat) (e : Launch) : (s.setLaunch l e).pkgLog = s.pkgLog := rfl

/-! ## State.setCx -/

@[simp] theorem State.setCx_clk (s : State) (c : Ctx) : (s.setCx c).clk = s.clk := rfl
@[simp] theorem State.setCx_agenda (s : State) (c : Ctx) : (s.setCx c).agenda = s.agenda := rfl
@[simp] theorem State.setCx_timed (s : State) (c : Ctx) : (s.setCx c).timed = s.timed := rfl
@[simp] theorem State.setCx_pace (s : State) (c : Ctx) : (s.setCx c).pace = s.pace := rfl
@[simp] theorem State.setCx_core (s : State) (c : Ctx) : (s.setCx c).core = s.core := rfl
@[simp] theorem State.setCx_ctx (s : State) (c : Ctx) : (s.setCx c).ctx = s.ctx := rfl
@[simp] theorem State.setCx_turn (s : State) (c : Ctx) : (s.setCx c).turn = s.turn := rfl
@[simp] theorem State.setCx_issued (s : State) (c : Ctx) : (s.setCx c).issued = s.issued := rfl
@[simp] theorem State.setCx_ir (s : State) (c : Ctx) : (s.setCx c).ir = s.ir := rfl
@[simp] theorem State.setCx_len (s : State) (c : Ctx) : (s.setCx c).len = s.len := rfl
@[simp] theorem State.setCx_mem (s : State) (c : Ctx) : (s.setCx c).mem = s.mem := rfl
@[simp] theorem State.setCx_hostMem (s : State) (c : Ctx) : (s.setCx c).hostMem = s.hostMem := rfl
@[simp] theorem State.setCx_l2 (s : State) (c : Ctx) : (s.setCx c).l2 = s.l2 := rfl
@[simp] theorem State.setCx_stk (s : State) (c : Ctx) : (s.setCx c).stk = s.stk := rfl
@[simp] theorem State.setCx_l2Priv (s : State) (c : Ctx) : (s.setCx c).l2Priv = s.l2Priv := rfl
@[simp] theorem State.setCx_tcs (s : State) (c : Ctx) : (s.setCx c).tcs = s.tcs := rfl
@[simp] theorem State.setCx_views (s : State) (c : Ctx) : (s.setCx c).views = s.views := rfl
@[simp] theorem State.setCx_edge (s : State) (c : Ctx) : (s.setCx c).edge = s.edge := rfl
@[simp] theorem State.setCx_snooped (s : State) (c : Ctx) : (s.setCx c).snooped = s.snooped := rfl
@[simp] theorem State.setCx_cores (s : State) (c : Ctx) : (s.setCx c).cores = s.cores := rfl
@[simp] theorem State.setCx_spare (s : State) (c : Ctx) : (s.setCx c).spare = s.spare := rfl
@[simp] theorem State.setCx_units (s : State) (c : Ctx) : (s.setCx c).units = s.units.set s.th (s.un.setCtx s.ctx c) := rfl
@[simp] theorem State.setCx_threads (s : State) (c : Ctx) : (s.setCx c).threads = s.threads := rfl
@[simp] theorem State.setCx_tltLog (s : State) (c : Ctx) : (s.setCx c).tltLog = s.tltLog := rfl
@[simp] theorem State.setCx_keyCtr (s : State) (c : Ctx) : (s.setCx c).keyCtr = s.keyCtr := rfl
@[simp] theorem State.setCx_reqs (s : State) (c : Ctx) : (s.setCx c).reqs = s.reqs := rfl
@[simp] theorem State.setCx_nextReq (s : State) (c : Ctx) : (s.setCx c).nextReq = s.nextReq := rfl
@[simp] theorem State.setCx_flight (s : State) (c : Ctx) : (s.setCx c).flight = s.flight := rfl
@[simp] theorem State.setCx_notes (s : State) (c : Ctx) : (s.setCx c).notes = s.notes := rfl
@[simp] theorem State.setCx_monitors (s : State) (c : Ctx) : (s.setCx c).monitors = s.monitors := rfl
@[simp] theorem State.setCx_invs (s : State) (c : Ctx) : (s.setCx c).invs = s.invs := rfl
@[simp] theorem State.setCx_launches (s : State) (c : Ctx) : (s.setCx c).launches = s.launches := rfl
@[simp] theorem State.setCx_graphs (s : State) (c : Ctx) : (s.setCx c).graphs = s.graphs := rfl
@[simp] theorem State.setCx_phases (s : State) (c : Ctx) : (s.setCx c).phases = s.phases := rfl
@[simp] theorem State.setCx_jobs (s : State) (c : Ctx) : (s.setCx c).jobs = s.jobs := rfl
@[simp] theorem State.setCx_recs (s : State) (c : Ctx) : (s.setCx c).recs = s.recs := rfl
@[simp] theorem State.setCx_nextRec (s : State) (c : Ctx) : (s.setCx c).nextRec = s.nextRec := rfl
@[simp] theorem State.setCx_haltCtr (s : State) (c : Ctx) : (s.setCx c).haltCtr = s.haltCtr := rfl
@[simp] theorem State.setCx_grants (s : State) (c : Ctx) : (s.setCx c).grants = s.grants := rfl
@[simp] theorem State.setCx_asBase (s : State) (c : Ctx) : (s.setCx c).asBase = s.asBase := rfl
@[simp] theorem State.setCx_tltBase (s : State) (c : Ctx) : (s.setCx c).tltBase = s.tltBase := rfl
@[simp] theorem State.setCx_slotBase (s : State) (c : Ctx) : (s.setCx c).slotBase = s.slotBase := rfl
@[simp] theorem State.setCx_frozen (s : State) (c : Ctx) : (s.setCx c).frozen = s.frozen := rfl
@[simp] theorem State.setCx_slots (s : State) (c : Ctx) : (s.setCx c).slots = s.slots := rfl
@[simp] theorem State.setCx_gens (s : State) (c : Ctx) : (s.setCx c).gens = s.gens := rfl
@[simp] theorem State.setCx_cmap (s : State) (c : Ctx) : (s.setCx c).cmap = s.cmap := rfl
@[simp] theorem State.setCx_nclus (s : State) (c : Ctx) : (s.setCx c).nclus = s.nclus := rfl
@[simp] theorem State.setCx_dies (s : State) (c : Ctx) : (s.setCx c).dies = s.dies := rfl
@[simp] theorem State.setCx_gdev (s : State) (c : Ctx) : (s.setCx c).gdev = s.gdev := rfl
@[simp] theorem State.setCx_partNo (s : State) (c : Ctx) : (s.setCx c).partNo = s.partNo := rfl
@[simp] theorem State.setCx_carve (s : State) (c : Ctx) : (s.setCx c).carve = s.carve := rfl
@[simp] theorem State.setCx_peer (s : State) (c : Ctx) : (s.setCx c).peer = s.peer := rfl
@[simp] theorem State.setCx_windows (s : State) (c : Ctx) : (s.setCx c).windows = s.windows := rfl
@[simp] theorem State.setCx_parts (s : State) (c : Ctx) : (s.setCx c).parts = s.parts := rfl
@[simp] theorem State.setCx_stages (s : State) (c : Ctx) : (s.setCx c).stages = s.stages := rfl
@[simp] theorem State.setCx_peers (s : State) (c : Ctx) : (s.setCx c).peers = s.peers := rfl
@[simp] theorem State.setCx_routes (s : State) (c : Ctx) : (s.setCx c).routes = s.routes := rfl
@[simp] theorem State.setCx_ports (s : State) (c : Ctx) : (s.setCx c).ports = s.ports := rfl
@[simp] theorem State.setCx_inbound (s : State) (c : Ctx) : (s.setCx c).inbound = s.inbound := rfl
@[simp] theorem State.setCx_resps (s : State) (c : Ctx) : (s.setCx c).resps = s.resps := rfl
@[simp] theorem State.setCx_linkHeld (s : State) (c : Ctx) : (s.setCx c).linkHeld = s.linkHeld := rfl
@[simp] theorem State.setCx_captures (s : State) (c : Ctx) : (s.setCx c).captures = s.captures := rfl
@[simp] theorem State.setCx_nextTag (s : State) (c : Ctx) : (s.setCx c).nextTag = s.nextTag := rfl
@[simp] theorem State.setCx_awin (s : State) (c : Ctx) : (s.setCx c).awin = s.awin := rfl
@[simp] theorem State.setCx_hostData (s : State) (c : Ctx) : (s.setCx c).hostData = s.hostData := rfl
@[simp] theorem State.setCx_hostPoison (s : State) (c : Ctx) : (s.setCx c).hostPoison = s.hostPoison := rfl
@[simp] theorem State.setCx_priOut (s : State) (c : Ctx) : (s.setCx c).priOut = s.priOut := rfl
@[simp] theorem State.setCx_priWait (s : State) (c : Ctx) : (s.setCx c).priWait = s.priWait := rfl
@[simp] theorem State.setCx_hdmBase (s : State) (c : Ctx) : (s.setCx c).hdmBase = s.hdmBase := rfl
@[simp] theorem State.setCx_priRefused (s : State) (c : Ctx) : (s.setCx c).priRefused = s.priRefused := rfl
@[simp] theorem State.setCx_frames (s : State) (c : Ctx) : (s.setCx c).frames = s.frames := rfl
@[simp] theorem State.setCx_nextToken (s : State) (c : Ctx) : (s.setCx c).nextToken = s.nextToken := rfl
@[simp] theorem State.setCx_gated (s : State) (c : Ctx) : (s.setCx c).gated = s.gated := rfl
@[simp] theorem State.setCx_clusOff (s : State) (c : Ctx) : (s.setCx c).clusOff = s.clusOff := rfl
@[simp] theorem State.setCx_islands (s : State) (c : Ctx) : (s.setCx c).islands = s.islands := rfl
@[simp] theorem State.setCx_mcap (s : State) (c : Ctx) : (s.setCx c).mcap = s.mcap := rfl
@[simp] theorem State.setCx_mdraw (s : State) (c : Ctx) : (s.setCx c).mdraw = s.mdraw := rfl
@[simp] theorem State.setCx_capping (s : State) (c : Ctx) : (s.setCx c).capping = s.capping := rfl
@[simp] theorem State.setCx_boot (s : State) (c : Ctx) : (s.setCx c).boot = s.boot := rfl
@[simp] theorem State.setCx_pkgLog (s : State) (c : Ctx) : (s.setCx c).pkgLog = s.pkgLog := rfl

/-! ## Reads after updates -/

@[simp] theorem State.coreAt_setCore (s : State) (k j : Nat) (c : Core) :
    (s.setCore k c).coreAt j = if j = k then c else s.coreAt j := Tab.get_set ..
@[simp] theorem State.unitAt_setUnit (s : State) (t j : Nat) (u : UnitSt) :
    (s.setUnit t u).unitAt j = if j = t then u else s.unitAt j := Tab.get_set ..
@[simp] theorem State.thr_setThr (s : State) (t j : Nat) (e : Thread) :
    (s.setThr t e).thr j = if j = t then e else s.thr j := Tab.get_set ..
@[simp] theorem State.part_setPart (s : State) (p j : Nat) (e : Part) :
    (s.setPart p e).part j = if j = p then e else s.part j := Tab.get_set ..
@[simp] theorem State.launchAt_setLaunch (s : State) (l j : Nat) (e : Launch) :
    (s.setLaunch l e).launchAt j = if j = l then e else s.launchAt j := Tab.get_set ..
@[simp] theorem UnitSt.ctxAt_setCtx (u : UnitSt) (c j : Nat) (x : Ctx) :
    (u.setCtx c x).ctxAt j = if j = c then x else u.ctxAt j := Tab.get_set ..

@[simp] theorem State.coreAt_setUnit (s : State) (t : Nat) (u : UnitSt) (j : Nat) : (s.setUnit t u).coreAt j = s.coreAt j := rfl
@[simp] theorem State.coreAt_setThr (s : State) (t : Nat) (e : Thread) (j : Nat) : (s.setThr t e).coreAt j = s.coreAt j := rfl
@[simp] theorem State.coreAt_setPart (s : State) (p : Nat) (e : Part) (j : Nat) : (s.setPart p e).coreAt j = s.coreAt j := rfl
@[simp] theorem State.coreAt_setLaunch (s : State) (l : Nat) (e : Launch) (j : Nat) : (s.setLaunch l e).coreAt j = s.coreAt j := rfl
@[simp] theorem State.coreAt_setCx (s : State) (c : Ctx) (j : Nat) : (s.setCx c).coreAt j = s.coreAt j := rfl
@[simp] theorem State.unitAt_setCore (s : State) (k : Nat) (c : Core) (j : Nat) : (s.setCore k c).unitAt j = s.unitAt j := rfl
@[simp] theorem State.unitAt_setThr (s : State) (t : Nat) (e : Thread) (j : Nat) : (s.setThr t e).unitAt j = s.unitAt j := rfl
@[simp] theorem State.unitAt_setPart (s : State) (p : Nat) (e : Part) (j : Nat) : (s.setPart p e).unitAt j = s.unitAt j := rfl
@[simp] theorem State.unitAt_setLaunch (s : State) (l : Nat) (e : Launch) (j : Nat) : (s.setLaunch l e).unitAt j = s.unitAt j := rfl
@[simp] theorem State.thr_setCore (s : State) (k : Nat) (c : Core) (j : Nat) : (s.setCore k c).thr j = s.thr j := rfl
@[simp] theorem State.thr_setUnit (s : State) (t : Nat) (u : UnitSt) (j : Nat) : (s.setUnit t u).thr j = s.thr j := rfl
@[simp] theorem State.thr_setPart (s : State) (p : Nat) (e : Part) (j : Nat) : (s.setPart p e).thr j = s.thr j := rfl
@[simp] theorem State.thr_setLaunch (s : State) (l : Nat) (e : Launch) (j : Nat) : (s.setLaunch l e).thr j = s.thr j := rfl
@[simp] theorem State.thr_setCx (s : State) (c : Ctx) (j : Nat) : (s.setCx c).thr j = s.thr j := rfl
@[simp] theorem State.part_setCore (s : State) (k : Nat) (c : Core) (j : Nat) : (s.setCore k c).part j = s.part j := rfl
@[simp] theorem State.part_setUnit (s : State) (t : Nat) (u : UnitSt) (j : Nat) : (s.setUnit t u).part j = s.part j := rfl
@[simp] theorem State.part_setThr (s : State) (t : Nat) (e : Thread) (j : Nat) : (s.setThr t e).part j = s.part j := rfl
@[simp] theorem State.part_setLaunch (s : State) (l : Nat) (e : Launch) (j : Nat) : (s.setLaunch l e).part j = s.part j := rfl
@[simp] theorem State.part_setCx (s : State) (c : Ctx) (j : Nat) : (s.setCx c).part j = s.part j := rfl
@[simp] theorem State.launchAt_setCore (s : State) (k : Nat) (c : Core) (j : Nat) : (s.setCore k c).launchAt j = s.launchAt j := rfl
@[simp] theorem State.launchAt_setUnit (s : State) (t : Nat) (u : UnitSt) (j : Nat) : (s.setUnit t u).launchAt j = s.launchAt j := rfl
@[simp] theorem State.launchAt_setThr (s : State) (t : Nat) (e : Thread) (j : Nat) : (s.setThr t e).launchAt j = s.launchAt j := rfl
@[simp] theorem State.launchAt_setPart (s : State) (p : Nat) (e : Part) (j : Nat) : (s.setPart p e).launchAt j = s.launchAt j := rfl
@[simp] theorem State.launchAt_setCx (s : State) (c : Ctx) (j : Nat) : (s.setCx c).launchAt j = s.launchAt j := rfl

@[simp] theorem State.th_setCx (s : State) (c : Ctx) : (s.setCx c).th = s.th := rfl
@[simp] theorem State.un_setCx (s : State) (c : Ctx) : (s.setCx c).un = s.un.setCtx s.ctx c := by
  show (s.setUnit s.th _).unitAt s.th = _
  simp
@[simp] theorem State.cx_setCx (s : State) (c : Ctx) : (s.setCx c).cx = c := by
  simp [State.cx]

end Sys2Proof.Machine
end

