-- ==== Sys2Proof/Laws/Ops.lean ====
section
/-!
SUPPORT. Everything the moulds of the scalar instructions can answer, said once: when an instruction is ready it takes its
sources, writes its result and retires; otherwise it stops for want of a context, traps, waits or raises.
-/
namespace Sys2Proof.Machine

/-- A scalar instruction whose sources have values, whose destination has room and whose checks pass. -/
theorem scalarE_ready {s : State} {p : Scal} {eff : List Val → State → State} {vs : List Val} (hr : s.runs = true)
    (hl : s.linksOk p.opds = true) (hv : s.srcVals p.imm [] p.srcs = some vs) (hd : p.dst.all (s.room p.srcs) = true)
    (hc : p.chk vs = none) :
    scalarE s p eff = .next ((eff vs (match p.dst with
      | some d => (s.takeAll p.srcs).writeDst (p.res vs) d
      | none => s.takeAll p.srcs)).retire.drain s.core) := by
  simp only [scalarE, hr, hl, hv, hd, hc]
  cases p.dst <;> rfl

/-- The same for an instruction with a destination. -/
theorem scalarE_dst {s : State} {srcs : List SrcOp} {d : Opd} {imm : Word} {chk : List Val → Option Exc}
    {res : List Val → Val} {eff : List Val → State → State} {vs : List Val} (hr : s.runs = true)
    (hl : s.linksOk (srcs.map (·.1) ++ [d]) = true) (hv : s.srcVals imm [] srcs = some vs)
    (hd : s.room srcs d = true) (hc : chk vs = none) :
    scalarE s ⟨srcs, some d, imm, chk, res⟩ eff =
      .next ((eff vs ((s.takeAll srcs).writeDst (res vs) d)).retire.drain s.core) :=
  scalarE_ready hr hl hv hd hc

theorem scalarE_raises {s : State} {p : Scal} {eff : List Val → State → State} {vs : List Val} {e : Exc}
    (hr : s.runs = true) (hl : s.linksOk p.opds = true) (hv : s.srcVals p.imm [] p.srcs = some vs)
    (hd : p.dst.all (s.room p.srcs) = true) (hc : p.chk vs = some e) : scalarE s p eff = .next (s.raise e) := by
  simp [scalarE, hr, hl, hv, hd, hc]

theorem scalarE_waits {s : State} {p : Scal} {eff : List Val → State → State} (hr : s.runs = true)
    (hl : s.linksOk p.opds = true) (hv : s.srcVals p.imm [] p.srcs = none) : scalarE s p eff = .next (s.awaits p.imm p.srcs) := by
  simp [scalarE, hr, hl, hv]

/-- An instruction that names a link it cannot use waits, or takes D09. -/
theorem State.badLink_cases (s : State) (imm : Word) (srcs : List SrcOp) (d : Option Opd) :
    s.badLink imm srcs d = s.trap (cz 0xD09) s.cx.pc s.cx.pc ∨ s.WaitsTo (s.badLink imm srcs d) := by
  unfold State.badLink
  split
  · exact .inr (.inr ⟨_, _, rfl⟩)
  · split
    · exact .inr (.inl ⟨_, rfl⟩)
    · exact .inl rfl

/-- All a scalar instruction can answer. -/
theorem scalarE_next {s t : State} {p : Scal} {eff : List Val → State → State} (h : scalarE s p eff = .next t) :
    s.runs = true ∧ (t = s.trap (cz 0xD09) s.cx.pc s.cx.pc ∨ s.WaitsTo t ∨ (∃ e, t = s.raise e) ∨
      ∃ vs, s.srcVals p.imm [] p.srcs = some vs ∧ p.chk vs = none ∧ t = (eff vs (match p.dst with
        | some d => (s.takeAll p.srcs).writeDst (p.res vs) d
        | none => s.takeAll p.srcs)).retire.drain s.core) := by
  unfold scalarE at h
  split at h
  · cases h
  · next hr =>
    refine ⟨by simpa using hr, ?_⟩
    split at h
    · cases h
      obtain hb | hb := s.badLink_cases p.imm p.srcs p.dst
      · exact .inl hb
      · exact .inr (.inl hb)
    · split at h
      · cases h; exact .inr (.inl (.inr ⟨_, _, rfl⟩))
      · next vs hv =>
        split at h
        · cases h; exact .inr (.inl (.inl ⟨_, rfl⟩))
        · split at h
          · cases h; exact .inr (.inr (.inl ⟨_, rfl⟩))
          · next hc =>
            cases h
            refine .inr (.inr (.inr ⟨vs, hv, hc, ?_⟩))
            cases p.dst <;> rfl

/-- A scalar instruction on a core without a running context stops. -/
theorem scalarE_noContext {s : State} {p : Scal} {eff : List Val → State → State} (h : s.runs = false) :
    scalarE s p eff = .fault .noContext := by
  simp [scalarE, h]

/-- A control instruction whose sources have values and whose checks pass. -/
theorem control_ready {s : State} {p : Ctl} {vs : List Val} (hr : s.runs = true)
    (hl : s.linksOk (p.srcs.map (·.1)) = true) (hv : s.srcVals p.imm [] p.srcs = some vs) (hc : p.chk vs = none) :
    control s p = .next ((p.act (s.takeAll p.srcs) vs).drain s.core) := by
  simp [control, hr, hl, hv, hc]

theorem control_raises {s : State} {p : Ctl} {vs : List Val} {e : Exc} (hr : s.runs = true)
    (hl : s.linksOk (p.srcs.map (·.1)) = true) (hv : s.srcVals p.imm [] p.srcs = some vs) (hc : p.chk vs = some e) :
    control s p = .next (s.raise e) := by
  simp [control, hr, hl, hv, hc]

/-- All a control instruction can answer. -/
theorem control_next {s t : State} {p : Ctl} (h : control s p = .next t) :
    s.runs = true ∧ (t = s.trap (cz 0xD09) s.cx.pc s.cx.pc ∨ s.WaitsTo t ∨ (∃ e, t = s.raise e) ∨
      ∃ vs, s.srcVals p.imm [] p.srcs = some vs ∧ p.chk vs = none ∧
        t = (p.act (s.takeAll p.srcs) vs).drain s.core) := by
  unfold control at h
  split at h
  · cases h
  · next hr =>
    refine ⟨by simpa using hr, ?_⟩
    split at h
    · cases h
      obtain hb | hb := s.badLink_cases p.imm p.srcs none
      · exact .inl hb
      · exact .inr (.inl hb)
    · split at h
      · cases h; exact .inr (.inl (.inr ⟨_, _, rfl⟩))
      · next vs hv =>
        split at h
        · cases h; exact .inr (.inr (.inl ⟨_, rfl⟩))
        · next hc => cases h; exact .inr (.inr (.inr ⟨vs, hv, hc, rfl⟩))

/-! ## Landings held by the acting core -/

/-- With no landing held, nothing is drained. -/
theorem State.drain_nil {s : State} {k : Nat} (h : (s.coreAt k).lbuf = []) : s.drain k = s := by
  simp [State.drain, h]

end Sys2Proof.Machine
end

