-- ==== Sys2Proof/Laws/Access.lean ====
section
/-!
SUPPORT. Everything the mould of a memory instruction can answer, said once, and what the list of accesses in flight holds
after an access is changed or dropped.
-/
namespace Sys2Proof.Machine

/-! ## The mould of memory instructions -/

/-- A memory instruction in its turn whose sources have values and whose checks pass. -/
theorem memory_ready {s : State} {p : Ctl} {vs : List Val} (hr : s.runs = true) (ho : s.inOrder = true)
    (hv : s.srcVals p.imm [] p.srcs = some vs) (hc : p.chk vs = none) : memory s p = .next ((p.act s vs).drain s.core) := by
  simp [memory, hr, ho, hv, hc]

theorem memory_raises {s : State} {p : Ctl} {vs : List Val} {e : Exc} (hr : s.runs = true) (ho : s.inOrder = true)
    (hv : s.srcVals p.imm [] p.srcs = some vs) (hc : p.chk vs = some e) : memory s p = .next (s.raise e) := by
  simp [memory, hr, ho, hv, hc]

/-- Behind an access that its context still owes it waits (R179, R307). -/
theorem memory_held {s : State} {p : Ctl} (hr : s.runs = true) (ho : s.inOrder = false) :
    memory s p = .next (s.waits .hold) := by
  simp [memory, hr, ho]

/-- All a memory instruction can answer. -/
theorem memory_next {s t : State} {p : Ctl} (h : memory s p = .next t) :
    s.runs = true ∧ (s.WaitsTo t ∨ (∃ e, t = s.raise e) ∨
      ∃ vs, s.inOrder = true ∧ s.srcVals p.imm [] p.srcs = some vs ∧ p.chk vs = none ∧ t = (p.act s vs).drain s.core) := by
  unfold memory at h
  split at h
  · cases h
  · next hr =>
    refine ⟨by simpa using hr, ?_⟩
    split at h
    · cases h; exact .inl (.inl ⟨_, rfl⟩)
    · next ho =>
      split at h
      · cases h; exact .inl (.inr ⟨_, _, rfl⟩)
      · next vs hv =>
        split at h
        · cases h; exact .inr (.inl ⟨_, rfl⟩)
        · next hc => cases h; exact .inr (.inr ⟨vs, by simpa using ho, hv, hc, rfl⟩)

/-- With room for a numbered operation, a memory instruction under a timeline is one of the plain mould (R247). -/
theorem memoryTl_room {s : State} {tle : Bool} {p : Ctl} (h : tle = false ∨ s.opsFull = false) :
    memoryTl s tle p = memory s p := by
  obtain h | h := h <;> simp [memoryTl, h]

/-! ## The list of accesses -/

/-- An access found by its number has that number. -/
theorem State.req_id {s : State} {i : Nat} {r : Req} (h : s.req i = some r) : r.id = i := by
  simpa using List.find?_some h

theorem find_modFirst {α : Type} (p : α → Bool) (f : α → α) (hp : ∀ a, p a = true → p (f a) = true) (l : List α) :
    (modFirst p f l).find? p = (l.find? p).map f := by
  induction l with
  | nil => rfl
  | cons a l ih =>
    by_cases h : p a = true
    · simp [modFirst, h, hp a h]
    · simp [modFirst, h, ih]

/-- An access that is changed, and keeps its number, is found changed. -/
theorem State.req_modReq (s : State) (i : Nat) (f : Req → Req) (hf : ∀ r, (f r).id = r.id) :
    (s.modReq i f).req i = (s.req i).map f :=
  find_modFirst _ f (fun a h => by simpa [hf a] using h) s.reqs

theorem length_dropFirst {α : Type} (p : α → Bool) (l : List α) (h : (l.find? p).isSome = true) :
    (dropFirst p l).length + 1 = l.length := by
  induction l with
  | nil => simp at h
  | cons a l ih =>
    by_cases ha : p a = true
    · simp [dropFirst, ha]
    · simp [dropFirst, ha, ih (by simpa [List.find?, ha] using h)]

/-- An access that is dropped leaves one less. -/
theorem State.length_dropReq {s : State} {i : Nat} {r : Req} (h : s.req i = some r) :
    (s.dropReq i).reqs.length + 1 = s.reqs.length :=
  length_dropFirst _ _ (by show (s.req i).isSome = true; rw [h]; rfl)

/-- Where no access is listed, a change of a word walks no list (R178). -/
theorem State.wordChanged_none {s : State} (w : Nat) (h : ∀ q ∈ s.reqs, q.phase ≠ .listed) : s.wordChanged w = s := by
  have : s.reqs.any (fun r => r.phase == .listed && r.word == some w) = false := by
    simp only [List.any_eq_false, Bool.and_eq_true, beq_iff_eq, not_and]
    exact fun q hq hp => absurd hp (h q hq)
  simp [State.wordChanged, this]

end Sys2Proof.Machine
end

