-- ==== Sys2Proof/Laws/Exec.lean ====
section
/-!
SUPPORT. What exec calls for each instruction: one equation per constructor, so that no proof unfolds the whole dispatch.
-/
namespace Sys2Proof.Machine

set_option Elab.async false

@[simp] theorem exec_iadd (ty : Ty) (sat : Bool) (o : Bin) (s : State) :
    exec (.iadd ty sat o) s = execIadd ty sat o s := rfl
@[simp] theorem exec_isub (ty : Ty) (sat : Bool) (o : Bin) (s : State) :
    exec (.isub ty sat o) s = execIsub ty sat o s := rfl
@[simp] theorem exec_imul (ty : Ty) (sat : Bool) (o : Bin) (s : State) :
    exec (.imul ty sat o) s = execImul ty sat o s := rfl
@[simp] theorem exec_imulh (ty : Ty) (o : Bin) (s : State) :
    exec (.imulh ty o) s = execImulh ty o s := rfl
@[simp] theorem exec_idiv (ty : Ty) (o : Bin) (s : State) :
    exec (.idiv ty o) s = execIdiv ty o s := rfl
@[simp] theorem exec_irem (ty : Ty) (o : Bin) (s : State) :
    exec (.irem ty o) s = execIrem ty o s := rfl
@[simp] theorem exec_imin (ty : Ty) (o : Bin) (s : State) :
    exec (.imin ty o) s = execImin ty o s := rfl
@[simp] theorem exec_imax (ty : Ty) (o : Bin) (s : State) :
    exec (.imax ty o) s = execImax ty o s := rfl
@[simp] theorem exec_iabs (ty : Ty) (sat : Bool) (o : Un) (s : State) :
    exec (.iabs ty sat o) s = execIabs ty sat o s := rfl
@[simp] theorem exec_and (o : Bin) (s : State) :
    exec (.and o) s = execAnd o s := rfl
@[simp] theorem exec_or (o : Bin) (s : State) :
    exec (.or o) s = execOr o s := rfl
@[simp] theorem exec_xor (o : Bin) (s : State) :
    exec (.xor o) s = execXor o s := rfl
@[simp] theorem exec_andn (o : Bin) (s : State) :
    exec (.andn o) s = execAndn o s := rfl
@[simp] theorem exec_shl (ty : Ty) (o : Bin) (s : State) :
    exec (.shl ty o) s = execShl ty o s := rfl
@[simp] theorem exec_shr (ty : Ty) (o : Bin) (s : State) :
    exec (.shr ty o) s = execShr ty o s := rfl
@[simp] theorem exec_sra (ty : Ty) (o : Bin) (s : State) :
    exec (.sra ty o) s = execSra ty o s := rfl
@[simp] theorem exec_rol (ty : Ty) (o : Bin) (s : State) :
    exec (.rol ty o) s = execRol ty o s := rfl
@[simp] theorem exec_clz (ty : Ty) (o : Un) (s : State) :
    exec (.clz ty o) s = execClz ty o s := rfl
@[simp] theorem exec_ctz (ty : Ty) (o : Un) (s : State) :
    exec (.ctz ty o) s = execCtz ty o s := rfl
@[simp] theorem exec_popc (ty : Ty) (o : Un) (s : State) :
    exec (.popc ty o) s = execPopc ty o s := rfl
@[simp] theorem exec_bswap (ty : Ty) (o : Un) (s : State) :
    exec (.bswap ty o) s = execBswap ty o s := rfl
@[simp] theorem exec_bfx (o : Bin) (s : State) :
    exec (.bfx o) s = execBfx o s := rfl
@[simp] theorem exec_bfi (o : Bin) (s : State) :
    exec (.bfi o) s = execBfi o s := rfl
@[simp] theorem exec_iext (o : Bin) (s : State) :
    exec (.iext o) s = execIext o s := rfl
@[simp] theorem exec_cmp (cc : Cc) (ty : Ty) (o : Bin) (s : State) :
    exec (.cmp cc ty o) s = execCmp cc ty o s := rfl
@[simp] theorem exec_sel (o : Bin) (s : State) :
    exec (.sel o) s = execSel o s := rfl
@[simp] theorem exec_ldi (d : Opd) (imm : BitVec 32) (s : State) :
    exec (.ldi d imm) s = execLdi d imm s := rfl
@[simp] theorem exec_ldk (d : Opd) (imm : BitVec 64) (s : State) :
    exec (.ldk d imm) s = execLdk d imm s := rfl
@[simp] theorem exec_adda (o : Bin) (s : State) :
    exec (.adda o) s = execAdda o s := rfl
@[simp] theorem exec_mramk (o : Bin) (s : State) :
    exec (.mramk o) s = execMramk o s := rfl
@[simp] theorem exec_self (d : Opd) (s : State) :
    exec (.self d) s = execSelf d s := rfl
@[simp] theorem exec_br (off : BitVec 32) (s : State) :
    exec (.br off) s = execBr off s := rfl
@[simp] theorem exec_bz (a : Src) (off : BitVec 32) (s : State) :
    exec (.bz a off) s = execBz a off s := rfl
@[simp] theorem exec_bnz (a : Src) (off : BitVec 32) (s : State) :
    exec (.bnz a off) s = execBnz a off s := rfl
@[simp] theorem exec_bcmp (cc : Cc) (ty : Ty) (a : Opd) (ta : Bool) (b : Opd) (tb : Bool) (off : BitVec 16) (s : State) :
    exec (.bcmp cc ty a ta b tb off) s = execBcmp cc ty a ta b tb off s := rfl
@[simp] theorem exec_jmp (a : Opd) (ta : Bool) (s : State) :
    exec (.jmp a ta) s = execJmp a ta s := rfl
@[simp] theorem exec_call (d : Opd) (a : Opd) (off : BitVec 32) (s : State) :
    exec (.call d a off) s = execCall d a off s := rfl
@[simp] theorem exec_loop (d : Opd) (off : BitVec 32) (s : State) :
    exec (.loop d off) s = execLoop d off s := rfl
@[simp] theorem exec_nop (s : State) :
    exec (.nop) s = execNop s := rfl
@[simp] theorem exec_empty (d : Opd) (s : State) :
    exec (.empty d) s = execEmpty d s := rfl
@[simp] theorem exec_markf (d : Opd) (s : State) :
    exec (.markf d) s = execMarkf d s := rfl
@[simp] theorem exec_probe (d : Opd) (a : Opd) (s : State) :
    exec (.probe d a) s = execProbe d a s := rfl
@[simp] theorem exec_waitf (a : Opd) (ta : Bool) (s : State) :
    exec (.waitf a ta) s = execWaitf a ta s := rfl
@[simp] theorem exec_qcfg (d : Opd) (a : Opd) (imm : BitVec 16) (s : State) :
    exec (.qcfg d a imm) s = execQcfg d a imm s := rfl
@[simp] theorem exec_qrst (d : Opd) (s : State) :
    exec (.qrst d) s = execQrst d s := rfl
@[simp] theorem exec_qocc (d : Opd) (a : Opd) (s : State) :
    exec (.qocc d a) s = execQocc d a s := rfl
@[simp] theorem exec_ld (sz : Sz) (sm : Sm) (pol : Policy) (m : MemOp) (s : State) :
    exec (.ld sz sm pol m) s = execLd sz sm pol m s := rfl
@[simp] theorem exec_st (sz : Sz) (sm : Sm) (pol : Policy) (m : MemOp) (s : State) :
    exec (.st sz sm pol m) s = execSt sz sm pol m s := rfl
@[simp] theorem exec_pref (lvl : Sys2Proof.Level) (m : MemOp) (s : State) :
    exec (.pref lvl m) s = execPref lvl m s := rfl
@[simp] theorem exec_resid (lvl : Sys2Proof.Level) (m : MemOp) (s : State) :
    exec (.resid lvl m) s = execResid lvl m s := rfl
@[simp] theorem exec_evict (lvl : Sys2Proof.Level) (m : MemOp) (s : State) :
    exec (.evict lvl m) s = execEvict lvl m s := rfl
@[simp] theorem exec_fence (s : State) :
    exec (.fence) s = execFence s := rfl
@[simp] theorem exec_ldl (sz : Sz) (sm : Sm) (pol : Policy) (lo : LandOpt) (m : MemOp) (s : State) :
    exec (.ldl sz sm pol lo m) s = execLdl sz sm pol lo m s := rfl
@[simp] theorem exec_rsend (d : Opd) (a : Opd) (ta : Bool) (imm : BitVec 16) (lo : LandOpt) (s : State) :
    exec (.rsend d a ta imm lo) s = execRsend d a ta imm lo s := rfl
@[simp] theorem exec_ldx (sz : Sz) (sm : Sm) (o : ShardOp) (s : State) :
    exec (.ldx sz sm o) s = execLdx sz sm o s := rfl
@[simp] theorem exec_stx (sz : Sz) (sm : Sm) (o : ShardOp) (s : State) :
    exec (.stx sz sm o) s = execStx sz sm o s := rfl
@[simp] theorem exec_smfrz (a : Src) (s : State) :
    exec (.smfrz a) s = execSmfrz a s := rfl
@[simp] theorem exec_smrel (a : Src) (s : State) :
    exec (.smrel a) s = execSmrel a s := rfl
@[simp] theorem exec_amo (op : AOp) (l : Bool) (sz : Sz) (mreg : Opd) (lo : LandOpt) (m : MemOp) (s : State) :
    exec (.amo op l sz mreg lo m) s = execAmo op l sz mreg lo m s := rfl
@[simp] theorem exec_cas (sz : Sz) (m : MemOp) (s : State) :
    exec (.cas sz m) s = execCas sz m s := rfl
@[simp] theorem exec_amox (op : AOp) (sz : Sz) (o : ShardOp) (s : State) :
    exec (.amox op sz o) s = execAmox op sz o s := rfl
@[simp] theorem exec_flagf (tl : BitVec 3) (m : MemOp) (s : State) :
    exec (.flagf tl m) s = execFlagf tl m s := rfl
@[simp] theorem exec_shld (v : VecOp) (s : State) :
    exec (.shld v) s = execShld v s := rfl
@[simp] theorem exec_shst (v : VecOp) (s : State) :
    exec (.shst v) s = execShst v s := rfl
@[simp] theorem exec_shset (fld : ShField) (v : VecOp) (s : State) :
    exec (.shset fld v) s = execShset fld v s := rfl
@[simp] theorem exec_shadv (v : VecOp) (s : State) :
    exec (.shadv v) s = execShadv v s := rfl
@[simp] theorem exec_shrd (fld : ShField) (v : VecOp) (s : State) :
    exec (.shrd fld v) s = execShrd fld v s := rfl
@[simp] theorem exec_vadd (ty : Ty) (md : Md) (v : VecOp) (s : State) :
    exec (.vadd ty md v) s = execVadd ty md v s := rfl
@[simp] theorem exec_vsub (ty : Ty) (md : Md) (v : VecOp) (s : State) :
    exec (.vsub ty md v) s = execVsub ty md v s := rfl
@[simp] theorem exec_vmul (ty : Ty) (md : Md) (v : VecOp) (s : State) :
    exec (.vmul ty md v) s = execVmul ty md v s := rfl
@[simp] theorem exec_vfma (ty : Ty) (md : Md) (v : VecOp) (s : State) :
    exec (.vfma ty md v) s = execVfma ty md v s := rfl
@[simp] theorem exec_vmin (ty : Ty) (md : Md) (v : VecOp) (s : State) :
    exec (.vmin ty md v) s = execVmin ty md v s := rfl
@[simp] theorem exec_vmax (ty : Ty) (md : Md) (v : VecOp) (s : State) :
    exec (.vmax ty md v) s = execVmax ty md v s := rfl
@[simp] theorem exec_vabs (ty : Ty) (md : Md) (v : VecOp) (s : State) :
    exec (.vabs ty md v) s = execVabs ty md v s := rfl
@[simp] theorem exec_vneg (ty : Ty) (md : Md) (v : VecOp) (s : State) :
    exec (.vneg ty md v) s = execVneg ty md v s := rfl
@[simp] theorem exec_vand (ty : Ty) (v : VecOp) (s : State) :
    exec (.vand ty v) s = execVand ty v s := rfl
@[simp] theorem exec_vor (ty : Ty) (v : VecOp) (s : State) :
    exec (.vor ty v) s = execVor ty v s := rfl
@[simp] theorem exec_vxor (ty : Ty) (v : VecOp) (s : State) :
    exec (.vxor ty v) s = execVxor ty v s := rfl
@[simp] theorem exec_vshl (ty : Ty) (v : VecOp) (s : State) :
    exec (.vshl ty v) s = execVshl ty v s := rfl
@[simp] theorem exec_vshr (ty : Ty) (v : VecOp) (s : State) :
    exec (.vshr ty v) s = execVshr ty v s := rfl
@[simp] theorem exec_vcmp (cc : Cc) (ty : Ty) (md : Md) (v : VecOp) (s : State) :
    exec (.vcmp cc ty md v) s = execVcmp cc ty md v s := rfl
@[simp] theorem exec_vsel (ty : Ty) (v : VecOp) (s : State) :
    exec (.vsel ty v) s = execVsel ty v s := rfl
@[simp] theorem exec_vcvt (ty : Ty) (md : Md) (v : VecOp) (s : State) :
    exec (.vcvt ty md v) s = execVcvt ty md v s := rfl
@[simp] theorem exec_vcopy (ty : Ty) (v : VecOp) (s : State) :
    exec (.vcopy ty v) s = execVcopy ty v s := rfl
@[simp] theorem exec_vbcst (ty : Ty) (md : Md) (v : VecOp) (s : State) :
    exec (.vbcst ty md v) s = execVbcst ty md v s := rfl
@[simp] theorem exec_vgath (ty : Ty) (v : VecOp) (s : State) :
    exec (.vgath ty v) s = execVgath ty v s := rfl
@[simp] theorem exec_vscat (ty : Ty) (v : VecOp) (s : State) :
    exec (.vscat ty v) s = execVscat ty v s := rfl
@[simp] theorem exec_vsum (ty : Ty) (sat : Bool) (v : VecOp) (s : State) :
    exec (.vsum ty sat v) s = execVsum ty sat v s := rfl
@[simp] theorem exec_vrmax (ty : Ty) (v : VecOp) (s : State) :
    exec (.vrmax ty v) s = execVrmax ty v s := rfl
@[simp] theorem exec_vsfu (fn : SfuFn) (ty : Ty) (md : Md) (v : VecOp) (s : State) :
    exec (.vsfu fn ty md v) s = execVsfu fn ty md v s := rfl
@[simp] theorem exec_vqnt (ty : Ty) (md : Md) (v : VecOp) (s : State) :
    exec (.vqnt ty md v) s = execVqnt ty md v s := rfl
@[simp] theorem exec_vdq (ty : Ty) (md : Md) (v : VecOp) (s : State) :
    exec (.vdq ty md v) s = execVdq ty md v s := rfl
@[simp] theorem exec_vpclr (ty : Ty) (v : VecOp) (s : State) :
    exec (.vpclr ty v) s = execVpclr ty v s := rfl
@[simp] theorem exec_fadd (ty : Ty) (md : Md) (o : Bin) (s : State) :
    exec (.fadd ty md o) s = execFadd ty md o s := rfl
@[simp] theorem exec_fsub (ty : Ty) (md : Md) (o : Bin) (s : State) :
    exec (.fsub ty md o) s = execFsub ty md o s := rfl
@[simp] theorem exec_fmul (ty : Ty) (md : Md) (o : Bin) (s : State) :
    exec (.fmul ty md o) s = execFmul ty md o s := rfl
@[simp] theorem exec_ffma (ty : Ty) (md : Md) (o : Bin) (s : State) :
    exec (.ffma ty md o) s = execFfma ty md o s := rfl
@[simp] theorem exec_fmin (ty : Ty) (o : Bin) (s : State) :
    exec (.fmin ty o) s = execFmin ty o s := rfl
@[simp] theorem exec_fmax (ty : Ty) (o : Bin) (s : State) :
    exec (.fmax ty o) s = execFmax ty o s := rfl
@[simp] theorem exec_fabs (ty : Ty) (o : Un) (s : State) :
    exec (.fabs ty o) s = execFabs ty o s := rfl
@[simp] theorem exec_fneg (ty : Ty) (o : Un) (s : State) :
    exec (.fneg ty o) s = execFneg ty o s := rfl
@[simp] theorem exec_fcmp (cc : Cc) (ty : Ty) (o : Bin) (s : State) :
    exec (.fcmp cc ty o) s = execFcmp cc ty o s := rfl
@[simp] theorem exec_fcvt (dty : Ty) (sty : Ty) (md : Md) (d : Opd) (a : Opd) (ta : Bool) (s : State) :
    exec (.fcvt dty sty md d a ta) s = execFcvt dty sty md d a ta s := rfl
@[simp] theorem exec_fclass (ty : Ty) (o : Un) (s : State) :
    exec (.fclass ty o) s = execFclass ty o s := rfl
@[simp] theorem exec_cvp (form : PackForm) (ty : Ty) (md : Md) (o : Bin) (s : State) :
    exec (.cvp form ty md o) s = execCvp form ty md o s := rfl
@[simp] theorem exec_cvu (ty : Ty) (o : Bin) (s : State) :
    exec (.cvu ty o) s = execCvu ty o s := rfl
@[simp] theorem exec_fexp2 (ty : Ty) (md : Md) (o : Un) (s : State) :
    exec (.fexp2 ty md o) s = execFexp2 ty md o s := rfl
@[simp] theorem exec_flog2 (ty : Ty) (md : Md) (o : Un) (s : State) :
    exec (.flog2 ty md o) s = execFlog2 ty md o s := rfl
@[simp] theorem exec_frcp (ty : Ty) (md : Md) (o : Un) (s : State) :
    exec (.frcp ty md o) s = execFrcp ty md o s := rfl
@[simp] theorem exec_frsq (ty : Ty) (md : Md) (o : Un) (s : State) :
    exec (.frsq ty md o) s = execFrsq ty md o s := rfl
@[simp] theorem exec_fsqrt (ty : Ty) (md : Md) (o : Un) (s : State) :
    exec (.fsqrt ty md o) s = execFsqrt ty md o s := rfl
@[simp] theorem exec_fsin (ty : Ty) (md : Md) (o : Un) (s : State) :
    exec (.fsin ty md o) s = execFsin ty md o s := rfl
@[simp] theorem exec_fcos (ty : Ty) (md : Md) (o : Un) (s : State) :
    exec (.fcos ty md o) s = execFcos ty md o s := rfl
@[simp] theorem exec_ftanh (ty : Ty) (md : Md) (o : Un) (s : State) :
    exec (.ftanh ty md o) s = execFtanh ty md o s := rfl
@[simp] theorem exec_mma (t : TOp) (s : State) :
    exec (.mma t) s = execMma t s := rfl
@[simp] theorem exec_mmb (t : TOp) (s : State) :
    exec (.mmb t) s = execMmb t s := rfl
@[simp] theorem exec_mms (t : TOp) (s : State) :
    exec (.mms t) s = execMms t s := rfl
@[simp] theorem exec_mcmp (t : TOp) (s : State) :
    exec (.mcmp t) s = execMcmp t s := rfl
@[simp] theorem exec_mzero (t : TOp) (s : State) :
    exec (.mzero t) s = execMzero t s := rfl
@[simp] theorem exec_mlda (t : TOp) (s : State) :
    exec (.mlda t) s = execMlda t s := rfl
@[simp] theorem exec_msta (t : TOp) (s : State) :
    exec (.msta t) s = execMsta t s := rfl
@[simp] theorem exec_mdrn (t : TOp) (s : State) :
    exec (.mdrn t) s = execMdrn t s := rfl
@[simp] theorem exec_mrsum (t : TOp) (s : State) :
    exec (.mrsum t) s = execMrsum t s := rfl
@[simp] theorem exec_mcsum (t : TOp) (s : State) :
    exec (.mcsum t) s = execMcsum t s := rfl
@[simp] theorem exec_mtbl (t : TOp) (s : State) :
    exec (.mtbl t) s = execMtbl t s := rfl
@[simp] theorem exec_mstat (t : TOp) (s : State) :
    exec (.mstat t) s = execMstat t s := rfl
@[simp] theorem exec_cpy (t : TOp) (s : State) :
    exec (.cpy t) s = execCpy t s := rfl
@[simp] theorem exec_gath (t : TOp) (s : State) :
    exec (.gath t) s = execGath t s := rfl
@[simp] theorem exec_scat (t : TOp) (s : State) :
    exec (.scat t) s = execScat t s := rfl
@[simp] theorem exec_coll (op : CollOp) (t : TOp) (s : State) :
    exec (.coll op t) s = execColl op t s := rfl
@[simp] theorem exec_tlwait (tl : BitVec 3) (a : Src) (s : State) :
    exec (.tlwait tl a) s = execTlwait tl a s := rfl
@[simp] theorem exec_tlread (d : Opd) (tl : BitVec 3) (fld : BitVec 3) (s : State) :
    exec (.tlread d tl fld) s = execTlread d tl fld s := rfl
@[simp] theorem exec_tlnote (d : Opd) (a : Opd) (ta : Bool) (imm : BitVec 16) (tl : BitVec 3) (s : State) :
    exec (.tlnote d a ta imm tl) s = execTlnote d a ta imm tl s := rfl
@[simp] theorem exec_fqprst (tl : BitVec 3) (s : State) :
    exec (.fqprst tl) s = execFqprst tl s := rfl
@[simp] theorem exec_start (a : Src) (off : BitVec 32) (s : State) :
    exec (.start a off) s = execStart a off s := rfl
@[simp] theorem exec_hjoin (a : Src) (s : State) :
    exec (.hjoin a) s = execHjoin a s := rfl
@[simp] theorem exec_hexit (s : State) :
    exec (.hexit) s = execHexit s := rfl
@[simp] theorem exec_post (p : PostOp) (s : State) :
    exec (.post p) s = execPost p s := rfl
@[simp] theorem exec_susp (p : PostOp) (s : State) :
    exec (.susp p) s = execSusp p s := rfl
@[simp] theorem exec_yield (s : State) :
    exec (.yield) s = execYield s := rfl
@[simp] theorem exec_uexit (s : State) :
    exec (.uexit) s = execUexit s := rfl
@[simp] theorem exec_enq (d : Opd) (a : Src) (b : Opd) (s : State) :
    exec (.enq d a b) s = execEnq d a b s := rfl
@[simp] theorem exec_enqw (d : Opd) (a : Src) (b : Opd) (s : State) :
    exec (.enqw d a b) s = execEnqw d a b s := rfl
@[simp] theorem exec_deq (s : State) :
    exec (.deq) s = execDeq s := rfl
@[simp] theorem exec_recdone (s : State) :
    exec (.recdone) s = execRecdone s := rfl
@[simp] theorem exec_splitok (a : Src) (s : State) :
    exec (.splitok a) s = execSplitok a s := rfl
@[simp] theorem exec_mergeok (s : State) :
    exec (.mergeok) s = execMergeok s := rfl
@[simp] theorem exec_tballoc (o : Un) (s : State) :
    exec (.tballoc o) s = execTballoc o s := rfl
@[simp] theorem exec_tbfree (a : Src) (s : State) :
    exec (.tbfree a) s = execTbfree a s := rfl
@[simp] theorem exec_tbset (st : BufState) (a : Opd) (ta : Bool) (b : Opd) (tb : Bool) (imm : BitVec 16) (s : State) :
    exec (.tbset st a ta b tb imm) s = execTbset st a ta b tb imm s := rfl
@[simp] theorem exec_tbstat (o : Un) (s : State) :
    exec (.tbstat o) s = execTbstat o s := rfl
@[simp] theorem exec_spanx (s : State) :
    exec (.spanx) s = execSpanx s := rfl
@[simp] theorem exec_spanc (s : State) :
    exec (.spanc) s = execSpanc s := rfl
@[simp] theorem exec_gbar (s : State) :
    exec (.gbar) s = execGbar s := rfl
@[simp] theorem exec_lcnt (d : Opd) (lvl : BitVec 16) (s : State) :
    exec (.lcnt d lvl) s = execLcnt d lvl s := rfl
@[simp] theorem exec_cancel (lvl : BitVec 16) (s : State) :
    exec (.cancel lvl) s = execCancel lvl s := rfl
@[simp] theorem exec_pchk (d : Opd) (a : Opd) (ta : Bool) (s : State) :
    exec (.pchk d a ta) s = execPchk d a ta s := rfl
@[simp] theorem exec_pclr (d : Opd) (s : State) :
    exec (.pclr d) s = execPclr d s := rfl
@[simp] theorem exec_pset (d : Opd) (s : State) :
    exec (.pset d) s = execPset d s := rfl
@[simp] theorem exec_stc (sz : Sz) (sm : Sm) (pol : Policy) (m : MemOp) (s : State) :
    exec (.stc sz sm pol m) s = execStc sz sm pol m s := rfl
@[simp] theorem exec_sig (v : BitVec 24) (s : State) :
    exec (.sig v) s = execSig v s := rfl
@[simp] theorem exec_upret (s : State) :
    exec (.upret) s = execUpret s := rfl
@[simp] theorem exec_upmask (o : Un) (s : State) :
    exec (.upmask o) s = execUpmask o s := rfl
@[simp] theorem exec_trap (n : BitVec 5) (s : State) :
    exec (.trap n) s = execTrap n s := rfl
@[simp] theorem exec_tret (s : State) :
    exec (.tret) s = execTret s := rfl
@[simp] theorem exec_csrr (d : Opd) (n : BitVec 12) (s : State) :
    exec (.csrr d n) s = execCsrr d n s := rfl
@[simp] theorem exec_csrw (a : Opd) (ta : Bool) (n : BitVec 12) (s : State) :
    exec (.csrw a ta n) s = execCsrw a ta n s := rfl
@[simp] theorem exec_tinv (d : Opd) (a : Opd) (b : Opd) (scope : BitVec 2) (s : State) :
    exec (.tinv d a b scope) s = execTinv d a b scope s := rfl
@[simp] theorem exec_tsync (s : State) :
    exec (.tsync) s = execTsync s := rfl
@[simp] theorem exec_l2fl (mode : Bool) (s : State) :
    exec (.l2fl mode) s = execL2fl mode s := rfl
@[simp] theorem exec_idle (s : State) :
    exec (.idle) s = execIdle s := rfl
@[simp] theorem exec_fetchFault (k : FetchCause × HostAns) (s : State) :
    exec (.fetchFault k) s = execFetchFault k s := rfl
@[simp] theorem exec_decodeTrap (cause : Cause) (taddr : Word) (s : State) :
    exec (.decodeTrap cause taddr) s = execDecodeTrap cause taddr s := rfl
@[simp] theorem exec_trapEntry (cause : Cause) (tpc : Word) (taddr : Word) (s : State) :
    exec (.trapEntry cause tpc taddr) s = execTrapEntry cause tpc taddr s := rfl
@[simp] theorem exec_upcallEntry (cause : Cause) (upc : Word) (uarg : Word) (s : State) :
    exec (.upcallEntry cause upc uarg) s = execUpcallEntry cause upc uarg s := rfl
@[simp] theorem exec_noticeDelivery (core : Nat) (ctx : Nat) (s : State) :
    exec (.noticeDelivery core ctx) s = execNoticeDelivery core ctx s := rfl
@[simp] theorem exec_noticeArrival (idx : Nat) (s : State) :
    exec (.noticeArrival idx) s = execNoticeArrival idx s := rfl
@[simp] theorem exec_noticeRetry (idx : Nat) (s : State) :
    exec (.noticeRetry idx) s = execNoticeRetry idx s := rfl
@[simp] theorem exec_landingDelivery (idx : Nat) (s : State) :
    exec (.landingDelivery idx) s = execLandingDelivery idx s := rfl
@[simp] theorem exec_landingRetry (idx : Nat) (s : State) :
    exec (.landingRetry idx) s = execLandingRetry idx s := rfl
@[simp] theorem exec_landingBounce (idx : Nat) (s : State) :
    exec (.landingBounce idx) s = execLandingBounce idx s := rfl
@[simp] theorem exec_sfuResult (core : Nat) (s : State) :
    exec (.sfuResult core) s = execSfuResult core s := rfl
@[simp] theorem exec_accessAccept (idx : Nat) (ans : HostAns) (s : State) :
    exec (.accessAccept idx ans) s = execAccessAccept idx ans s := rfl
@[simp] theorem exec_loadDataReturn (idx : Nat) (s : State) :
    exec (.loadDataReturn idx) s = execLoadDataReturn idx s := rfl
@[simp] theorem exec_accessPerform (idx : Nat) (s : State) :
    exec (.accessPerform idx) s = execAccessPerform idx s := rfl
@[simp] theorem exec_retryListWalk (word : Nat) (s : State) :
    exec (.retryListWalk word) s = execRetryListWalk word s := rfl
@[simp] theorem exec_requestRetry (idx : Nat) (s : State) :
    exec (.requestRetry idx) s = execRequestRetry idx s := rfl
@[simp] theorem exec_accessFailAtHome (idx : Nat) (s : State) :
    exec (.accessFailAtHome idx) s = execAccessFailAtHome idx s := rfl
@[simp] theorem exec_smfrzDrain (core : Nat) (ctx : Nat) (s : State) :
    exec (.smfrzDrain core ctx) s = execSmfrzDrain core ctx s := rfl
@[simp] theorem exec_flagfWrite (idx : Nat) (ans : HostAns) (s : State) :
    exec (.flagfWrite idx ans) s = execFlagfWrite idx ans s := rfl
@[simp] theorem exec_vectorChunk (core : Nat) (s : State) :
    exec (.vectorChunk core) s = execVectorChunk core s := rfl
@[simp] theorem exec_matrixStep (core : Nat) (s : State) :
    exec (.matrixStep core) s = execMatrixStep core s := rfl
@[simp] theorem exec_matrixGlobalRead (core : Nat) (ans : HostAns) (s : State) :
    exec (.matrixGlobalRead core ans) s = execMatrixGlobalRead core ans s := rfl
@[simp] theorem exec_engineOpComplete (thread : Nat) (op : Nat) (s : State) :
    exec (.engineOpComplete thread op) s = execEngineOpComplete thread op s := rfl
@[simp] theorem exec_engineAccess (thread : Nat) (op : Nat) (ans : HostAns) (s : State) :
    exec (.engineAccess thread op ans) s = execEngineAccess thread op ans s := rfl
@[simp] theorem exec_collMatch (tag : Word) (order : List Nat × List (Nat × List (Byte × Bool))) (s : State) :
    exec (.collMatch tag order) s = execCollMatch tag order s := rfl
@[simp] theorem exec_tlnoteLand (thread : Nat) (op : Nat) (s : State) :
    exec (.tlnoteLand thread op) s = execTlnoteLand thread op s := rfl
@[simp] theorem exec_preemptRequest (core : Nat) (why : HaltWhy) (s : State) :
    exec (.preemptRequest core why) s = execPreemptRequest core why s := rfl
@[simp] theorem exec_timeSliceExpiry (core : Nat) (s : State) :
    exec (.timeSliceExpiry core) s = execTimeSliceExpiry core s := rfl
@[simp] theorem exec_spinDeschedule (core : Nat) (s : State) :
    exec (.spinDeschedule core) s = execSpinDeschedule core s := rfl
@[simp] theorem exec_unitHalt (core : Nat) (s : State) :
    exec (.unitHalt core) s = execUnitHalt core s := rfl
@[simp] theorem exec_unitSave (core : Nat) (s : State) :
    exec (.unitSave core) s = execUnitSave core s := rfl
@[simp] theorem exec_saveComplete (core : Nat) (s : State) :
    exec (.saveComplete core) s = execSaveComplete core s := rfl
@[simp] theorem exec_restoreBegin (core : Nat) (thread : Nat) (s : State) :
    exec (.restoreBegin core thread) s = execRestoreBegin core thread s := rfl
@[simp] theorem exec_restoreComplete (core : Nat) (s : State) :
    exec (.restoreComplete core) s = execRestoreComplete core s := rfl
@[simp] theorem exec_unitDiscard (core : Nat) (s : State) :
    exec (.unitDiscard core) s = execUnitDiscard core s := rfl
@[simp] theorem exec_dispatchSelect (core : Nat) (s : State) :
    exec (.dispatchSelect core) s = execDispatchSelect core s := rfl
@[simp] theorem exec_unitBind (core : Nat) (thread : Nat) (s : State) :
    exec (.unitBind core thread) s = execUnitBind core thread s := rfl
@[simp] theorem exec_recordPlacement (r : Nat) (s : State) :
    exec (.recordPlacement r) s = execRecordPlacement r s := rfl
@[simp] theorem exec_groupBind (r : Nat) (cores : List Nat) (threads : List Nat) (s : State) :
    exec (.groupBind r cores threads) s = execGroupBind r cores threads s := rfl
@[simp] theorem exec_groupReserve (r : Nat) (cores : List Nat) (s : State) :
    exec (.groupReserve r cores) s = execGroupReserve r cores s := rfl
@[simp] theorem exec_recordAgeing (r : Nat) (s : State) :
    exec (.recordAgeing r) s = execRecordAgeing r s := rfl
@[simp] theorem exec_recordEligible (r : Nat) (s : State) :
    exec (.recordEligible r) s = execRecordEligible r s := rfl
@[simp] theorem exec_admitLaunchRecord (part : Nat) (ring : Nat × HostAns) (s : State) :
    exec (.admitLaunchRecord part ring) s = execAdmitLaunchRecord part ring s := rfl
@[simp] theorem exec_recordFrameRetry (core : Nat) (ctx : Nat) (s : State) :
    exec (.recordFrameRetry core ctx) s = execRecordFrameRetry core ctx s := rfl
@[simp] theorem exec_unitEndRelease (thread : Nat) (s : State) :
    exec (.unitEndRelease thread) s = execUnitEndRelease thread s := rfl
@[simp] theorem exec_jobCompletion (job : Nat × HostAns) (s : State) :
    exec (.jobCompletion job) s = execJobCompletion job s := rfl
@[simp] theorem exec_coreClockGate (core : Nat) (s : State) :
    exec (.coreClockGate core) s = execCoreClockGate core s := rfl
@[simp] theorem exec_islandWake (core : Nat) (s : State) :
    exec (.islandWake core) s = execIslandWake core s := rfl
@[simp] theorem exec_gbarComplete (launch : Nat) (s : State) :
    exec (.gbarComplete launch) s = execGbarComplete launch s := rfl
@[simp] theorem exec_gangRollback (launch : Nat) (s : State) :
    exec (.gangRollback launch) s = execGangRollback launch s := rfl
@[simp] theorem exec_monitorFire (idx : Nat) (s : State) :
    exec (.monitorFire idx) s = execMonitorFire idx s := rfl
@[simp] theorem exec_invalidationComplete (thread : Nat) (ctx : Nat) (s : State) :
    exec (.invalidationComplete thread ctx) s = execInvalidationComplete thread ctx s := rfl
@[simp] theorem exec_victimEvict (part : Nat) (frame : Nat) (s : State) :
    exec (.victimEvict part frame) s = execVictimEvict part frame s := rfl
@[simp] theorem exec_victimRecall (part : Nat) (s : State) :
    exec (.victimRecall part) s = execVictimRecall part s := rfl
@[simp] theorem exec_stageInstall (part : Nat) (s : State) :
    exec (.stageInstall part) s = execStageInstall part s := rfl
@[simp] theorem exec_stageUninstall (part : Nat) (s : State) :
    exec (.stageUninstall part) s = execStageUninstall part s := rfl
@[simp] theorem exec_instanceStart (asid : Nat) (stage : Nat) (inst : Nat) (thread : Nat) (s : State) :
    exec (.instanceStart asid stage inst thread) s = execInstanceStart asid stage inst thread s := rfl
@[simp] theorem exec_governorSample (asid : Nat) (stage : Nat) (s : State) :
    exec (.governorSample asid stage) s = execGovernorSample asid stage s := rfl
@[simp] theorem exec_splitRoutineEntry (asid : Nat) (stage : Nat) (inst : Nat) (s : State) :
    exec (.splitRoutineEntry asid stage inst) s = execSplitRoutineEntry asid stage inst s := rfl
@[simp] theorem exec_twinStart (asid : Nat) (stage : Nat) (inst : Nat) (thread : Nat × HostAns) (s : State) :
    exec (.twinStart asid stage inst thread) s = execTwinStart asid stage inst thread s := rfl
@[simp] theorem exec_brimMove (asid : Nat) (stage : Nat) (inst : Nat) (lane : Nat) (s : State) :
    exec (.brimMove asid stage inst lane) s = execBrimMove asid stage inst lane s := rfl
@[simp] theorem exec_recordDelivery (asid : Nat) (stage : Nat) (inst : Nat) (s : State) :
    exec (.recordDelivery asid stage inst) s = execRecordDelivery asid stage inst s := rfl
@[simp] theorem exec_twinQuiesce (asid : Nat) (stage : Nat) (inst : Nat × HostAns) (s : State) :
    exec (.twinQuiesce asid stage inst) s = execTwinQuiesce asid stage inst s := rfl
@[simp] theorem exec_mergeRoutineEntry (asid : Nat) (stage : Nat) (inst : Nat) (s : State) :
    exec (.mergeRoutineEntry asid stage inst) s = execMergeRoutineEntry asid stage inst s := rfl
@[simp] theorem exec_stageStop (asid : Nat) (stage : Nat) (s : State) :
    exec (.stageStop asid stage) s = execStageStop asid stage s := rfl
@[simp] theorem exec_gauntletRequest (idx : Nat) (s : State) :
    exec (.gauntletRequest idx) s = execGauntletRequest idx s := rfl
@[simp] theorem exec_responseReceived (idx : Nat) (s : State) :
    exec (.responseReceived idx) s = execResponseReceived idx s := rfl
@[simp] theorem exec_functionLevelReset (part : Nat) (s : State) :
    exec (.functionLevelReset part) s = execFunctionLevelReset part s := rfl
@[simp] theorem exec_logEntryWrite (part : Nat) (s : State) :
    exec (.logEntryWrite part) s = execLogEntryWrite part s := rfl
@[simp] theorem exec_packetReceive (port : Nat) (p : Packet) (q : FlitFate × Nat) (s : State) :
    exec (.packetReceive port p q) s = execPacketReceive port p q s := rfl
@[simp] theorem exec_linkReplay (port : Nat) (s : State) :
    exec (.linkReplay port) s = execLinkReplay port s := rfl
@[simp] theorem exec_linkDown (port : Nat) (s : State) :
    exec (.linkDown port) s = execLinkDown port s := rfl
@[simp] theorem exec_routeChange (gw : Nat) (peer : Nat) (v : Bool) (port : Nat) (s : State) :
    exec (.routeChange gw peer v port) s = execRouteChange gw peer v port s := rfl
@[simp] theorem exec_peerFailed (peer : Nat) (s : State) :
    exec (.peerFailed peer) s = execPeerFailed peer s := rfl
@[simp] theorem exec_hostMemRead (addr : HostPlace) (len : Nat) (s : State) :
    exec (.hostMemRead addr len) s = execHostMemRead addr len s := rfl
@[simp] theorem exec_hostMemWrite (addr : Nat) (bytes : List Byte) (poison : Bool) (s : State) :
    exec (.hostMemWrite addr bytes poison) s = execHostMemWrite addr bytes poison s := rfl
@[simp] theorem exec_hostLockedRmw (addr : Nat) (op : AOp) (v : Word) (s : State) :
    exec (.hostLockedRmw addr op v) s = execHostLockedRmw addr op v s := rfl
@[simp] theorem exec_hostSnoop (line : Nat × HostAct) (s : State) :
    exec (.hostSnoop line) s = execHostSnoop line s := rfl
@[simp] theorem exec_aliasDataWrite (off : Nat) (v : Word) (s : State) :
    exec (.aliasDataWrite off v) s = execAliasDataWrite off v s := rfl
@[simp] theorem exec_aliasFullEmptyWrite (off : Nat) (v : Word) (s : State) :
    exec (.aliasFullEmptyWrite off v) s = execAliasFullEmptyWrite off v s := rfl
@[simp] theorem exec_notifyProdWrite (part : Nat) (ring : Nat) (v : BitVec 32) (s : State) :
    exec (.notifyProdWrite part ring v) s = execNotifyProdWrite part ring v s := rfl
@[simp] theorem exec_notifyErrClear (part : Nat) (ring : Nat) (s : State) :
    exec (.notifyErrClear part ring) s = execNotifyErrClear part ring s := rfl
@[simp] theorem exec_notifyReprioritise (part : Nat) (ring : Nat) (v : Word) (s : State) :
    exec (.notifyReprioritise part ring v) s = execNotifyReprioritise part ring v s := rfl
@[simp] theorem exec_windowEnable (part : Nat) (w : Nat) (s : State) :
    exec (.windowEnable part w) s = execWindowEnable part w s := rfl
@[simp] theorem exec_windowDisable (part : Nat) (w : Nat) (s : State) :
    exec (.windowDisable part w) s = execWindowDisable part w s := rfl
@[simp] theorem exec_poisonReportClear (part : Nat) (s : State) :
    exec (.poisonReportClear part) s = execPoisonReportClear part s := rfl
@[simp] theorem exec_bootstCommit (s : State) :
    exec (.bootstCommit) s = execBootstCommit s := rfl
@[simp] theorem exec_moduleCapWrite (v : Word) (s : State) :
    exec (.moduleCapWrite v) s = execModuleCapWrite v s := rfl
@[simp] theorem exec_registerWrite (wr : Writer) (r : RegName) (v : Word) (s : State) :
    exec (.registerWrite wr r v) s = execRegisterWrite wr r v s := rfl
@[simp] theorem exec_powerOnReset (s : State) :
    exec (.powerOnReset) s = execPowerOnReset s := rfl
@[simp] theorem exec_bootStep (inp : BootIn) (s : State) :
    exec (.bootStep inp) s = execBootStep inp s := rfl
@[simp] theorem exec_treleveberRestart (digest : BootIn) (s : State) :
    exec (.treleveberRestart digest) s = execTreleveberRestart digest s := rfl
@[simp] theorem exec_spdmRequest (r : SpdmReq) (s : State) :
    exec (.spdmRequest r) s = execSpdmRequest r s := rfl
@[simp] theorem exec_dvfsChange (island : Nat) (p : OpPoint) (s : State) :
    exec (.dvfsChange island p) s = execDvfsChange island p s := rfl
@[simp] theorem exec_powerCapRegulate (draw : Nat × List (Nat × Nat)) (s : State) :
    exec (.powerCapRegulate draw) s = execPowerCapRegulate draw s := rfl
@[simp] theorem exec_softError (loc : ErrLoc) (v : Word) (s : State) :
    exec (.softError loc v) s = execSoftError loc v s := rfl
@[simp] theorem exec_deviceErrorReport (line : Nat) (s : State) :
    exec (.deviceErrorReport line) s = execDeviceErrorReport line s := rfl
@[simp] theorem exec_peerSetPresent (peer : Nat) (s : State) :
    exec (.peerSetPresent peer) s = execPeerSetPresent peer s := rfl
@[simp] theorem exec_carveOutChange (steps : Nat) (s : State) :
    exec (.carveOutChange steps) s = execCarveOutChange steps s := rfl
@[simp] theorem exec_islandPowerGating (island : Nat) (off : Bool) (s : State) :
    exec (.islandPowerGating island off) s = execIslandPowerGating island off s := rfl
@[simp] theorem exec_policyFirmwareLoad (digest : Nat) (s : State) :
    exec (.policyFirmwareLoad digest) s = execPolicyFirmwareLoad digest s := rfl
@[simp] theorem exec_slotWrite (c : Nat) (gen : Nat) (v : Slot) (s : State) :
    exec (.slotWrite c gen v) s = execSlotWrite c gen v s := rfl
@[simp] theorem exec_clusterRemap (m : List (Nat × Nat)) (s : State) :
    exec (.clusterRemap m) s = execClusterRemap m s := rfl
@[simp] theorem exec_tltEntryLost (t : Nat) (s : State) :
    exec (.tltEntryLost t) s = execTltEntryLost t s := rfl
@[simp] theorem exec_priResponse (part : Nat) (asid : Nat) (va : Word) (ans : PriAns) (s : State) :
    exec (.priResponse part asid va ans) s = execPriResponse part asid va ans s := rfl
@[simp] theorem exec_atsInvalidation (part : Nat) (asid : Nat) (va : Word) (len : Word) (s : State) :
    exec (.atsInvalidation part asid va len) s = execAtsInvalidation part asid va len s := rfl
@[simp] theorem exec_l2Fill (asid : Nat) (va : Word) (noise : List (Nat × Byte)) (s : State) :
    exec (.l2Fill asid va noise) s = execL2Fill asid va noise s := rfl
@[simp] theorem exec_l2Writeback (asid : Nat) (va : Word) (noise : List (Nat × Byte)) (s : State) :
    exec (.l2Writeback asid va noise) s = execL2Writeback asid va noise s := rfl
@[simp] theorem exec_l2ModeChange (priv : Bool) (s : State) :
    exec (.l2ModeChange priv) s = execL2ModeChange priv s := rfl
@[simp] theorem exec_viewLineAssemble (w : Nat) (n : Nat) (s : State) :
    exec (.viewLineAssemble w n) s = execViewLineAssemble w n s := rfl
@[simp] theorem exec_viewLineEvict (w : Nat) (n : Nat) (s : State) :
    exec (.viewLineEvict w n) s = execViewLineEvict w n s := rfl
@[simp] theorem exec_victimMigrate (token : Nat) (frame : Nat) (s : State) :
    exec (.victimMigrate token frame) s = execVictimMigrate token frame s := rfl

end Sys2Proof.Machine
end

