-- ==== Sys2Proof/Laws/Frames.lean ====
section
/-!
SUPPORT. Which fields of the state the shared operations can change: completing a timeline operation, answering another
chip, writing or rejecting a landing, draining the landings a core holds, counting a performance event, entering a trap.
-/
namespace Sys2Proof.Machine

/-! ## Timelines, responses, landings -/

/-- What the end of an operation with status ok changes. -/
theorem State.opEnd_frame (s : State) (t tl no : Nat) (a : Word) (k : Nat) :
    ∃ th, s.opEnd t tl no 0 a k = { s with threads := th } := by
  unfold State.opEnd
  dsimp only
  split
  · exact ⟨s.threads, rfl⟩
  · simp only [bne_self_eq_false, Bool.false_and, Bool.and_false, Bool.false_eq_true, if_false]
    exact ⟨_, rfl⟩

theorem State.opDone_frame (s : State) (t tl no : Nat) (a : Word) (k : Nat) :
    ∃ th, s.opDone t tl no 0 a k = { s with threads := th } := by
  unfold State.opDone
  split
  · exact ⟨s.threads, rfl⟩
  · exact s.opEnd_frame t tl no a k

theorem State.landEnds_frame (s : State) (l : Landing) (a : Word) : ∃ th, s.landEnds l 0 a = { s with threads := th } := by
  unfold State.landEnds
  split
  · split
    · exact s.opDone_frame _ _ _ _ _
    · exact ⟨s.threads, rfl⟩
  · exact ⟨s.threads, rfl⟩

theorem State.sendPacket_frame (s : State) (p : Nat) (q : Packet) :
    ∃ ps lh, s.sendPacket p q = { s with ports := ps, linkHeld := lh } := by
  unfold State.sendPacket State.routePacket
  split
  · exact ⟨s.ports, s.linkHeld, rfl⟩
  · split
    · exact ⟨s.ports, _, rfl⟩
    · exact ⟨_, s.linkHeld, rfl⟩

theorem State.landed_frame (s : State) (l : Landing) :
    ∃ th ps lh, s.landed l = { s with threads := th, ports := ps, linkHeld := lh } := by
  unfold State.landed
  split
  · obtain ⟨ps, lh, h⟩ := s.sendPacket_frame ((‹Asker›).src / 4096) _
    exact ⟨s.threads, ps, lh, h⟩
  · split
    · obtain ⟨th, h⟩ := s.landEnds_frame l 0
      exact ⟨th, s.ports, s.linkHeld, h⟩
    · exact ⟨s.threads, s.ports, s.linkHeld, rfl⟩

/-! ## Performance events -/

/-- A unit with other performance counters. -/
theorem UnitSt.pm_frame (u : UnitSt) (ev : Nat) (sup : Bool) : ∃ c n, u.pm ev sup = { u with pmctl := c, pmcnt := n } := by
  unfold UnitSt.pm
  generalize upto 4 = l
  have step : ∀ (b : Bool) (u : UnitSt) (v : BitVec 48) (w : Word) (k : Nat), ∃ c n,
      (if b then (if v == BitVec.allOnes 48 then
        { { u with pmcnt := u.pmcnt.set k (v + 1) } with pmctl := u.pmctl.set k w }
        else { u with pmcnt := u.pmcnt.set k (v + 1) }) else u) = { u with pmctl := c, pmcnt := n } := by
    intro b u v w k
    cases b
    · exact ⟨u.pmctl, u.pmcnt, rfl⟩
    · cases v == BitVec.allOnes 48
      · exact ⟨u.pmctl, _, rfl⟩
      · exact ⟨_, _, rfl⟩
  induction l generalizing u with
  | nil => exact ⟨u.pmctl, u.pmcnt, rfl⟩
  | cons k l ih =>
    rw [List.foldl_cons]
    obtain ⟨c, n, h⟩ := step _ u (u.pmcnt.get 0 k) _ k
    obtain ⟨c', n', h'⟩ := ih { u with pmctl := c, pmcnt := n }
    exact ⟨c', n', (congrArg (fun x => List.foldl _ x l) h).trans h'⟩

theorem State.pm_frame (s : State) (t ev : Nat) (sup : Bool) :
    s.pm t ev sup = s ∨ ∃ c n, s.pm t ev sup = s.setUnit t { s.unitAt t with pmctl := c, pmcnt := n } := by
  unfold State.pm
  split
  · exact .inl rfl
  · obtain ⟨c, n, h⟩ := (s.unitAt t).pm_frame ev sup
    exact .inr ⟨c, n, congrArg (s.setUnit t) h⟩

/-- What counting an event leaves: every field but the units, and in the units everything but the counters. -/
theorem State.pm_units (s : State) (t ev : Nat) (sup : Bool) :
    ∃ us, s.pm t ev sup = { s with units := us } ∧
      (∀ j, j ≠ t → ({ s with units := us } : State).unitAt j = s.unitAt j) ∧
      ∃ c n, ({ s with units := us } : State).unitAt t = { s.unitAt t with pmctl := c, pmcnt := n } := by
  rcases s.pm_frame t ev sup with h | ⟨c, n, h⟩
  · exact ⟨s.units, h, fun _ _ => rfl, (s.unitAt t).pmctl, (s.unitAt t).pmcnt, rfl⟩
  · have e (j : Nat) : (s.setUnit t { s.unitAt t with pmctl := c, pmcnt := n }).unitAt j =
        if j = t then { s.unitAt t with pmctl := c, pmcnt := n } else s.unitAt j := s.unitAt_setUnit t j _
    exact ⟨_, h, fun j hj => (e j).trans (if_neg hj), c, n, (e t).trans (if_pos rfl)⟩

/-! ## Landings into the registers of a core's unit -/

/-- t is s after landings from L have met the registers of the unit of thread u on core k: registers that no landing of L
names keep their content, and nothing else of the machine has changed but waits that an arrival ends, performance
counters, the landing buffer of the core, timelines, ports and packets held for a changing route. -/
structure Met (k u : Nat) (L : List Landing) (s t : State) : Prop where
  frame : ∃ us cs th ps lh, t = { s with units := us, cores := cs, threads := th, ports := ps, linkHeld := lh }
  core : ∀ j, ∃ b, t.coreAt j = { s.coreAt j with lbuf := b }
  others : ∀ j, j ≠ k → t.coreAt j = s.coreAt j
  held : ∀ l ∈ (t.coreAt k).lbuf, l ∈ (s.coreAt k).lbuf ∨ l ∈ L
  units : ∀ j, j ≠ u → t.unitAt j = s.unitAt j
  unit : ∃ x c n, t.unitAt u = { s.unitAt u with ctxs := x, pmctl := c, pmcnt := n }
  ctx : ∀ c, ∃ g w, (t.unitAt u).ctxAt c = { (s.unitAt u).ctxAt c with g := g, wait := w }
  reg : ∀ c n, (∀ l ∈ L, ¬ (mraCtx l.mra = c ∧ mraReg l.mra = n)) →
    ((t.unitAt u).ctxAt c).reg n = ((s.unitAt u).ctxAt c).reg n

theorem Met.rfl' (k u : Nat) (L : List Landing) (s : State) : Met k u L s s where
  frame := ⟨_, _, _, _, _, rfl⟩
  core _ := ⟨_, rfl⟩
  others _ _ := rfl
  held _ h := .inl h
  units _ _ := rfl
  unit := ⟨_, _, _, rfl⟩
  ctx _ := ⟨_, _, rfl⟩
  reg _ _ _ := rfl

theorem Met.trans {k u : Nat} {L : List Landing} {s t r : State} (h : Met k u L s t) (h' : Met k u L t r) :
    Met k u L s r where
  frame := by
    obtain ⟨a, b, c, d, e, h1⟩ := h.frame
    obtain ⟨a', b', c', d', e', h2⟩ := h'.frame
    exact ⟨a', b', c', d', e', by rw [h2, h1]⟩
  core j := by
    obtain ⟨b, h1⟩ := h.core j
    obtain ⟨b', h2⟩ := h'.core j
    exact ⟨b', by rw [h2, h1]⟩
  others j hj := (h'.others j hj).trans (h.others j hj)
  held l hl := by
    rcases h'.held l hl with h1 | h1
    · exact h.held l h1
    · exact .inr h1
  units j hj := (h'.units j hj).trans (h.units j hj)
  unit := by
    obtain ⟨a, b, c, h1⟩ := h.unit
    obtain ⟨a', b', c', h2⟩ := h'.unit
    exact ⟨a', b', c', by rw [h2, h1]⟩
  ctx c := by
    obtain ⟨a, b, h1⟩ := h.ctx c
    obtain ⟨a', b', h2⟩ := h'.ctx c
    exact ⟨a', b', by rw [h2, h1]⟩
  reg c n hn := (h'.reg c n hn).trans (h.reg c n hn)

/-- A register other than the one a landing names keeps its content. -/
theorem Ctx.land_reg {c c' : Ctx} {n m : Nat} {v : Val} (h : c.land n v = some c') (hm : m ≠ n) : c'.reg m = c.reg m := by
  unfold Ctx.land at h
  split at h
  · cases h
  · split at h
    · cases h
      unfold Ctx.setReg
      split
      · rfl
      · show (if m = 0 then _ else _) = if m = 0 then _ else _
        split
        · rfl
        · exact Tab.get_set_other _ _ _ _ _ hm
    · cases h

theorem Ctx.land_frame {c c' : Ctx} {n : Nat} {v : Val} (h : c.land n v = some c') : ∃ g, c' = { c with g := g } := by
  unfold Ctx.land at h
  split at h
  · cases h
  · split at h
    · cases h
      unfold Ctx.setReg
      split
      · exact ⟨c.g, rfl⟩
      · exact ⟨_, rfl⟩
    · cases h

theorem Ctx.wake_frame (c : Ctx) : ∃ w, c.wake = { c with wait := w } := by
  unfold Ctx.wake
  split
  · exact ⟨_, rfl⟩
  · exact ⟨c.wait, rfl⟩

/-- Everything that offering a landing to a core can change. -/
theorem State.offer_met (s : State) (k : Nat) (l : Landing) :
    Met k (s.coreAt k).thread [l] s (s.offer k l) := by
  unfold State.offer
  dsimp only
  split
  · next c' hc =>
    split at hc
    · cases hc
    · obtain ⟨g, hg⟩ := Ctx.land_frame hc
      obtain ⟨w, hw⟩ := c'.wake_frame
      generalize hs1 : s.setUnit (s.coreAt k).thread ((s.unitAt (s.coreAt k).thread).setCtx (mraCtx l.mra) c'.wake) = s1
      obtain ⟨us, h2, h3', a, b, h3⟩ := s1.pm_units (s.coreAt k).thread 4 ((s.unitAt (s.coreAt k).thread).ctxAt (mraCtx l.mra)).priv
      generalize s1.pm _ _ _ = s2 at h2 ⊢
      obtain ⟨th, ps, lh, h4⟩ := s2.landed_frame l
      generalize s2.landed l = t at h4 ⊢
      have hu : ∀ j, t.unitAt j = s2.unitAt j := by intro j; rw [h4]; rfl
      have hu1 : ∀ j, s1.unitAt j = if j = (s.coreAt k).thread then
          (s.unitAt (s.coreAt k).thread).setCtx (mraCtx l.mra) c'.wake else s.unitAt j := by
        intro j; rw [← hs1]; exact s.unitAt_setUnit _ j _
      have hcore : ∀ j, t.coreAt j = s.coreAt j := by
        intro j; rw [h4, h2, ← hs1]; rfl
      have hcx : ∀ c, (t.unitAt (s.coreAt k).thread).ctxAt c = if c = mraCtx l.mra then c'.wake else
          (s.unitAt (s.coreAt k).thread).ctxAt c := by
        intro c
        rw [hu, h2, h3, hu1, if_pos rfl]
        exact UnitSt.ctxAt_setCtx _ _ _ _
      constructor
      · exact ⟨us, s.cores, th, ps, lh, by rw [h4, h2, ← hs1]; rfl⟩
      · intro j; exact ⟨(s.coreAt j).lbuf, hcore j⟩
      · intro j _; exact hcore j
      · intro x hx; rw [hcore] at hx; exact .inl hx
      · intro j hj
        rw [hu, h2, h3' j hj, hu1, if_neg hj]
      · refine ⟨((s.unitAt (s.coreAt k).thread).setCtx (mraCtx l.mra) c'.wake).ctxs, a, b, ?_⟩
        rw [hu, h2, h3, hu1, if_pos rfl]
        rfl
      · intro c
        rw [hcx]
        split
        · next hcm => subst hcm; exact ⟨g, w, by rw [hw, hg]⟩
        · exact ⟨_, _, rfl⟩
      · intro c n hn
        rw [hcx]
        split
        · next hcm =>
          subst hcm
          have hne : n ≠ mraReg l.mra := fun h => hn l (by simp) ⟨rfl, h.symm⟩
          rw [hw]
          exact (show _ = c'.reg n from rfl).trans (Ctx.land_reg hc hne)
        · rfl
  · refine ⟨⟨s.units, _, s.threads, s.ports, s.linkHeld, rfl⟩, ?_, ?_, ?_, fun _ _ => rfl, ⟨_, _, _, rfl⟩, fun _ => ⟨_, _, rfl⟩, fun _ _ _ => rfl⟩
    · intro j
      have := s.coreAt_setCore k j { s.coreAt k with lbuf := (s.coreAt k).lbuf ++ [l] }
      by_cases hj : j = k
      · subst hj; exact ⟨_, this.trans (if_pos rfl)⟩
      · exact ⟨(s.coreAt j).lbuf, this.trans (if_neg hj)⟩
    · intro j hj
      exact (s.coreAt_setCore k j _).trans (if_neg hj)
    · intro x hx
      rw [s.coreAt_setCore k k _, if_pos rfl] at hx
      simpa using hx

theorem Met.mono {k u : Nat} {L M : List Landing} {s t : State} (h : Met k u L s t) (hm : ∀ l ∈ L, l ∈ M) :
    Met k u M s t :=
  { h with
    held := fun l hl => (h.held l hl).imp id (hm l)
    reg := fun c n hn => h.reg c n fun l hl => hn l (hm l hl) }

theorem State.offerAll_met (k u : Nat) (L : List Landing) (s : State) (hu : (s.coreAt k).thread = u) :
    Met k u L s (L.foldl (·.offer k) s) := by
  induction L generalizing s with
  | nil => exact Met.rfl' k u [] s
  | cons l L ih =>
    have h1 := s.offer_met k l
    rw [hu] at h1
    have hu' : ((s.offer k l).coreAt k).thread = u := by
      obtain ⟨b, h⟩ := h1.core k
      rw [h]
      exact hu
    exact (h1.mono (by simp)).trans ((ih (s.offer k l) hu').mono fun x hx => List.mem_cons_of_mem _ hx)

/-- Everything that meeting the landings a core holds can change. -/
theorem State.drain_met (s : State) (k : Nat) :
    Met k (s.coreAt k).thread (s.coreAt k).lbuf s (s.drain k) := by
  unfold State.drain
  dsimp only
  split
  · exact Met.rfl' _ _ _ s
  · generalize hs1 : s.setCore k { s.coreAt k with lbuf := [] } = s1
    have hc : ∀ j, s1.coreAt j = if j = k then { s.coreAt k with lbuf := [] } else s.coreAt j := by
      intro j; rw [← hs1]; exact s.coreAt_setCore k j _
    have h := State.offerAll_met k (s.coreAt k).thread (s.coreAt k).lbuf s1 (by rw [hc, if_pos rfl])
    refine Met.trans ?_ h
    refine ⟨⟨s.units, s1.cores, s.threads, s.ports, s.linkHeld, by rw [← hs1]; rfl⟩, ?_, ?_, ?_, ?_, ?_, ?_, ?_⟩
    · intro j
      by_cases hj : j = k
      · subst hj; exact ⟨[], by rw [hc, if_pos rfl]⟩
      · exact ⟨(s.coreAt j).lbuf, by rw [hc, if_neg hj]⟩
    · intro j hj; rw [hc, if_neg hj]
    · intro x hx; rw [hc, if_pos rfl] at hx; cases hx
    · intro j _; rw [← hs1]; rfl
    · exact ⟨_, _, _, by rw [← hs1]; rfl⟩
    · intro c; exact ⟨_, _, by rw [← hs1]; rfl⟩
    · intro c n _; rw [← hs1]; rfl

/-! ## What the acting context does to itself -/

/-- t is s with changes to the acting context, its unit's counters and LFSR, and receive buffers alone; no landing has been
looked at. -/
structure Own (s t : State) (regs : Nat → Prop) (xs : Nat → Prop) (links : Nat → Nat → Prop) : Prop where
  rest : ∃ us cs, t = { s with units := us, cores := cs }
  cores : ∀ k, ∃ l, t.coreAt k = { s.coreAt k with links := l }
  buffers : ∀ k d, ¬ links k d → t.linkBuf k d = s.linkBuf k d
  units : ∀ j, j ≠ s.th → t.unitAt j = s.unitAt j
  unit : ∃ xs c n l, t.unitAt s.th = { s.un with ctxs := xs, pmctl := c, pmcnt := n, lfsr := l }
  contexts : ∀ c, c ≠ s.ctx → (t.unitAt s.th).ctxAt c = s.un.ctxAt c
  context : ∃ pc g x w a, (t.unitAt s.th).ctxAt s.ctx = { s.cx with pc := pc, g := g, x := x, wait := w, assay := a }
  shadow : ∀ k, ¬ xs k → ((t.unitAt s.th).ctxAt s.ctx).xreg k = s.cx.xreg k
  general : ∀ n, ¬ regs n → ((t.unitAt s.th).ctxAt s.ctx).reg n = s.cx.reg n

section own
variable {s t r : State} {regs : Nat → Prop} {xs : Nat → Prop} {links : Nat → Nat → Prop}

theorem Own.rfl' : Own s s regs xs links where
  rest := ⟨_, _, rfl⟩
  cores _ := ⟨_, rfl⟩
  buffers _ _ _ := rfl
  units _ _ := rfl
  unit := ⟨_, _, _, _, rfl⟩
  contexts _ _ := rfl
  context := ⟨_, _, _, _, _, rfl⟩
  shadow _ _ := rfl
  general _ _ := rfl

theorem Own.ctx_eq (h : Own s t regs xs links) : t.ctx = s.ctx := by
  obtain ⟨us, cs, e⟩ := h.rest; rw [e]

theorem Own.core_eq (h : Own s t regs xs links) : t.core = s.core := by
  obtain ⟨us, cs, e⟩ := h.rest; rw [e]

theorem Own.th_eq (h : Own s t regs xs links) : t.th = s.th := by
  obtain ⟨l, e⟩ := h.cores s.core
  show (t.coreAt t.core).thread = (s.coreAt s.core).thread
  rw [h.core_eq, e]

theorem Own.un_eq (h : Own s t regs xs links) : t.un = t.unitAt s.th := by
  show t.unitAt t.th = _
  rw [h.th_eq]

theorem Own.cx_eq (h : Own s t regs xs links) : t.cx = (t.unitAt s.th).ctxAt s.ctx := by
  show t.un.ctxAt t.ctx = _
  rw [h.un_eq, h.ctx_eq]

theorem Own.trans (h : Own s t regs xs links) (h' : Own t r regs xs links) : Own s r regs xs links where
  rest := by
    obtain ⟨a, b, e⟩ := h.rest
    obtain ⟨a', b', e'⟩ := h'.rest
    exact ⟨a', b', by rw [e', e]⟩
  cores k := by
    obtain ⟨a, e⟩ := h.cores k
    obtain ⟨a', e'⟩ := h'.cores k
    exact ⟨a', by rw [e', e]⟩
  buffers k d hd := (h'.buffers k d hd).trans (h.buffers k d hd)
  units j hj := (h'.units j (by rw [h.th_eq]; exact hj)).trans (h.units j hj)
  unit := by
    obtain ⟨a, b, c, d, e⟩ := h.unit
    obtain ⟨a', b', c', d', e'⟩ := h'.unit
    rw [h.th_eq, h.un_eq] at e'
    exact ⟨a', b', c', d', by rw [e', e]⟩
  contexts c hc := by
    have := h'.contexts c (by rw [h.ctx_eq]; exact hc)
    rw [h.th_eq, h.un_eq] at this
    exact this.trans (h.contexts c hc)
  context := by
    obtain ⟨a, b, c, d, f, e⟩ := h.context
    obtain ⟨a', b', c', d', f', e'⟩ := h'.context
    rw [h.th_eq, h.ctx_eq, h.cx_eq] at e'
    exact ⟨a', b', c', d', f', by rw [e', e]⟩
  shadow k hk := by
    have := h'.shadow k hk
    rw [h.th_eq, h.ctx_eq, h.cx_eq] at this
    exact this.trans (h.shadow k hk)
  general n hn := by
    have := h'.general n hn
    rw [h.th_eq, h.ctx_eq, h.cx_eq] at this
    exact this.trans (h.general n hn)

/-- A context of the acting unit that has changed only in what Own allows. -/
theorem Own.setCx {c : Ctx} (hc : ∃ pc g x w a, c = { s.cx with pc := pc, g := g, x := x, wait := w, assay := a })
    (hx : ∀ k, ¬ xs k → c.xreg k = s.cx.xreg k) (hg : ∀ n, ¬ regs n → c.reg n = s.cx.reg n) :
    Own s (s.setCx c) regs xs links := by
  have hu : ∀ j, (s.setCx c).unitAt j = if j = s.th then s.un.setCtx s.ctx c else s.unitAt j :=
    fun j => s.unitAt_setUnit _ j _
  have hq : ∀ c', ((s.setCx c).unitAt s.th).ctxAt c' = if c' = s.ctx then c else s.un.ctxAt c' := by
    intro c'
    rw [hu, if_pos rfl]
    exact UnitSt.ctxAt_setCtx _ _ _ _
  refine ⟨⟨_, s.cores, rfl⟩, fun k => ⟨_, rfl⟩, fun _ _ _ => rfl, ?_, ?_, ?_, ?_, ?_, ?_⟩
  · intro j hj; rw [hu, if_neg hj]
  · exact ⟨_, _, _, _, by rw [hu, if_pos rfl]; rfl⟩
  · intro c' h; rw [hq, if_neg h]
  · rw [hq, if_pos rfl]; exact hc
  · intro k hk; rw [hq, if_pos rfl]; exact hx k hk
  · intro n hn; rw [hq, if_pos rfl]; exact hg n hn

theorem Ctx.reg_setReg_other (c : Ctx) (n m : Nat) (q : GReg) (h : m ≠ n) : (c.setReg n q).reg m = c.reg m := by
  unfold Ctx.setReg
  split
  · rfl
  · show (if m = 0 then _ else _) = if m = 0 then _ else _
    split
    · rfl
    · exact Tab.get_set_other _ _ _ _ _ h

theorem Own.setReg (n : Nat) (q : GReg) (h : regs n) : Own s (s.setCx (s.cx.setReg n q)) regs xs links := by
  refine Own.setCx ?_ ?_ ?_
  · unfold Ctx.setReg
    split
    · exact ⟨_, _, _, _, _, rfl⟩
    · exact ⟨s.cx.pc, _, s.cx.x, s.cx.wait, s.cx.assay, rfl⟩
  · intro k _
    unfold Ctx.setReg
    split <;> rfl
  · intro m hm
    exact Ctx.reg_setReg_other _ _ _ _ (fun e => hm (e ▸ h))

theorem Own.setLink (k e : Nat) (l : List Val) (h : links k e) : Own s (s.setLink k e l) regs xs links := by
  have hc : ∀ j, (s.setLink k e l).coreAt j =
      if j = k then { s.coreAt k with links := (s.coreAt k).links.set e l } else s.coreAt j := by
    intro j; exact s.coreAt_setCore k j _
  have hth : (s.setLink k e l).th = s.th := by
    show ((s.setLink k e l).coreAt s.core).thread = _
    rw [hc]
    split
    · next hk => rw [← hk]; rfl
    · rfl
  refine ⟨⟨s.units, _, rfl⟩, ?_, ?_, fun _ _ => rfl, ⟨_, _, _, _, rfl⟩, fun _ _ => rfl, ⟨_, _, _, _, _, rfl⟩, fun _ _ => rfl,
    fun _ _ => rfl⟩
  · intro j
    rw [hc]
    split
    · next hj => exact ⟨_, by rw [hj]⟩
    · exact ⟨_, rfl⟩
  · intro j d hd
    show ((s.setLink k e l).coreAt j).links.get [] d = (s.coreAt j).links.get [] d
    rw [hc]
    split
    · next hj => 
      subst hj
      exact Tab.get_set_other _ _ _ _ _ fun hde => hd (hde ▸ h)
    · rfl

theorem State.takeSrc_own (o : SrcOp) (hr : ∀ n : BitVec 5, o = (.g n, true) → regs n.toNat)
    (hl : ∀ d : BitVec 2, o.1 = .link d → links s.core d.toNat) : Own s (s.takeSrc o) regs xs links := by
  rcases o with ⟨o, b⟩
  cases o with
  | g n =>
    show Own s (if b then _ else s) regs xs links
    split
    · next hb => exact Own.setReg _ _ (hr n (by simpa using hb))
    · exact Own.rfl'
  | link d => exact Own.setLink _ _ _ (hl d rfl)
  | x k => exact Own.rfl'
  | imm => exact Own.rfl'
  | rsv k => exact Own.rfl'

theorem State.takeAll_own (l : List SrcOp) (hr : ∀ n : BitVec 5, (.g n, true) ∈ l → regs n.toNat)
    (hl : ∀ (d : BitVec 2) b, (.link d, b) ∈ l → links s.core d.toNat) : Own s (s.takeAll l) regs xs links := by
  unfold State.takeAll
  induction l generalizing s with
  | nil => exact Own.rfl'
  | cons o l ih =>
    have h1 : Own s (s.takeSrc o) regs xs links :=
      s.takeSrc_own o (fun n e => hr n (by rw [e]; exact List.mem_cons_self ..)) (fun d e => hl d o.2 (by rw [← e]; exact List.mem_cons_self ..))
    refine h1.trans (ih ?_ ?_)
    · intro n hn; exact hr n (List.mem_cons_of_mem _ hn)
    · intro d b hd; rw [h1.core_eq]; exact hl d b (List.mem_cons_of_mem _ hd)

theorem State.writeDst_own (v : Val) (d : Opd) (hr : ∀ n : BitVec 5, d = .g n → regs n.toNat)
    (hx : ∀ k : BitVec 3, d = .x k → xs k.toNat)
    (hl : ∀ (e : BitVec 2) k, d = .link e → neighbour s.core e.toNat = some k → links k ((e.toNat + 2) % 4)) :
    Own s (s.writeDst v d) regs xs links := by
  cases d with
  | g n => exact Own.setReg _ _ (hr n rfl)
  | x k =>
    refine Own.setCx ⟨s.cx.pc, s.cx.g, _, s.cx.wait, s.cx.assay, rfl⟩ ?_ (fun _ _ => rfl)
    intro j hj
    exact Tab.get_set_other _ _ _ _ _ fun e => hj (e ▸ hx k rfl)
  | link e =>
    unfold State.writeDst
    dsimp only
    split
    · next k hk => exact Own.setLink _ _ _ (hl e k rfl hk)
    · exact Own.rfl'
  | imm => exact Own.rfl'
  | rsv k => exact Own.rfl'

/-- Counting an event of the acting unit. -/
theorem State.pm_own (ev : Nat) (b : Bool) : Own s (s.pm s.th ev b) regs xs links := by
  obtain ⟨us, h1, h2, c, n, h3⟩ := s.pm_units s.th ev b
  generalize s.pm s.th ev b = t at h1
  subst h1
  have hq : ∀ c', ((({ s with units := us } : State)).unitAt s.th).ctxAt c' = s.un.ctxAt c' := by
    intro c'; rw [h3]; rfl
  exact ⟨⟨us, s.cores, rfl⟩, fun _ => ⟨_, rfl⟩, fun _ _ _ => rfl, h2, ⟨s.un.ctxs, c, n, s.un.lfsr, h3⟩, fun c' _ => hq c',
    ⟨_, _, _, _, _, hq s.ctx⟩, fun k _ => by rw [hq]; rfl, fun n _ => by rw [hq]; rfl⟩

theorem State.setLfsr_own (l : BitVec 32) : Own s (s.setLfsr l) regs xs links := by
  have hu : ∀ j, (s.setLfsr l).unitAt j = if j = s.th then { s.un with lfsr := l } else s.unitAt j :=
    fun j => s.unitAt_setUnit _ j _
  have hq : ∀ c', ((s.setLfsr l).unitAt s.th).ctxAt c' = s.un.ctxAt c' := by
    intro c'; rw [hu, if_pos rfl]; rfl
  exact ⟨⟨_, s.cores, rfl⟩, fun _ => ⟨_, rfl⟩, fun _ _ _ => rfl, fun j hj => by rw [hu, if_neg hj],
    ⟨s.un.ctxs, s.un.pmctl, s.un.pmcnt, l, by rw [hu, if_pos rfl]⟩, fun c' _ => hq c', ⟨_, _, _, _, _, hq s.ctx⟩,
    fun k _ => by rw [hq]; rfl, fun n _ => by rw [hq]; rfl⟩

theorem State.retireTo_own (p : Word) : Own s (s.retireTo p) regs xs links := by
  have h1 : Own s (s.setCx { s.cx with pc := p, wait := .no, assay := s.cx.assay.feed s.ir }) regs xs links :=
    Own.setCx ⟨_, _, _, _, _, rfl⟩ (fun _ _ => rfl) (fun _ _ => rfl)
  have h2 := (State.pm_own (s := s.setCx { s.cx with pc := p, wait := .no, assay := s.cx.assay.feed s.ir })
    (regs := regs) (xs := xs) (links := links) 1 s.cx.priv)
  rw [h1.th_eq] at h2
  exact h1.trans h2

/-- What the acting context has done to itself, and then the landings that its core held. -/
theorem Own.drained (h : Own s t regs xs links) : Kept s (t.drain s.core) regs xs links := by
  have hd := t.drain_met s.core
  generalize t.drain s.core = r at hd
  have hth : (t.coreAt s.core).thread = s.th := by
    obtain ⟨l, e⟩ := h.cores s.core
    rw [e]; rfl
  have hbuf : (t.coreAt s.core).lbuf = (s.coreAt s.core).lbuf := by
    obtain ⟨l, e⟩ := h.cores s.core
    rw [e]
  rw [hth, hbuf] at hd
  constructor
  · obtain ⟨us, cs, e⟩ := h.rest
    obtain ⟨us', cs', th, ps, lh, e'⟩ := hd.frame
    refine ⟨by rw [e', e], by rw [e', e], by rw [e', e], ?_⟩
    intro k
    obtain ⟨l, f⟩ := h.cores k
    obtain ⟨b, f'⟩ := hd.core k
    rw [f', f]
  · obtain ⟨us, cs, e⟩ := h.rest
    obtain ⟨us', cs', th, ps, lh, e'⟩ := hd.frame
    exact ⟨us', cs', th, s.notes, ps, lh, by rw [e', e]⟩
  · intro k
    obtain ⟨l, f⟩ := h.cores k
    obtain ⟨b, f'⟩ := hd.core k
    exact ⟨b, l, by rw [f', f]⟩
  · intro k d hk
    obtain ⟨b, f'⟩ := hd.core k
    refine Eq.trans ?_ (h.buffers k d hk)
    show (r.coreAt k).links.get [] d = (t.coreAt k).links.get [] d
    rw [f']
  · intro j hj; exact (hd.units j hj).trans (h.units j hj)
  · obtain ⟨x, c, n, e'⟩ := hd.unit
    obtain ⟨x', c', n', l, e⟩ := h.unit
    exact ⟨x, c, n, l, by rw [e', e]⟩
  · intro c hc
    obtain ⟨g, w, e⟩ := hd.ctx c
    exact ⟨g, w, by rw [e, h.contexts c hc]⟩
  · obtain ⟨g, w, e⟩ := hd.ctx s.ctx
    obtain ⟨pc, g', x, w', a, f⟩ := h.context
    exact ⟨pc, g, x, w, a, by rw [e, f]⟩
  · intro k hk
    obtain ⟨g, w, e⟩ := hd.ctx s.ctx
    rw [e]
    exact h.shadow k hk
  · intro c n hn hl
    rw [hd.reg c n hl]
    by_cases hc : c = s.ctx
    · subst hc
      exact h.general n fun hr => hn ⟨rfl, hr⟩
    · rw [h.contexts c hc]

end own

end Sys2Proof.Machine
end

