-- ==== Sys2Proof/Laws/Memory.lean ====
section
/-!
SUPPORT. The laws of memory: what was written is read back, every other byte stays, and every operation keeps the canonical
form.
-/
namespace Sys2Proof.Machine

/-! ## Bytes -/

theorem Memory.byte_setByte (m : List Host.Cell) (a b : Nat) (v : Byte) :
    Memory.byte (Memory.setByte m a v) b = if b = a then v else Memory.byte m b :=
  Tab.get_put _ _ _ _ _

@[simp] theorem Memory.byte_setByte_same (m : List Host.Cell) (a : Nat) (v : Byte) :
    Memory.byte (Memory.setByte m a v) a = v := by simp [Memory.byte_setByte]

theorem Memory.byte_setByte_other (m : List Host.Cell) {a b : Nat} (v : Byte) (h : b ≠ a) :
    Memory.byte (Memory.setByte m a v) b = Memory.byte m b := by simp [Memory.byte_setByte, h]

/-! ## Canonical form -/

/-- The canonical form as a proposition: rising keys, no blank byte listed. -/
theorem Memory.wf_iff (m : List Host.Cell) :
    Memory.wf m = true ↔ Tab.Rising m ∧ ∀ c ∈ m, c.2 ≠ Memory.blankByte := by
  induction m with
  | nil => simp [Memory.wf, Tab.Rising]
  | cons x t ih =>
    cases t with
    | nil => simp [Memory.wf, Tab.Rising]
    | cons y t =>
      simp only [Memory.wf, Bool.and_eq_true, ih, bne_iff_ne, ne_eq, decide_eq_true_eq, Tab.Rising, List.pairwise_cons,
        List.mem_cons, forall_eq_or_imp]
      constructor
      · rintro ⟨⟨hx, hlt⟩, ⟨hy, ht⟩, hb, hbt⟩
        exact ⟨⟨⟨hlt, fun e he => Nat.lt_trans hlt (hy e he)⟩, hy, ht⟩, hx, hb, hbt⟩
      · rintro ⟨⟨⟨hlt, _⟩, hy, ht⟩, hx, hb, hbt⟩
        exact ⟨⟨hx, hlt⟩, ⟨hy, ht⟩, hb, hbt⟩

theorem Memory.wf_setByte {m : List Host.Cell} (h : Memory.wf m = true) (a : Nat) (b : Byte) :
    Memory.wf (Memory.setByte m a b) = true := by
  rw [Memory.wf_iff] at h ⊢
  by_cases hb : b = Memory.blankByte
  · simp only [Memory.setByte, Tab.put, hb, if_true]
    exact ⟨h.1.del a, fun c hc => h.2 c (List.mem_filter.1 hc).1⟩
  · simp only [Memory.setByte, Tab.put, hb, if_false]
    refine ⟨h.1.set a b, fun c hc => ?_⟩
    rcases (Tab.mem_set m a b c).1 hc with rfl | hc
    · exact hb
    · exact h.2 c hc.1

theorem Memory.wf_filter {m : List Host.Cell} (h : Memory.wf m = true) (p : Host.Cell → Bool) :
    Memory.wf (m.filter p) = true := by
  rw [Memory.wf_iff] at h ⊢
  exact ⟨List.Pairwise.filter _ h.1, fun c hc => h.2 c (List.mem_filter.1 hc).1⟩

theorem Memory.wf_writeLE {m : List Host.Cell} (h : Memory.wf m = true) (a n v : Nat) :
    Memory.wf (Memory.writeLE m a n v) = true := by
  induction n generalizing m a v with
  | zero => exact h
  | succ n ih => exact ih (Memory.wf_setByte h a _) _ _

/-! ## Runs of bytes -/

theorem Memory.byte_writeLE_other (m : List Host.Cell) (a n v b : Nat) (h : b < a ∨ a + n ≤ b) :
    Memory.byte (Memory.writeLE m a n v) b = Memory.byte m b := by
  induction n generalizing m a v with
  | zero => rfl
  | succ n ih =>
    rw [Memory.writeLE, ih _ _ _ (by omega), Memory.byte_setByte_other _ _ (by omega)]

theorem Memory.byte_writeLE (m : List Host.Cell) (a n v i : Nat) (h : i < n) :
    Memory.byte (Memory.writeLE m a n v) (a + i) = BitVec.ofNat 8 (v / 256 ^ i) := by
  induction n generalizing m a v i with
  | zero => omega
  | succ n ih =>
    rw [Memory.writeLE]
    cases i with
    | zero => rw [Memory.byte_writeLE_other _ _ _ _ _ (by omega)]; simp
    | succ i =>
      have := ih (Memory.setByte m a (BitVec.ofNat 8 v)) (a + 1) (v / 256) i (by omega)
      rw [show a + (i + 1) = a + 1 + i by omega, this, Nat.pow_succ', Nat.div_div_eq_div_mul]

/-- Little-endian: what n bytes were given is what n bytes read (R2). -/
theorem Memory.readLE_writeLE (m : List Host.Cell) (a n v : Nat) :
    Memory.readLE (Memory.writeLE m a n v) a n = v % 256 ^ n := by
  induction n generalizing m a v with
  | zero => simp [Memory.readLE, Nat.mod_one]
  | succ n ih =>
    have hb := Memory.byte_writeLE m a (n + 1) v 0 (by omega)
    simp only [Nat.add_zero, Nat.pow_zero, Nat.div_one] at hb
    rw [Memory.readLE, hb, Memory.writeLE, ih, BitVec.toNat_ofNat]
    have := Nat.mod_mul (x := v) (a := 256) (b := 256 ^ n)
    rw [Nat.pow_succ' (n := n)]
    exact this.symm

theorem Memory.readLE_congr (m m' : List Host.Cell) (a n : Nat)
    (h : ∀ i, i < n → Memory.byte m' (a + i) = Memory.byte m (a + i)) : Memory.readLE m' a n = Memory.readLE m a n := by
  induction n generalizing a with
  | zero => rfl
  | succ n ih =>
    have h0 := h 0 (by omega)
    simp only [Nat.add_zero] at h0
    rw [Memory.readLE, Memory.readLE, h0, ih (a + 1) (fun i hi => by
      have := h (i + 1) (by omega)
      rwa [show a + 1 + i = a + (i + 1) by omega])]

/-- A write leaves a range that it does not meet as it was. -/
theorem Memory.readLE_writeLE_other (m : List Host.Cell) (a n v b k : Nat) (h : b + k ≤ a ∨ a + n ≤ b) :
    Memory.readLE (Memory.writeLE m a n v) b k = Memory.readLE m b k :=
  Memory.readLE_congr _ _ _ _ (fun i hi => Memory.byte_writeLE_other _ _ _ _ _ (by omega))

/-! ## Whole memories -/

/-- The bytes of a memory are in canonical form. -/
def PMem.wf (m : PMem) : Prop := Memory.wf m.bytes = true

theorem PMem.wf_blank : PMem.blank.wf := rfl
theorem PMem.wf_write {m : PMem} (h : m.wf) (a n v : Nat) (p : Bool) : (m.write a n v p).wf := Memory.wf_writeLE h a n v
theorem PMem.wf_writeClean {m : PMem} (h : m.wf) (a n v : Nat) : (m.writeClean a n v).wf := Memory.wf_writeLE h a n v
theorem PMem.wf_setPoison {m : PMem} (h : m.wf) (g : Nat) (p : Bool) : (m.setPoison g p).wf := h
theorem PMem.wf_setFull {m : PMem} (h : m.wf) (w : Nat) (f : Bool) : (m.setFull w f).wf := h
theorem PMem.wf_clear {m : PMem} (h : m.wf) (a n : Nat) : (m.clear a n).wf := Memory.wf_filter h _

/-- A run of bytes stored one by one. -/
theorem Memory.wf_run {m : List Host.Cell} (h : Memory.wf m = true) (a : Nat) (l : List (Byte × Bool)) :
    Memory.wf (l.foldl (fun (x : List Host.Cell × Nat) e => (Memory.setByte x.1 x.2 e.1, x.2 + 1)) (m, a)).1 = true := by
  induction l generalizing m a with
  | nil => exact h
  | cons e l ih => exact ih (Memory.wf_setByte h a e.1) (a + 1)

theorem PMem.wf_writeRun {m : PMem} (h : m.wf) (a : Nat) (l : List (Byte × Bool)) : (m.writeRun a l).wf :=
  Memory.wf_run h a l

theorem Memory.wf_noise {m : List Host.Cell} (h : Memory.wf m = true) (k : Nat) (l : List (Nat × Byte)) :
    Memory.wf (l.foldl (fun b e => Memory.setByte b (64 * k + e.1 % 64) e.2) m) = true := by
  induction l generalizing m with
  | nil => exact h
  | cons e l ih => exact ih (Memory.wf_setByte h _ e.2)

theorem PMem.wf_corrupt {m : PMem} (h : m.wf) (k : Nat) (l : List (Nat × Byte)) : (m.corrupt k l).wf := Memory.wf_noise h k l

theorem PMem.wf_poisonLine {m : PMem} (h : m.wf) (k : Nat) : (m.poisonLine k).wf := by
  unfold PMem.poisonLine
  generalize upto 8 = l
  induction l generalizing m with
  | nil => exact h
  | cons i l ih => exact ih (PMem.wf_setPoison h _ _)

/-- Read after write of n bytes. -/
theorem PMem.read_write (m : PMem) (a n v : Nat) (p : Bool) : (m.write a n v p).read a n = v % 256 ^ n :=
  Memory.readLE_writeLE _ _ _ _

/-- A write leaves every byte outside it as it was. -/
theorem PMem.byte_write_other (m : PMem) (a n v b : Nat) (p : Bool) (h : b < a ∨ a + n ≤ b) :
    Memory.byte (m.write a n v p).bytes b = Memory.byte m.bytes b := Memory.byte_writeLE_other _ _ _ _ _ h

theorem PMem.read_write_other (m : PMem) (a n v b k : Nat) (p : Bool) (h : b + k ≤ a ∨ a + n ≤ b) :
    (m.write a n v p).read b k = m.read b k := Memory.readLE_writeLE_other _ _ _ _ _ _ h

/-! ## Sets of numbers: poison and full/empty -/

theorem mem_setIns (n x : Nat) (l : List Nat) : x ∈ setIns n l ↔ x = n ∨ x ∈ l := by
  induction l with
  | nil => simp [setIns]
  | cons a l ih =>
    unfold setIns
    split
    · simp
    · split
      · next h => subst h; simp
      · simp only [List.mem_cons, ih]; exact or_left_comm

theorem contains_setPut (b : Bool) (n x : Nat) (l : List Nat) :
    (setPut b n l).contains x = if x = n then b else l.contains x := by
  have h1 : (setPut b n l).contains x = true ↔ (if x = n then b else l.contains x) = true := by
    cases b
    · by_cases h : x = n <;> simp [setPut, setDel, h]
    · by_cases h : x = n <;> simp [setPut, mem_setIns, h]
  exact Bool.eq_iff_iff.2 h1

@[simp] theorem PMem.isFull_setFull (m : PMem) (w x : Nat) (f : Bool) :
    (m.setFull w f).isFull x = if x = w then f else m.isFull x := contains_setPut f w x m.full
@[simp] theorem PMem.poisoned_setPoison (m : PMem) (g x : Nat) (p : Bool) :
    (m.setPoison g p).poisoned x = if x = g then p else m.poisoned x := contains_setPut p g x m.poison

theorem contains_foldPut (f : Nat → Bool) (gs l : List Nat) (x : Nat) :
    (gs.foldl (fun l g => setPut (f g) g l) l).contains x = if x ∈ gs then f x else l.contains x := by
  induction gs generalizing l with
  | nil => simp
  | cons g gs ih =>
    rw [List.foldl_cons, ih, contains_setPut]
    by_cases hm : x ∈ gs
    · simp [hm]
    · by_cases hx : x = g
      · subst hx; simp [hm]
      · simp [hm, hx]

/-- The mark that a write leaves: R180's for each granule it touches, the old one elsewhere. -/
theorem PMem.poisoned_write (m : PMem) (a n v g : Nat) (p : Bool) :
    (m.write a n v p).poisoned g = if g ∈ granules a n then m.markAfter a n p g else m.poisoned g :=
  contains_foldPut (m.markAfter a n p) (granules a n) m.poison g

end Sys2Proof.Machine
end

