-- ==== Sys2Proof/Tests/Rig.lean ====
section
/-!
SUPPORT. Small states for the tests and for the witnesses of the statements' hypotheses.
-/
namespace Sys2Proof.Tests
open Sys2Proof.Machine

/-- A full, clean register in plain mode. -/
def full (v : Word) : GReg := ⟨v, true, false, 0, []⟩
/-- A full, poisoned register in plain mode. -/
def bad (v : Word) : GReg := ⟨v, true, true, 0, []⟩
/-- A queue of the given depth and entries. -/
def queue (n : Nat) (q : List Val) : GReg := ⟨0, false, false, n, q⟩

/-- Unit 1 on core 0 in user mode at 0x40000000, with registers g, after the fetch of an 8-byte instruction. -/
def rig (g : List (Nat × GReg)) : State :=
  ({ State.reset.placeUnit with len := 8 } : State).modCtx 1 0 (fun c => { c with g := g })
/-- The same context, changed. -/
def rigged (g : List (Nat × GReg)) (f : Ctx → Ctx) : State := (rig g).modCtx 1 0 f
/-- The same unit, changed. -/
def rigUnit (g : List (Nat × GReg)) (f : UnitSt → UnitSt) : State := (rig g).modUnit 1 f
/-- The same context in supervisor mode. -/
def sup (g : List (Nat × GReg)) : State := rigged g (fun c => { c with priv := true })

/-- A drawing vector instruction in the vector unit's queue. -/
def vecJob : VecJob :=
  ⟨0, 0x40000000, 0, .vadd .f32 ⟨.sto, false⟩ ⟨.g 0, false, 0, 0, 0, 0, 1, 0⟩, .zero, 1, false, 0, .zero, [], []⟩

/-- d := a op b without takes. -/
def gab : Bin := ⟨.g 3, .g 1, false, .g 2, false, 0⟩
/-- d := op a without a take. -/
def ga : Un := ⟨.g 3, .g 1, false, 0⟩

/-- Thread 1 with outstanding operations and a timeline. -/
def engRig (g : List (Nat × GReg)) (ops : List EngOp) (tl : Timeline) : State :=
  (rig g).modThr 1 (fun e => { e with ops := ops, tls := [(0, tl)] })
/-- Operation 1 of that timeline. -/
def eng (k : OpKind) : EngOp :=
  { ctx := 0, tl := 0, no := 1, k := k, uf := false, pos := 0, buf := [], hm := none, idx := none, core := 0, heldGang := false, sent := false }

end Sys2Proof.Tests
end

