-- ==== Sys2Proof/Tests/Slice0.lean ====
section
/-!
SUPPORT. The smoke test of WellFormed, and single instructions on small states with results worked by hand from the rules.
-/
set_option Elab.async false
namespace Sys2Proof.Tests
open Sys2Proof.Machine

/-! ## WellFormed: a good term, and one ill-formed term for each check (R94, R95) -/

theorem test_well_formed : Instr.WellFormed (.iadd .i64 false gab) = true := by decide
/-- 005: a float type in IADD (R149). -/
theorem test_ill_formed_type : Instr.coded (.iadd .f32 false gab) = false := by decide
/-- 005: a take bit on an immediate (R91). -/
theorem test_ill_formed_take : Instr.coded (.iadd .i64 false ⟨.g 3, .imm, true, .g 2, false, 1⟩) = false := by decide
/-- 005: IMM16 without a code 63 (R82). -/
theorem test_ill_formed_imm : Instr.coded (.iadd .i64 false ⟨.g 3, .g 1, false, .g 2, false, 1⟩) = false := by decide
/-- 005: a sync mode on a byte (R178). -/
theorem test_ill_formed_sync : Instr.coded (.ld .b .rf .normal ⟨0, false, .imm, .g 1, .g 3, .glob, 0⟩) = false := by decide
/-- 005: an ls: atomic (R171). -/
theorem test_ill_formed_space : Instr.coded (.cas .d ⟨0, false, .g 5, .g 1, .g 3, .ls, 0⟩) = false := by decide
/-- 005: an odd pair of a matrix operand (R223). -/
theorem test_ill_formed_pair : Instr.coded (.mlda ⟨.g 7, .g 0, .g 0, .g 0, 0, 0, 0, false, false, .i64, .i64, 1, 0, false, 0, 0, 0⟩) = false := by
  decide
/-- 101: codes 36 to 39 and 48 to 62 (R91). -/
theorem test_ill_formed_code : Instr.noRsv (.ldi (.rsv 0) 1) = false ∧ Instr.coded (.ldi (.rsv 0) 1) = true := by decide
/-- 103: code 63 as a destination (R91). -/
theorem test_ill_formed_operand : Instr.accepted (.ldi .imm 1) = false ∧ Instr.noRsv (.ldi .imm 1) = true := by decide
/-- 006: MMA of .i8 and .f16 (R229). -/
theorem test_ill_formed_combo :
    let t : TOp := ⟨.g 2, .g 4, .g 0, .g 0, 0, 0, 1, false, true, .f16, .i8, 1, 0, false, 0, 0, 1⟩
    Instr.combo (.mma t) = false ∧ Instr.accepted (.mma t) = true ∧ Instr.noRsv (.mma t) = true ∧ Instr.coded (.mma t) = true := by decide

/-! ## Single instructions -/

/-- A number of the next state, if there is one. -/
def after (o : Out) (f : State → Nat) : Option Nat := match o with | .next t => some (f t) | .fault _ => none | .refused _ => none
/-- g3 with its poison as bit 64. -/
def g3 (s : State) : Nat := (s.cx.reg 3).v.toNat + (if (s.cx.reg 3).p then 2 ^ 64 else 0)
/-- g3 after an instruction whose A and B are g1 and g2. -/
def run2 (i : Instr) (a b : Word) : Option Nat := after (exec i (rig [(1, full a), (2, full b)])) g3
/-- The same with g3 full beforehand. -/
def run3 (i : Instr) (a b d : Word) : Option Nat := after (exec i (rig [(1, full a), (2, full b), (3, full d)])) g3
/-- The cause that a supervisor's handler would see, and where it goes. -/
def trapOf (o : Out) : Option Nat := after o (fun t => if t.cx.priv then t.cx.tcause.toNat else 0)

/-- 2^31 − 1 + 1 wraps to −2^31, sign-extended (R149). -/
theorem test_iadd_wraps : run2 (.iadd .i32 false gab) 0x7FFFFFFF 1 = some 0xFFFFFFFF80000000 := by decide +kernel
/-- With .sat it stays 2^31 − 1 (R116). -/
theorem test_iadd_saturates : run2 (.iadd .i32 true gab) 0x7FFFFFFF 1 = some 0x7FFFFFFF := by decide +kernel
theorem test_isub_order : run2 (.isub .i64 false gab) 3 5 = some 0xFFFFFFFFFFFFFFFE := by decide +kernel
theorem test_imul_unsigned_byte : run2 (.imul .ui8 false gab) 200 2 = some 144 := by decide +kernel
theorem test_imulh_sign : run2 (.imulh .i32 gab) 0xFFFFFFFF 2 = some 0xFFFFFFFFFFFFFFFF := by decide +kernel
/-- −7 ÷ 2 is −3, rounded toward zero; by zero all ones (R150). -/
theorem test_idiv : run2 (.idiv .i8 gab) 0xF9 2 = some 0xFFFFFFFFFFFFFFFD ∧ run2 (.idiv .ui16 gab) 7 0 = some 0xFFFF := by decide +kernel
theorem test_irem_sign : run2 (.irem .i8 gab) 0xF9 2 = some 0xFFFFFFFFFFFFFFFF := by decide +kernel
/-- A shift by the width or more gives 0; SRA clamps (R150). -/
theorem test_shifts : run2 (.shl .i32 gab) 1 32 = some 0 ∧ run2 (.sra .i32 gab) 0x80000000 40 = some 0xFFFFFFFFFFFFFFFF := by decide +kernel
theorem test_rol : run2 (.rol .ui8 gab) 0x81 9 = some 3 := by decide +kernel
theorem test_andn : run2 (.andn gab) 0xFF 0x0F = some 0xF0 := by decide +kernel
theorem test_bits : run2 (.clz .i16 ga) 1 0 = some 15 ∧ run2 (.bswap .i32 ga) 0x11223344 0 = some 0x44332211 := by decide +kernel
theorem test_sel_reads_its_destination : run3 (.sel gab) 6 7 0 = some 7 ∧ run3 (.sel gab) 6 7 9 = some 6 := by decide +kernel
theorem test_cmp_unsigned : run2 (.cmp .ltu .i64 gab) 1 0xFFFFFFFFFFFFFFFF = some 1 ∧ run2 (.cmp .lt .i64 gab) 1 0xFFFFFFFFFFFFFFFF = some 0 := by
  decide +kernel
/-- The sum leaves the canonical range: cause 402, g3 untouched (R155). -/
theorem test_adda_traps : trapOf (exec (.adda gab) (rig [(1, full 0xFFFFFFFFFFFFFF), (2, full 1)])) = some (cz 0x402).toNat := by decide +kernel
/-- 1.0 + 2^-24 rounds to even; the sum of poisoned and clean is poisoned (R112, R146). -/
theorem test_fadd : run2 (.fadd .f32 ⟨.rne, false⟩ gab) 0x3F800000 0x33800000 = some 0x3F800000 ∧
    run2 (.fadd .f32 ⟨.rup, false⟩ gab) 0x3F800000 0x33800000 = some 0x3F800001 := by decide +kernel
/-- The worked example of R163: 1.0, 3.0, 500.0 and −0.3, the second register poisoned. -/
theorem test_pack_example :
    after (exec (.cvp .b4 .e4m3 ⟨.rne, true⟩ gab) (rig [(1, full 0x404000003F800000), (2, bad 0xBE99999A43FA0000)])) g3 = some (2 ^ 64 + 0xAA7E4438) := by
  decide +kernel
theorem test_unpack_example : after (exec (.cvu .e4m3 ⟨.g 3, .g 1, false, .imm, false, 3⟩) (rig [(1, bad 0xAA7E4438)])) g3 = some (2 ^ 64 + 0xBEA00000) := by
  decide +kernel
/-- A take empties its source, and a source that is also the destination is read first (R127). -/
theorem test_take : after (exec (.iadd .i64 false ⟨.g 1, .g 1, true, .g 1, false, 0⟩) (rig [(1, full 4)])) (fun t => (t.cx.reg 1).v.toNat + (if (t.cx.reg 1).f then 0 else 100)) =
    some 8 := by decide +kernel
/-- An empty source waits: the pc stays (R58). -/
theorem test_empty_source_waits : after (exec (.iadd .i64 false gab) (rig [(2, full 4)])) (fun t => t.cx.pc.toNat + (if t.cx.wait = .reg then 1 else 0)) =
    some 0x40000001 := by decide +kernel
/-- BNZ by −10 parcels: the pc falls by 40 bytes (R164). -/
theorem test_bnz : after (exec (.bnz ⟨.g 1, false, 0⟩ 0xFFFFFFF6) (rigged [(1, full 1)] (fun c => { c with pc := 0x40000040 }))) (fun t => t.cx.pc.toNat) =
    some 0x40000018 := by decide +kernel
/-- A poisoned condition traps with cause A01 (R165, R147). -/
theorem test_poisoned_condition : after (exec (.bz ⟨.g 1, false, 0⟩ 4) (rig [(1, bad 0)])) (fun t => t.cx.tcause.toNat) = some (cz 0xA01).toNat := by
  decide +kernel
/-- TRAP n saves the address after it, enters the handler in supervisor mode (R290, R291). -/
theorem test_trap : after (exec (.trap 3) ({ rig [] with parts := [(0, { Part.reset with tvec := 0x4000 })] })) (fun t =>
    t.cx.tpc.toNat + (if t.cx.priv then 0 else 1) + t.cx.pc.toNat) = some (0x40000008 + 0x4000) := by decide +kernel
/-- The worked example of address formation: 403 with TADDR = ea, 404, 301 (R196, R197, R318). -/
theorem test_addresses :
    let ld (sz : Sz) (m : MemOp) (b i : Word) : Option (Nat × Nat) :=
      match exec (.ld sz .plain .normal m) (rig [(4, full b), (5, full i)]) with
      | .next t => some (t.cx.tcause.toNat, t.cx.taddr.toNat) | .fault _ => none | .refused _ => none
    ld .d ⟨3, false, .g 5, .g 4, .g 8, .glob, 0x10⟩ 0xFFFFFFFFFFFF00 0x1E = some ((cz 0x403).toNat, 0x100000000000000) ∧
    ld .w ⟨0, false, .imm, .g 4, .g 8, .glob, 6⟩ 0x1000 0 = some ((cz 0x404).toNat, 0x1006) ∧
    ld .d ⟨0, false, .imm, .g 4, .g 8, .ls, 0xFFFFFFF8⟩ 0 0 = some ((cz 0x301).toNat, 0xFFFFFFFFFFFFFFF8) := by decide +kernel

end Sys2Proof.Tests
end

