-- ==== Sys2Proof/Tests/WitnessA.lean ====
section
/-!
SUPPORT. Witnesses: concrete states and operands that meet the hypotheses of the statements on the scalar instructions.
-/
set_option Elab.async false
namespace Sys2Proof.Tests
open Sys2Proof.Machine Sys2Proof.Claims

/-! ## IntegerArithmeticResults, LogicalAndShiftResults, FieldSelectAndConstantResults -/

theorem wit_two_sources : Ready (rig [(1, full 6), (2, full 7)]) (sx16 gab.imm) (two gab) (some gab.d) [⟨6, false⟩, ⟨7, false⟩] :=
  ⟨rfl, rfl, rfl, rfl⟩
theorem wit_two_sources_poisoned_taken : Ready (rig [(1, bad 6), (2, full 7)]) (sx16 0)
    (two ⟨.g 1, .g 1, true, .g 2, true, 0⟩) (some (.g 1)) [⟨6, true⟩, ⟨7, false⟩] := ⟨rfl, rfl, rfl, rfl⟩
theorem wit_integer_types : Ty.isInt .i64 = true ∧ Ty.isInt .ui8 = true ∧ Ty.isInt .f32 = false := ⟨rfl, rfl, rfl⟩
theorem wit_one_source : Ready (rig [(1, full 6)]) (sx16 ga.imm) [(ga.a, ga.ta)] (some ga.d) [⟨6, false⟩] := ⟨rfl, rfl, rfl, rfl⟩
theorem wit_three_sources : Ready (rig [(1, full 6), (2, full 7), (3, full 1)]) (sx16 gab.imm) (two gab ++ [(gab.d, false)])
    (some gab.d) [⟨6, false⟩, ⟨7, false⟩, ⟨1, false⟩] := ⟨rfl, rfl, rfl, rfl⟩
/-- A field of length 64 at position 0 is good, one of length 1 at 64 − 1 is good, length 0 is not, 2 at 63 is not. -/
theorem wit_fields : (let bad (c : Nat) : Prop := c / 64 % 128 = 0 ∨ 64 < c % 64 + c / 64 % 128
    ¬ bad (64 * 64) ∧ ¬ bad (64 + 63) ∧ bad 63 ∧ bad (2 * 64 + 63)) := by decide
theorem wit_iext_widths : (1 ≤ 1 % 128 ∧ 64 % 128 ≤ 64) ∧ (0 % 128 = 0 ∧ 64 < 65 % 128) := by decide
theorem wit_result_only : Ready (rig []) 0 [] (some (.g 3)) [] := ⟨rfl, rfl, rfl, rfl⟩
/-- The greatest canonical sum and the least sum that is not canonical. -/
theorem wit_adda_sums :
    ((0xFFFFFFFFFFFFFF#64).extractLsb' 0 57).signExtend 64 = 0xFFFFFFFFFFFFFF#64 ∧
    ((0x100000000000000#64).extractLsb' 0 57).signExtend 64 ≠ 0x100000000000000#64 := by decide

/-! ## ControlFlowResults, PresenceInstructionResults -/

theorem wit_no_operands : Ready (rig []) 0 [] none [] := ⟨rfl, rfl, rfl, rfl⟩
theorem wit_targets : Target 0x40000004 ∧ Target 0xFF00000000000000 ∧ ¬ Target 0x40000002 ∧ ¬ Target 0x100000000000000 := by
  unfold Target; decide
/-- From the rig's pc a forward offset reaches a target, and an offset that leaves the canonical range reaches none. -/
theorem wit_branch_targets :
    Target ((rig []).cx.pc + (2#32).signExtend 64 * 4) ∧
    ¬ Target ((rigged [] (fun c => { c with pc := 0xFFFFFFFFFFFFFC })).cx.pc + (1#32).signExtend 64 * 4) := by
  unfold Target; decide +kernel
theorem wit_condition : Ready (rig [(1, full 0)]) (sx16 0) [(.g 1, false)] none [⟨0, false⟩] ∧
    Ready (rig [(1, full 1)]) (sx16 0) [(.g 1, true)] none [⟨1, false⟩] ∧
    Ready (rig [(1, bad 0)]) (sx16 0) [(.g 1, false)] none [⟨0, true⟩] :=
  by unfold Ready; decide +kernel
theorem wit_bcmp : Ready (rig [(1, full 6), (2, full 6)]) 0 [(.g 1, false), (.g 2, false)] none [⟨6, false⟩, ⟨6, false⟩] ∧
    intCond .eq 64 true 6 6 = true ∧ intCond .lt 64 true 6 6 = false := ⟨⟨rfl, rfl, rfl, rfl⟩, by decide, by decide⟩
theorem wit_jmp : Ready (rig [(1, full 0x40000010)]) 0 [(.g 1, true)] none [⟨0x40000010, false⟩] ∧
    Ready (rig [(1, full 2)]) 0 [(.g 1, true)] none [⟨2, false⟩] ∧ Ready (rig [(1, bad 0)]) 0 [(.g 1, false)] none [⟨0, true⟩] :=
  by unfold Ready; decide +kernel
theorem wit_call : Ready (rig []) 0 [(.imm, false)] (some (.g 3)) [⟨0, false⟩] ∧
    Ready (rig [(1, full 0x40000010)]) 0 [(.g 1, false)] (some (.g 3)) [⟨0x40000010, false⟩] ∧
    Ready (rig [(1, bad 0)]) 0 [(.g 1, false)] (some (.g 3)) [⟨0, true⟩] :=
  by unfold Ready; decide +kernel
theorem wit_loop : Ready (rig [(1, full 2)]) 0 [(.g 1, false)] (some (.g 1)) [⟨2, false⟩] ∧
    Ready (rig [(1, full 1)]) 0 [(.g 1, false)] (some (.g 1)) [⟨1, false⟩] ∧
    Ready (rig [(1, full 0)]) 0 [(.g 1, false)] (some (.g 1)) [⟨0, false⟩] ∧
    Ready (rig [(1, bad 0)]) 0 [(.g 1, false)] (some (.g 1)) [⟨0, true⟩] :=
  by unfold Ready; decide +kernel
theorem wit_presence_modes : ((rig [(1, full 2)]).cx.reg 1).depth = 0 ∧ ((rig [(1, queue 2 [])]).cx.reg 1).depth ≠ 0 := by
  decide +kernel
theorem wit_waitf : Ready (rig [(1, full 2)]) 0 [(.g 1, true)] none [⟨2, false⟩] := ⟨rfl, rfl, rfl, rfl⟩
theorem wit_probe : Ready (rig []) 0 [] (some (.x 0)) [] := ⟨rfl, rfl, rfl, rfl⟩
/-- Depths 16 and 17, a pool that holds 16 more, and one that does not. -/
theorem wit_qcfg :
    let s := rig []
    let t := rigUnit [] (fun u => { u with ctxs := (upto 10).map (fun c =>
      (c, { Ctx.reset with live := true, g := [(1, queue 16 []), (2, queue 9 [])] })) })
    Ready s (sx16 16) [(.imm, false)] none [⟨16, false⟩] ∧ s.un.drawn - (s.cx.reg 3).depth + 16 ≤ 256 ∧
    Ready s (sx16 17) [(.imm, false)] none [⟨17, false⟩] ∧
    Ready t (sx16 16) [(.imm, false)] none [⟨16, false⟩] ∧ 256 < t.un.drawn - (t.cx.reg 3).depth + 16 :=
  ⟨⟨rfl, rfl, rfl, rfl⟩, by decide +kernel, ⟨rfl, rfl, rfl, rfl⟩, ⟨rfl, rfl, rfl, rfl⟩, by decide +kernel⟩

/-! ## FloatResults, ConversionResults, SfuInstructionsEnterTheQueue -/

theorem wit_float_sources : Ready (rig [(1, full 0x3F800000), (2, full 0x7FC00000)]) (fImm .f32 gab.imm) (two gab) (some gab.d)
    [⟨0x3F800000, false⟩, ⟨0x7FC00000, false⟩] := ⟨rfl, rfl, rfl, rfl⟩
theorem wit_nan : val .f32 ⟨0x7FC00000, false⟩ = .nan ∧ val .f32 ⟨0x3F800000, false⟩ ≠ .nan := by unfold val; decide +kernel
theorem wit_ffma : Ready (rig [(1, full 0x3F800000), (2, full 0x40000000), (3, full 0)]) (fImm .f32 gab.imm)
    (two gab ++ [(gab.d, false)]) (some gab.d) [⟨0x3F800000, false⟩, ⟨0x40000000, false⟩, ⟨0, false⟩] := ⟨rfl, rfl, rfl, rfl⟩
theorem wit_draw_free : (rig []).drawBusy = false := by decide +kernel
theorem wit_fcvt : Ready (rig [(1, full 0x3F800000)]) (Ty.f32.code.zeroExtend 64) [(.g 1, false)] (some (.g 3)) [⟨0x3F800000, false⟩] ∧
    (Ty.isInt .i32 && Ty.isInt .f32) = false := ⟨⟨rfl, rfl, rfl, rfl⟩, rfl⟩
/-- Lanes 3 and 4 of a register of 4 lanes, and a poisoned lane number. -/
theorem wit_cvu : Ready (rig [(1, full 6)]) (sx16 3) (two ⟨.g 3, .g 1, false, .imm, false, 3⟩) (some (.g 3)) [⟨6, false⟩, ⟨3, false⟩] ∧
    64 / tyWidth .f16 = 4 ∧ Ready (rig [(1, full 6)]) (sx16 4) (two ⟨.g 3, .g 1, false, .imm, false, 4⟩) (some (.g 3))
      [⟨6, false⟩, ⟨4, false⟩] ∧
    Ready (rig [(1, full 6), (2, bad 0)]) (sx16 0) (two gab) (some (.g 3)) [⟨6, false⟩, ⟨0, true⟩] :=
  ⟨⟨rfl, rfl, rfl, rfl⟩, by decide, ⟨rfl, rfl, rfl, rfl⟩, ⟨rfl, rfl, rfl, rfl⟩⟩
/-- A request in the SFU's queue. -/
def sfuReq : SfuReq := ⟨1, 0, 0, 3, .rcp, .f32, ⟨.rne, false⟩, .zero, 0, 0, false⟩
theorem wit_sfu : Ready (rig [(1, full 0x3F800000)]) (sx16 ga.imm) [(ga.a, ga.ta)] none [⟨0x3F800000, false⟩] ∧
    ((rig []).coreAt 0).sfu.length < 8 ∧
    let t := (rig []).modCore 0 (fun c => { c with sfu := List.replicate 8 sfuReq })
    8 ≤ (t.coreAt t.core).sfu.length ∧ t.runs = true := ⟨⟨rfl, rfl, rfl, rfl⟩, by decide +kernel, by decide +kernel⟩

/-! ## The scalar family: waiting, operands, links, frames -/

theorem wit_scalar_waits :
    let i := Instr.iadd .i64 false gab
    let s := rig [(1, full 6)]
    scalarForm i = some (0, two gab, .g 3) ∧ s.runs = true ∧ s.linksOk ((two gab).map (·.1) ++ [.g 3]) = true ∧
      s.srcVals 0 [] (two gab) = none := ⟨rfl, rfl, rfl, rfl⟩
theorem wit_scalar_no_room :
    let s := rig [(1, full 6), (2, full 7), (3, queue 1 [.zero])]
    s.linksOk ((two gab).map (·.1) ++ [.g 3]) = true ∧ s.room (two gab) (.g 3) = false := ⟨rfl, rfl⟩
/-- A destination link that is missing, with an operand that is not there and with all there; a missing source link with no room. -/
theorem wit_scalar_bad_link :
    let gone (s : State) (srcs : List SrcOp) (d : Opd) (got room : Bool) : Bool :=
      s.linksOk (srcs.map (·.1) ++ [d]) == false && (s.srcVals 0 [] (s.usable srcs)).isSome == got &&
      (s.linksOk [d] && !s.room srcs d) == room
    gone (rig [(1, full 6)]) (two gab) (.link 0) false false = true ∧
    gone (rig [(1, full 6), (2, full 7)]) (two gab) (.link 0) true false = true ∧
    gone (rig [(3, queue 1 [.zero])]) [(.link 0, false)] (.g 3) true true = true := by decide +kernel
theorem wit_scalar_draw_waits :
    let i := Instr.fadd .f32 ⟨.sto, false⟩ gab
    let s := rigUnit [] (fun u => { u with vq := [vecJob] })
    scalarDraws i = true ∧ s.drawBusy = true ∧ s.runs = true := by decide +kernel
theorem wit_operands :
    let s := rig [(1, full 6), (2, queue 2 [.zero])]
    ((s.cx.reg 1).depth = 0 ∧ (s.cx.reg 1).f = true) ∧ ((s.cx.reg 4).depth = 0 ∧ (s.cx.reg 4).f = false) ∧ (s.cx.reg 2).depth ≠ 0 := by
  decide +kernel
theorem wit_neighbours : neighbour 0 1 = some 1 ∧ neighbour 0 2 = some 8 ∧ neighbour 63 0 = some 55 ∧ neighbour 63 3 = some 62 ∧
    neighbour 7 1 = none ∧ neighbour 56 2 = none := by decide
theorem wit_scalar_frame : (∃ t, exec (.iadd .i64 false gab) (rig [(1, full 6), (2, full 7)]) = .next t) :=
  ⟨_, rfl⟩
theorem wit_control_frame : controlForm (.br 1) = some ([], none) ∧ (rig []).cx.assay.armed = false ∧
    ∃ t, exec (.br 1) (rig []) = .next t := ⟨rfl, rfl, ⟨_, rfl⟩⟩

end Sys2Proof.Tests
end

