-- ==== Sys2Proof/Tests/WitnessB.lean ====
section
/-!
SUPPORT. Witnesses: concrete states and operands that meet the hypotheses of the statements on memory instructions.
-/
set_option Elab.async false
namespace Sys2Proof.Tests
open Sys2Proof.Machine Sys2Proof.Claims

/-- [g1] with V = g2. -/
def mem1 (sp : Space) : MemOp := ⟨0, false, .imm, .g 1, .g 2, sp, 0⟩

/-- An address space with shard map 0 at 0x40001000: rank 1, 4-byte elements, extent 8, blocks of 4, a grid of 2, its list at
0x40002000 placing shard 0 on this chip at 0x40003000. -/
def mapMem (st : Nat) (m : PMem) : PMem :=
  ((m.write (0x4000000000 + 64 + 8) 24 (0x40001000 + 1 * 2 ^ 64) false).write 0x40001000 64
    (0x40002000 * 2 ^ 448 + 2 * 2 ^ 384 + 4 * 2 ^ 256 + 8 * 2 ^ 128 + 2 * 16 + st) false).write 0x40002000 16 (0x40003000 * 2 ^ 64) false
def mapRig (st : Nat) (g : List (Nat × GReg)) : State := { rig g with mem := mapMem st (rig g).mem }

/-! ## GlobalAccessesIssue, IssuedAccessFrame -/

theorem wit_load_ready : MemReady (rig [(1, full 0x40000100)]) 0 [((mem1 .glob).base, false), ((mem1 .glob).index, false)]
    [⟨0x40000100, false⟩, .zero] := ⟨rfl, rfl, rfl, rfl⟩
theorem wit_load_address : GlobalOk (rig []) (memEa (mem1 .glob) ⟨0x40000100, false⟩ .zero) 8 ∧
    GlobalOk (rig []) 0xFFFFFFFFFFFFF8 8 ∧ GlobalOk (rig []) 0xFF00000000000000 8 := by unfold GlobalOk; decide +kernel
theorem wit_store_ready : MemReady (rig [(1, full 0x40000100), (2, full 5)]) 0 (memSrcs (mem1 .glob))
    [⟨0x40000100, false⟩, .zero, ⟨5, false⟩] := ⟨rfl, rfl, rfl, rfl⟩
/-- An MRA of this chip, thread 1, key 0, register 2 of context 0. -/
def ownMra : Word := 1 * 2 ^ 30 + 2 * 2 ^ 5
theorem wit_ldl_ready : MemReady (rig [(1, full 0x40000100), (2, full ownMra)]) 0 (memSrcs (mem1 .glob))
    [⟨0x40000100, false⟩, .zero, ⟨ownMra, false⟩] ∧ MraOk (rig []) ⟨ownMra, false⟩ ∧ ((rig []).thr 1).ops.length < 256 :=
  ⟨⟨rfl, rfl, rfl, rfl⟩, by unfold MraOk; decide +kernel, by decide +kernel⟩
theorem wit_amo_ready : MemReady (rig [(1, full 0x40000100), (2, full 5)]) 0 [(.g 1, false), (.imm, false), (.g 2, true)]
    [⟨0x40000100, false⟩, .zero, ⟨5, false⟩] := ⟨rfl, rfl, rfl, rfl⟩
theorem wit_amol_ready : MemReady (rig [(1, full 0x40000100), (2, full 5), (7, full ownMra)]) 0
    (memSrcs (mem1 .glob) ++ [(.g 7, false)]) [⟨0x40000100, false⟩, .zero, ⟨5, false⟩, ⟨ownMra, false⟩] := ⟨rfl, rfl, rfl, rfl⟩
theorem wit_flagf_ready : MemReady (rig [(1, full 0x40000100), (2, full 5)]) 0 [(.g 1, false), (.g 2, false)]
    [⟨0x40000100, false⟩, ⟨5, false⟩] ∧ GlobalOk (rig []) 0x40000100 8 := ⟨⟨rfl, rfl, rfl, rfl⟩, by unfold GlobalOk; decide +kernel⟩
theorem wit_no_link_sources : ∀ o ∈ memSrcs (mem1 .glob), ∀ d : BitVec 2, o.1 ≠ .link d := by
  simp [memSrcs, mem1]

/-! ## AccessFaultsInOrder -/

theorem wit_poisoned_base : MemReady (rig [(1, bad 0x40000100)]) 0 [(.g 1, false), (.imm, false)] [⟨0x40000100, true⟩, .zero] ∧
    MemReady (rig [(1, bad 0x40000100), (2, full 5)]) 0 (memSrcs (mem1 .glob)) [⟨0x40000100, true⟩, .zero, ⟨5, false⟩] ∧
    MemReady (rig [(1, bad 0x40000100), (2, full 5)]) 0 [(.g 1, false), (.imm, false), (.g 2, true)]
      [⟨0x40000100, true⟩, .zero, ⟨5, false⟩] := ⟨⟨rfl, rfl, rfl, rfl⟩, ⟨rfl, rfl, rfl, rfl⟩, ⟨rfl, rfl, rfl, rfl⟩⟩
/-- Each fault at the address where it begins, and the address before it free of it. -/
theorem wit_address_faults :
    let s := rig []
    let phased := rigUnit [] (fun u => { u with phased := true })
    let owned := rigUnit [] (fun u => { u with bufs := [(0, ⟨true, .empty, 0, 0⟩)] })
    addressFault s (mem1 .glob) 0x100000000000000 8 false false = some (s.trap (cz 0x403) s.cx.pc 0x100000000000000) ∧
    addressFault s (mem1 .ls) 0x30000 8 false true = some (s.trap (cz 0x301) s.cx.pc 0x30000) ∧
    addressFault s (mem1 .ls) 0x2FFF8 8 false true = none ∧
    addressFault s (mem1 .cl) 0x30000 8 false true = some (s.trap (cz 0x302) s.cx.pc 0x30000) ∧
    addressFault s (mem1 .cl) 0x1000000 8 false true = some (s.trap (cz 0x302) s.cx.pc 0x1000000) ∧
    addressFault s (mem1 .cl) 0x2FFF8 8 false true = none ∧
    addressFault phased (mem1 .glob) 0x40000000 8 false false = some (phased.trap (cz 0xD08) phased.cx.pc phased.cx.pc) ∧
    addressFault s (mem1 .glob) 0x40000004 8 false false = some (s.trap (cz 0x404) s.cx.pc 0x40000004) ∧
    addressFault s (mem1 .glob) 0x40000004 8 true false = some (s.trap (cz 0x405) s.cx.pc 0x40000004) ∧
    addressFault s (mem1 .cl) 0x40000 8 false false = some (s.trap (cz 0x30D) s.cx.pc 0x40000) ∧
    addressFault owned (mem1 .ls) 0xF8 8 false false = some (owned.trap (cz 0x303) owned.cx.pc 0xF8) ∧
    addressFault owned (mem1 .ls) 0x100 8 false false = none := by
  unfold addressFault; decide +kernel

/-! ## LocalLoadsAndStores -/

theorem wit_local_store : MemReady (rig [(1, full 0x2FFF8), (2, full 5)]) 0 (memSrcs (mem1 .ls))
    [⟨0x2FFF8, false⟩, .zero, ⟨5, false⟩] ∧ ((rig []).unitAt ((rig []).coreAt 0).thread).gang = false :=
  ⟨⟨rfl, rfl, rfl, rfl⟩, rfl⟩
theorem wit_local_load : MemReady (rig [(1, full 0x100)]) 0 [(.g 1, false), (.imm, false)] [⟨0x100, false⟩, .zero] ∧
    addressFault (rig [(1, full 0x100)]) (mem1 .ls) 0x100 8 false false = none :=
  ⟨⟨rfl, rfl, rfl, rfl⟩, by unfold addressFault; decide +kernel⟩

/-! ## SendsShardsHintsAndFreezes -/

theorem wit_rsend : MemReady (rig [(1, full ownMra), (2, full 5)]) (sx16 0) [(.g 1, false), (.g 2, false)]
    [⟨ownMra, false⟩, ⟨5, false⟩] ∧ MraOk (rig []) ⟨ownMra, false⟩ ∧ (rig []).un.gang = false ∧ (rig []).threadOwes 1 = false :=
  ⟨⟨rfl, rfl, rfl, rfl⟩, by unfold MraOk; decide +kernel, rfl, rfl⟩
theorem wit_ldl_local : MemReady (rig [(1, full 0x100), (2, full ownMra)]) 0 (memSrcs (mem1 .ls))
    [⟨0x100, false⟩, .zero, ⟨ownMra, false⟩] := ⟨rfl, rfl, rfl, rfl⟩
theorem wit_shard :
    let s := mapRig 1 [(1, full 0), (2, full 3), (3, full 9)]
    (s.un.phased && !s.un.exchange) = false ∧ s.resolve s.un.asid 0 [3, 0] false 4 = .to 0 0x4000300C ∧
    canonical 0x4000300C = true ∧ s.peerFault s.un.part 0 = none ∧ (0x4000300C#64).toNat % 4 = 0 := by decide +kernel
theorem wit_shard_ready : MemReady (rig [(1, full 0), (2, full 3), (3, full 9)]) (sx16 0) [(.g 1, false), (.g 2, false), (.g 3, true)]
    [⟨0, false⟩, ⟨3, false⟩, ⟨9, false⟩] := ⟨rfl, rfl, rfl, rfl⟩
theorem wit_hints : MemReady (rig [(1, full 0x40000000), (2, full 64)]) 0 (memSrcs (mem1 .glob))
    [⟨0x40000000, false⟩, .zero, ⟨64, false⟩] := ⟨rfl, rfl, rfl, rfl⟩
theorem wit_fence : MemReady (rig []) 0 [] [] := ⟨rfl, rfl, rfl, rfl⟩
theorem wit_freeze :
    let s := mapRig 1 []
    s.smapSt s.un.asid 0 ≠ .invalid ∧ ((s.un.asid, 0) ∉ s.frozen) ∧ (s.storeState s.un.asid 0 2).toOption.isSome := by
  decide +kernel
theorem wit_release :
    let s : State := { mapRig 2 [] with frozen := [(1, 0)] }
    s.smapSt s.un.asid 0 ≠ .invalid ∧ (s.un.asid, 0) ∈ s.frozen ∧ (s.smap s.un.asid 0).map (fun e => (e.st, e.clean)) = some (2, true) ∧
    (s.storeState s.un.asid 0 1).toOption.map (fun t => t.reqs) = some [] := by decide +kernel
/-- A frozen map whose entry's page is no longer valid. -/
theorem wit_release_unread :
    let s : State := { rig [] with frozen := [(1, 0)], mem := (rig []).mem.write (0x4000000000 + 64 + 8) 24 (0x80001000 + 1 * 2 ^ 64) false }
    (s.un.asid, 0) ∈ s.frozen ∧ s.vaAt 1 (s.asStab 1 + 64 * 0) false = .no 0x501 0x12010 := by decide +kernel
theorem wit_freeze_ready : MemReady (mapRig 1 [(1, full 0)]) (sx16 0) [(.g 1, false)] [⟨0, false⟩] := ⟨rfl, rfl, rfl, rfl⟩

end Sys2Proof.Tests
end

