-- ==== Sys2Proof/Tests/WitnessC.lean ====
section
/-!
SUPPORT. Witnesses: states that meet the hypotheses of the statements on accesses in flight and on landings.
-/
set_option Elab.async false
namespace Sys2Proof.Tests
open Sys2Proof.Machine Sys2Proof.Claims

/-- An access of the rig's context to 0x40000100 as access 0. -/
def req (k : AKind) (sm : Sm) (f : Req → Req) : Req := f ((rig []).newReq k 0x40000100 .d sm)
/-- The rig with that access in flight. -/
def withReq (s : State) (r : Req) : State := { s with reqs := [r], nextReq := 1 }
/-- The rig's page as a translation. -/
def page : Trans :=
  { slice := 0, part := 0, asid := 1, glob := false, base := 0x40000000, size := 0x40000000, aper := 0, frame := 0x40000000
    mt := 0, et := false, rap := false, atm := true, x := true, w := true, rd := true }
/-- The rig with another translation of the page held by the slice that serves 0x40000100. -/
def pageRig (f : Trans → Trans) : State := (rig []).keepTrans 1 0x40000100 (f page)

/-! ## PerformedAccessesActOnTheirBytes -/

theorem wit_performed_kinds :
    let full := PMem.blank.setFull 32 true
    (req .ld .rf id).onMem .blank 0x100 = none ∧ ((req .ld .tk id).onMem full 0x100).isSome ∧
    (req .st .we id).onMem full 0x100 = none ∧ ((req .st .we id).onMem .blank 0x100).isSome ∧
    ((req (.amo .fadd) .plain (fun r => { r with sz := .w })).onMem .blank 0x100).isSome ∧ szBytes .w = 4 ∧
    full.isFull (0x100 / 8) = true ∧ PMem.blank.isFull (0x100 / 8) = false := by decide +kernel
theorem wit_performed_poison :
    let m := PMem.blank.setPoison 32 true
    ((req .ld .plain (fun r => { r with et := true })).et && m.anyPoison 0x100 8) = true ∧
    ((req .ld .plain id).et && m.anyPoison 0x100 8) = false := by decide +kernel
theorem wit_cas_values : Memory.readLE PMem.blank.bytes 0x100 8 = (0#64).toNat % 2 ^ (8 * szBytes .d) ∧
    Memory.readLE PMem.blank.bytes 0x100 8 ≠ (1#64).toNat % 2 ^ (8 * szBytes .d) := by decide +kernel

/-! ## PagesDecideAcceptance -/

theorem wit_page_invalid : ({ rig [] with mem := .blank } : State).translate 1 0x40000100 = .invalid ∧
    (rig []).translate 1 0x80000100 = .notValid 0x12010 ∧ ∀ p, (req .ld .plain id).tgt ≠ .peer p := by
  refine ⟨by decide +kernel, by decide +kernel, fun p h => by cases h⟩
/-- The translation that a walk or a held translation gives. -/
def pageOf : Walk → Option Trans
  | .page t => some t
  | .hostPage _ => none | .notValid _ => none | .invalid => none
theorem wit_page_allows : (pageOf ((rig []).translate 1 0x40000100)).map (fun t => (t.rd, t.w, t.atm, t.aper)) =
    some (true, true, true, 0) := by decide +kernel
theorem wit_page_refuses :
    (pageOf ((pageRig (fun t => { t with rd := false })).translate 1 0x40000100)).map (·.rd) = some false ∧
    (pageOf ((pageRig (fun t => { t with w := false })).translate 1 0x40000100)).map (fun t => (t.rd, t.w)) = some (true, false) ∧
    (pageOf ((pageRig (fun t => { t with atm := false })).translate 1 0x40000100)).map (fun t => (t.rd, t.w, t.atm)) =
      some (true, true, false) ∧
    (pageOf ((pageRig (fun t => { t with aper := 3, frame := mmioBase })).translate 1 0x40000100)).map (·.aper) = some 3 := by
  decide +kernel
theorem wit_accept :
    let s := withReq (rig []) (req .ld .plain id)
    s.req 0 = some (req .ld .plain id) ∧ (req .ld .plain id).phase = .issued ∧ s.alive (req .ld .plain id) = true ∧
    (match s.judge (req .ld .plain id) .notPresent with | .ok _ _ _ => true | _ => false) = true ∧
    (s.unitAt 1).gang = false ∧ (req .ld .plain id).lo.tle = false := by decide +kernel
theorem wit_accept_faults :
    let r := req .ld .plain id
    let st := req .st .plain (fun r => { r with d := ⟨0, true⟩ })
    (match (withReq (pageRig (fun t => { t with rd := false })) r).judge r .notPresent with
      | .trap c _ => c == 0x502 | _ => false) = true ∧
    (match (withReq (rig []) { r with ea := 0x80000100 }).judge { r with ea := 0x80000100 } .notPresent with
      | .park c p => c == 0x501 && p == some 0x12010 | _ => false) = true ∧
    (withReq (pageRig (fun t => { t with aper := 3, frame := mmioBase })) st).judge st .notPresent = .consume := by decide +kernel
theorem wit_unissue :
    let s := withReq (rigged [(4, ⟨7, false, false, 0, []⟩)] (fun c => { c with taken := [(4, ⟨7, false⟩)], busy := .access 0 }))
      (req .st .plain id)
    (s.thr 1).imaged = false ∧ ((s.unitAt 1).ctxAt 0).taken = [(4, ⟨7, false⟩)] ∧ (((s.unitAt 1).ctxAt 0).reg 4).depth = 0 := by decide +kernel

/-! ## AcceptedAccessesArePerformed, ValuesReturnToTheirContexts -/

theorem wit_perform :
    let r := req .ld .plain (fun r => { r with phase := .accepted, tgt := .dev 0x40000100 })
    let s := withReq (rig []) r
    s.req 0 = some r ∧ (s.reqs.all (fun q => q.phase != .listed)) = true ∧ s.earlier r = false ∧
    (s.performOn r).isSome = true ∧ r.tag = none := by decide +kernel
theorem wit_perform_waits :
    let r := req .ld .rf (fun r => { r with phase := .accepted, tgt := .dev 0x40000100 })
    (withReq (rig []) r).performOn r = none ∧ r.tag = none := by decide +kernel
theorem wit_refused :
    let r := req .ld .rf (fun r => { r with phase := .refused, tgt := .dev 0x40000100, at_ := 5 })
    ({ withReq (rig []) r with clk := 68 } : State).clk < r.at_ + 64 ∧ r.at_ + 64 ≤ ({ withReq (rig []) r with clk := 69 } : State).clk ∧
      r.phase = .refused := by decide +kernel
theorem wit_empty_list : (rig []).reqs.all (fun q => q.phase != .listed || q.word != some 8) = true := by decide +kernel
theorem wit_return_shadow :
    let r := req .ld .plain (fun r => { r with phase := .performed, dst := .x 2 })
    let s := withReq (rigged [] (fun c => { c with busy := .shadow 0 })) r
    s.req 0 = some r ∧ s.alive r = true ∧ ((s.unitAt r.thread).ctxAt r.ctx).busy = .shadow 0 := by decide +kernel
theorem wit_return_general :
    let r := req .ld .plain (fun r => { r with phase := .performed, dst := .g 4 })
    let s := withReq (rig []) r
    s.req 0 = some r ∧ s.behind { r.landing s r.res with mra := r.ownMra 4, tl := none, urj := false, own := true } = false := by
  decide +kernel
theorem wit_return_behind :
    let l : Landing := { schip := 0, sthread := 1, skey := 0, sctx := 0, sasid := 1, spart := 0, mra := 1 * 2 ^ 30 + 4 * 2 ^ 5
                         val := .zero, tl := none, urj := false, refusedAt := none, via := none, bounces := 0, own := true, tag := none }
    let r := req .ld .plain (fun r => { r with id := 3, phase := .performed, dst := .g 4 })
    let s : State := { withReq (rig []) r with flight := [l] }
    s.behind { r.landing s r.res with mra := r.ownMra 4, tl := none, urj := false, own := true } = true := by decide +kernel
theorem wit_sfu_result :
    let s := (rig []).modCore 0 (fun c => { c with sfu := [⟨1, 0, 0, 3, .rcp, .f32, ⟨.rne, false⟩, .zero, 0, 0, false⟩] })
    (s.coreAt 0).sfu = [⟨1, 0, 0, 3, .rcp, .f32, ⟨.rne, false⟩, .zero, 0, 0, false⟩] ∧ ((rig []).coreAt 0).sfu = [] := by decide +kernel

/-- The chunk of a VSFU in the queue, of the core's own unit. -/
theorem wit_sfu_chunk :
    let q : SfuReq := ⟨1, 0, 0, 0, .rcp, .f32, ⟨.rne, false⟩, .zero, 0, 0, true⟩
    let s := (rig []).modCore 0 (fun c => { c with sfu := [q] })
    (s.coreAt 0).sfu = [q] ∧ q.vec = true ∧ q.thread = (s.coreAt 0).thread ∧ q.key = (s.unitAt (s.coreAt 0).thread).key := by decide +kernel

/-! ## FailuresAndFlags -/

/-- Sent accesses of each kind to a peer that is not present; none is held back, and a landing operand is still to be settled. -/
theorem wit_fail_at_home : ∀ k ∈ [AKind.ld, .st, .stc, .ldl, .amo .add, .amol .add, .cas],
    let r := req k .plain (fun r => { r with phase := .sent, tgt := .peer 5 })
    let s := withReq (rig []) r
    s.req 0 = some r ∧ r.tag = none ∧ s.peerSt 5 ≠ .present ∧ s.unsettled r = false ∧ r.sat = false := by decide +kernel
/-- The rig with operation 1 of timeline 0, a FLAGF, outstanding. -/
def flagRig : State := engRig [] [eng (.flagf 0x40000100 ⟨5, false⟩ 0)] { Timeline.reset with iss := 1 }
/-- A FLAGF's access, of operation n of timeline 0. -/
def flagReq (n : Nat) (f : Req → Req) : Req := f (req .flag .wf (fun r => { r with phase := .accepted, no := n, lo := ⟨false, true, 0⟩ }))
theorem wit_flag_flushed : let r := flagReq 2 id
    (withReq flagRig r).req 0 = some r ∧ (withReq flagRig r).opOut r = false ∧ r.tag = none := by decide +kernel
theorem wit_flag :
    let r := flagReq 1 id
    let s := withReq flagRig r
    s.mem.hall = [] ∧ s.opOut r = true ∧ s.coveredLeft r = false ∧ r.sub = false ∧ (s.thr r.thread).key = r.key ∧
    (match s.judge { r with tgt := .dev 0 } .notPresent with
      | .ok (.dev pa) et keep =>
        let q := { r with tgt := .dev pa, et := et }
        let s0 := match keep with | some t => (s.keepTrans r.asid r.ea.toNat t).cacheReq q (.dev pa) t.mt | none => s
        (match s0.performOn q with | some (t, _, _) => t.reqs.all (fun q => q.phase != .listed) | none => false)
      | _ => false) = true := by decide +kernel
theorem wit_flag_waits :
    let r := flagReq 1 (fun r => { r with id := 3 })
    let s : State := { flagRig with reqs := [req .st .plain (fun r => { r with phase := .accepted }), r] }
    s.opOut r = true ∧ s.coveredLeft r = true := by decide +kernel
theorem wit_flag_parks :
    let parks (ea : Word) : Bool :=
      let r := flagReq 1 (fun r => { r with ea := ea })
      match (withReq flagRig r).judge { r with tgt := .dev 0 } .notPresent with
        | .park _ _ => true | .trap c _ => c != 0x506 | .consume => false | .remote _ => false | .ok _ _ _ => false
    let dead : State := { withReq flagRig (flagReq 1 id) with mem := .blank }
    parks 0x80000100 = true ∧ parks 0x40000100 = false ∧
    (match dead.judge { flagReq 1 id with tgt := .dev 0 } .notPresent with
      | .trap c _ => c == 0x506 | .park _ _ => false | .consume => false | .remote _ => false | .ok _ _ _ => false) = true := by
  decide +kernel
/-- SMFRZ g1 waits in its context with the instruction at its pc. -/
theorem wit_smfrz_drain :
    let s : State := rigged [(1, full 0)] (fun c => { c with wait := .smfrz })
    let s : State := { s with mem := s.mem.write 0x40000000 16 0x00010190 false }
    (match s.fetchAt.2 with | .instr (.smfrz _) _ _ => true | _ => false) = true ∧ (s.coreAt 0).st = .running ∧
      (s.coreAt 0).halt = none ∧ s.cx.live = true ∧ s.cx.wait = .smfrz := by decide +kernel

/-! ## LandingsResolve -/

/-- A landing for register n of context c of thread 1. -/
def landing (c n : Nat) : Landing :=
  { schip := 0, sthread := 1, skey := 0, sctx := 0, sasid := 1, spart := 0
    mra := BitVec.ofNat 64 (1 * 2 ^ 30 + c * 2 ^ 10 + n * 2 ^ 5)
    val := ⟨9, false⟩, tl := none, urj := false, refusedAt := none, via := none, bounces := 0, own := false, tag := none }
/-- Its fields read back; contexts 10 and 11 and register 0 are the bounds of the rejection. -/
theorem wit_landing_bounds : mraCtx (landing 10 4).mra = 10 ∧ mraReg (landing 10 4).mra = 4 ∧ mraThread (landing 10 4).mra = 1 ∧
    10 < mraCtx (landing 11 4).mra ∧ mraReg (landing 0 0).mra = 0 ∧ (rig []).refuses (landing 0 31) = false ∧
    (rig []).refuses (landing 10 4) = true ∧ ((rig []).thr 1).st = .resident ∧ ((rig []).thr 2).st = .closed := by decide +kernel
theorem wit_landing_open :
    let s := rig []
    let l := landing 0 4
    s.refuses l = false ∧ (s.coreAt 0).st = .running ∧ (s.coreAt 0).thread = 1 ∧
    (s.cx.reg 4) = { s.cx.reg 4 with f := false, depth := 0 } ∧ s.cx.takenOf 4 = 0 ∧ (s.coreAt 0).lbuf.all (fun m => !m.sameReg l) = true := by
  decide +kernel
theorem wit_landing_held :
    let l := landing 0 4
    let s := rig [(4, full 1)]
    let t := s.modCore 0 (fun c => { c with lbuf := List.replicate 32 (landing 0 5) })
    s.openFor 0 l = false ∧ (s.coreAt 0).lbuf.length + (s.coreAt 0).rsvd < 32 ∧
    t.openFor 0 l = false ∧ 32 ≤ (t.coreAt 0).lbuf.length + (t.coreAt 0).rsvd := by decide +kernel
theorem wit_landing_moves :
    let l := landing 0 4
    let s : State := { rig [] with flight := [l] }
    s.flight[0]? = some l ∧ s.behind l = false ∧ mraChip l.mra = s.peer ∧ s.gangWaits l = false ∧ l.via = none ∧ s.refuses l = false ∧
    s.atCore 0 l = true ∧ ({ s with flight := [{ l with via := some 3 }] } : State).atCore 3 { l with via := some 3 } = false ∧
    ({ s with clk := 63 } : State).clk < 0 + 64 ∧ 0 + 64 ≤ ({ s with clk := 64 } : State).clk := by decide +kernel
theorem wit_landing_not_resident :
    let s : State := (rig []).setThr 1 { (rig []).thr 1 with st := .beingSaved }
    (s.thr 1).st ≠ .resident ∧ s.behind (landing 0 4) = false ∧ s.gangWaits (landing 0 4) = false := by decide +kernel

/-! ## TileBufferAndAccessFormsComplete: accesses -/

/-- The access on its page, in a phase. -/
def onPage (k : AKind) (sm : Sm) (ph : Phase) : Req := req k sm (fun r => { r with phase := ph, tgt := .dev 0x40000100, d := ⟨5, false⟩ })
theorem wit_in_turn :
    let s := withReq (rig []) (onPage .st .plain .accepted)
    0x40000100 + szBytes .d ≤ s.asBase ∧ InTurn s 0 (onPage .st .plain .accepted) .accepted 0x40000100 ∧ s.earlier (onPage .st .plain .accepted) = false ∧
    InTurn (withReq (rig []) (onPage .ld .plain .accepted)) 0 (onPage .ld .plain .accepted) .accepted 0x40000100 := by
  unfold InTurn; decide +kernel
theorem wit_retry_due :
    let s : State := { withReq (rig []) (onPage .ld .plain .refused) with clk := 64 }
    InTurn s 0 (onPage .ld .plain .refused) .refused 0x40000100 ∧ (onPage .ld .plain .refused).at_ + 64 ≤ s.clk := by
  unfold InTurn; decide +kernel
/-- One rf load listed on a word that is full. -/
def listedRig : State :=
  let s := withReq (rig []) (onPage .ld .rf .listed)
  { s with mem := s.mem.setFull 0x8000020 true }
theorem wit_list_walk :
    let r := onPage .ld .rf .listed
    listedRig.reqs.filter (fun q => q.phase == .listed) = [r] ∧ listedRig.req r.id = some r ∧ r.k = .ld ∧ r.sm = .rf ∧
    r.tag = none ∧ r.tgt = .dev (8 * 0x8000020) ∧ (listedRig.unitAt r.thread).gang = false ∧ listedRig.mem.isFull 0x8000020 = true := by
  decide +kernel
theorem wit_flag_write :
    let r := flagReq 1 id
    let s := withReq flagRig r
    s.req 0 = some r ∧ r.k = .flag ∧ r.sz = .d ∧ r.phase = .accepted ∧ r.tag = none ∧ r.sub = false ∧ s.coveredLeft r = false ∧
    s.opOut r = true ∧ (pageOf ((s.sigWalk r.asid r.ea.toNat).translate r.asid r.ea.toNat)).map (fun t =>
      (t.aper, t.w, decide (t.pa r.ea.toNat + 8 ≤ s.asBase))) = some (0, true, true) ∧ ∀ q ∈ s.reqs, q.phase ≠ .listed := by
  decide +kernel
/-- SMFRZ [g1] stands in memory, and its context waits for map 0 to drain. -/
def frzRig : State :=
  let s : State := rigged [(1, full 0)] (fun c => { c with wait := .smfrz })
  { s with frozen := [(1, 0)], mem := s.mem.write 0x40000000 16 0x00010190 false }
theorem wit_smfrz_drains :
    let u : State := ({ frzRig.fetchAt.1 with ir := 0x00010190, len := 8 } : State).mapRead [(.g 1, false)] (sx16 0) (fun _ => [])
    (match frzRig.fetchAt.2 with | .instr (.smfrz o) _ n => o == ⟨.g 1, false, 0⟩ && n == 8 | _ => false) = true ∧
    (frzRig.coreAt 0).st = .running ∧ (frzRig.coreAt 0).halt = none ∧ frzRig.cx.live = true ∧ frzRig.cx.wait = .smfrz ∧
    MemReady u (sx16 0) [(.g 1, false)] [⟨0, false⟩] ∧ u.smapSt u.un.asid 0 ≠ .invalid ∧ (u.un.asid, 0) ∈ u.frozen ∧
    u.inFlight u.un.asid 0 = 0 := by
  unfold MemReady; decide +kernel
/-- What the steps answer there: the store stands, the loads have a value, the flag is written, SMFRZ has retired. -/
theorem test_access_steps :
    let mem (o : Out) : Nat := match o with | .next t => t.mem.read 0x40000100 8 | _ => 99
    let ph (o : Out) : Option Phase := match o with | .next t => (t.req 0).map (·.phase) | _ => none
    mem (exec (.accessPerform 0) (withReq (rig []) (onPage .st .plain .accepted))) = 5 ∧
    ph (exec (.accessPerform 0) (withReq (rig []) (onPage .ld .plain .accepted))) = some .performed ∧
    ph (exec (.requestRetry 0) { withReq (rig []) (onPage .ld .plain .refused) with clk := 64 }) = some .performed ∧
    ph (exec (.retryListWalk 0x8000020) listedRig) = some .performed ∧
    mem (exec (.flagfWrite 0 .notPresent) (withReq flagRig (flagReq 1 (fun r => { r with d := ⟨5, false⟩ })))) = 5 ∧
    (match exec (.smfrzDrain 0 0) frzRig with | .next t => t.cx.pc == frzRig.cx.pc + 8 && t.cx.wait == .no | _ => false) = true := by
  decide +kernel

end Sys2Proof.Tests
end

