-- ==== Sys2Proof/Tests/WitnessD.lean ====
section
/-!
SUPPORT. Witnesses: states that meet the hypotheses of the statements on shapes, vectors and the matrix unit.
-/
set_option Elab.async false
namespace Sys2Proof.Tests
open Sys2Proof.Machine Sys2Proof.Claims

/-- A shape of rank 1: base, element size code, extent and stride. -/
def shape1 (base esz ext stride : Nat) : Shape :=
  (((Shape.reset.write .base (BitVec.ofNat 64 base)).write .esz (BitVec.ofNat 64 esz)).write (.ext 0) (BitVec.ofNat 64 ext)).write
    (.stride 0) (BitVec.ofNat 64 stride)
/-- s0, s1 and s2 have 8 elements of 4 bytes each. -/
def shapes : List (Nat × Shape) := [(0, shape1 0 2 8 4), (1, shape1 0x100 2 8 4), (2, shape1 0x200 2 8 4)]
def vecRig (g : List (Nat × GReg)) : State := rigUnit g (fun u => { u with shapes := shapes })
/-- s2 := s0 op s1 over n elements. -/
def vop (n : BitVec 16) : VecOp := ⟨.g 0, false, 0, 1, 0, 2, n, 0⟩
/-- SD, SA and GS of the shape instructions. -/
def sop (gs : Opd) (imm : BitVec 32) : VecOp := ⟨gs, false, 0, 0, 1, 0, 0, imm⟩

/-! ## ShapeRegisterInstructions, CursorsAreLinearIndices -/

theorem wit_shape_ready : Ready (vecRig [(1, full 0x2FFD8)]) 0 [(.g 1, false)] none [⟨0x2FFD8, false⟩] ∧
    Ready (vecRig [(1, bad 0)]) 0 [(.g 1, false)] none [⟨0, true⟩] ∧ (vecRig []).shapeBusy [0] = false ∧ (vecRig []).shapeBusy [1] = false ∧
    (vecRig [(1, full 0x2FFD8)]).inOrder = true :=
  by unfold Ready; decide +kernel
/-- The last record that fits, one byte further, one that is not aligned, and one that is not permitted. -/
theorem wit_shape_places : (0x2FFD8 + 40 ≤ 0x30000 ∧ 0x2FFD8 % 8 = 0) ∧ 0x30000 < 0x2FFD9 + 40 ∧ (0x2FFD4 + 40 ≤ 0x30000 ∧ 0x2FFD4 % 8 ≠ 0) ∧
    (vecRig []).lsPermits 0 1 0x2FFD8 40 true = true ∧
    (rigUnit [] (fun u => { u with bufs := [(0, ⟨true, .empty, 0, 0⟩)] })).lsPermits 0 1 0 40 true = false := by decide +kernel
theorem wit_shape_fields : shfAccepts .esz 4 = true ∧ shfAccepts .esz 5 = false := by decide +kernel
theorem wit_shape_ok : (shape1 0 2 8 4).ok = true ∧ (shape1 0 2 8 4).remain = 8 ∧ Shape.reset.ok = false := by decide +kernel
theorem wit_shape_read : Ready (vecRig []) 0 [] (some (.g 1)) [] := ⟨rfl, rfl, rfl, rfl⟩
theorem wit_cursor : (shape1 0 2 8 4).recOk = true ∧ (shape1 0 2 8 4).count = 8 ∧ (shape1 0 2 8 4).top = 0 := by decide +kernel

/-! ## VectorInstructionsIssue, VectorChunksPerformElements -/

/-- Counts 8 and 9 of 8 elements, a count from the shape, and none left. -/
theorem wit_vector_issue :
    let s := vecRig []
    (vecPlan (.vadd .f32 ⟨.rne, false⟩ (vop 8))).isSome = true ∧ s.runs = true ∧ s.linksOk [] = true ∧ s.inOrder = true ∧ s.shapeBusy [0, 1, 2] = false ∧
    s.srcVals 0 [] [] = some [] ∧ [0, 1, 2].all (fun h => !(s.un.shape h).p && (s.un.shape h).ok && eszOk (s.un.shape h) (some .f32)) = true ∧
    [0, 1, 2].all (fun h => (8 : Nat) * 1 ≤ (s.un.shape h).remain && !decide ((9 : Nat) * 1 ≤ (s.un.shape h).remain)) = true := by decide +kernel
theorem wit_vector_faults :
    ((rigUnit [] (fun u => { u with shapes := [(0, ⟨0, true⟩)] })).un.shape 0).p = true ∧
    eszOk ((vecRig []).un.shape 0) (some .f16) = false ∧
    (((vecRig []).un.shape 2).setLin 8).remain = 0 := by decide +kernel
theorem wit_reduction_room : (vecRig []).room [] (.g 8) = true := by decide +kernel
theorem wit_vector_draw : drawsSto (.vadd .f32 ⟨.sto, false⟩ (vop 8)) = true ∧
    (vecRig []).un.mq.any (fun j => drawsSto j.i) = false := by decide +kernel
/-- VADD of 8 elements is at the head of the vector unit's queue. -/
def vjob (n : Nat) : VecJob := ⟨0, 0x40000000, 0, .vand .i32 (vop 8), .zero, n, false, 0, .zero, [], []⟩
theorem wit_vector_chunk :
    let s := rigUnit [] (fun u => { u with shapes := shapes, vq := [vjob 8] })
    (s.coreAt 0).st = .running ∧ (s.unitAt 1).vq = [vjob 8] ∧
    (match vecPlan (.vand .i32 (vop 8)) with
      | some p => p.table.isNone && (upto 8).all (fun e => (s.lsExc 0 1 (p.streams.flatMap (fun st => st.accs (s.unitAt 1) e))).isNone)
      | none => false) = true ∧
    (∀ l vs, vPure (logRes (· &&& ·)) l vs = (l, (vPure (logRes (· &&& ·)) 0 vs).2)) :=
  And.intro (by decide +kernel) (And.intro (by decide +kernel) (And.intro (by decide +kernel) fun _ _ => rfl))
theorem wit_vector_writes : ((vecRig []).vputs 0 [.val 0x200 4 ⟨5, false⟩]).isSome = true ∧ (vecRig []).un.gang = false := by decide +kernel
/-- A VAND asks nothing of the SFU; a chunk of VSFU finds room in the queue and none of its own there. -/
theorem wit_vector_sfu : sfuOf (vjob 8).i = none ∧ sfuOf (.vsfu .rcp .f32 ⟨.rne, false⟩ (vop 8)) = some (.rcp, .f32, ⟨.rne, false⟩) ∧
    (rigUnit [] (fun u => { u with vq := [vjob 8] })).chunkQueued 0 1 = false ∧ ((rig []).coreAt 0).sfu.length < 8 := by decide +kernel
/-- A source and a destination of VCVT, an integer pair and a pair with a float. -/
theorem wit_vector_conversions : (Ty.isInt .i32 && Ty.isInt .i8) = true ∧ (Ty.isInt .i32 && Ty.isInt .f16) = false ∧
    Rm.rne ≠ .sto ∧ ([FV.nan, .inf false].map (fun x => x == .nan)) = [true, false] ∧
    ((List.replicate 48 (FV.zero false)).length = 48) := by decide
/-- s3 holds 1-byte indices, index 7 of 8 and 8 of 8; s0 to s2 are the tables. -/
theorem wit_vector_index :
    let with_ (v : Nat) (pois : Bool) : State :=
      let s := rigUnit [] (fun u => { u with shapes := (3, shape1 0x300 0 8 1) :: shapes })
      s.setLs 0 ((s.lsOf 0).write 0x300 1 v pois)
    let idx (s : State) : Nat := Memory.readLE (s.lsOf 0).bytes 0x300 1
    ((with_ 7 false).unitAt 1).shape 0 = shape1 0 2 8 4 ∧ idx (with_ 7 false) = 7 ∧ idx (with_ 8 false) = 8 ∧ (shape1 0 2 8 4).count = 8 ∧
    ((with_ 7 false).lsOf 0).anyPoison 0x300 1 = false ∧ ((with_ 7 true).lsOf 0).anyPoison 0x300 1 = true ∧
    (with_ 7 false).lsExc 0 1 [⟨0x300, 1, 1, false⟩] = none := by decide +kernel
theorem wit_poison_cleared : ((rig []).vput 0 (.clear 0x100 4)).isSome = true := by decide +kernel
theorem wit_vector_types : Ty.isInt .i32 = true ∧ Ty.isInt .f16 = false ∧ Ty.i32 ≠ .blk := by decide

/-! ## TileInstructions, MatrixOperationsIssueAndRead, MatrixStepsAccumulateDotProducts -/

/-- A = g2:g3, B = g4:g5, accumulator 1. -/
def top (am : BitVec 4) : TOp := ⟨.g 2, .g 4, .g 6, .g 0, 0, 0, am, true, true, .i8, .i8, 1, 0, false, 0, 0, 1⟩
def mjob (i : Instr) : MatJob := { ctx := 0, pc := 0x40000000, ir := 0, i := i, regs := [⟨0x400, false⟩, ⟨64, false⟩, ⟨0x1000, false⟩, ⟨64, false⟩]
                                   step := 0, no := 0, bufA := [], bufB := [], subbed := false }
theorem wit_tile_busy : (rigUnit [] (fun u => { u with mq := [mjob (.mma (top 1))] })).un.mq ≠ [] ∧ (rig []).un.mq = [] := by decide +kernel
theorem wit_tile_moves :
    let s := rig [(2, full 0x400), (3, full 64)]
    Ready s 0 (tileSrcs (top 0)) none [⟨0x400, false⟩, ⟨64, false⟩] ∧
    TileOk s ⟨0x400, false⟩ ⟨64, false⟩ false ∧ TileOk s ⟨0x400, false⟩ ⟨64, false⟩ true ∧ s.inOrder = true ∧ s.un.gang = false :=
  by unfold Ready TileOk; decide +kernel
/-- The last place at which sixteen rows fit, and one row further. -/
theorem wit_tile_end : TileOk (rig []) ⟨0x2FC00, false⟩ ⟨64, false⟩ false ∧ ¬ TileOk (rig []) ⟨0x2FC40, false⟩ ⟨64, false⟩ false := by
  unfold TileOk; decide +kernel
theorem wit_tile_rows : ∀ i < 16, ∀ i' < 16, i ≠ i' →
    rowAddr ⟨0x400, false⟩ ⟨64, false⟩ i + 64 ≤ rowAddr ⟨0x400, false⟩ ⟨64, false⟩ i' ∨
    rowAddr ⟨0x400, false⟩ ⟨64, false⟩ i' + 64 ≤ rowAddr ⟨0x400, false⟩ ⟨64, false⟩ i := by decide +kernel
theorem wit_tile_table :
    let s := rig [(2, full 0x400)]
    Ready s 0 [(.g 2, false)] none [⟨0x400, false⟩] ∧
    s.inOrder = true ∧ 0x400 % 16 = 0 ∧ 0x400 + 16 ≤ 0x30000 ∧ s.lsPermits s.core s.th 0x400 16 false = true :=
  by unfold Ready; decide +kernel
theorem wit_tile_status : Ready (rig []) 0 [] (some (.g 2)) [] ∧ ((rig []).cx.reg 2).depth = 0 ∧ ((rig []).coreAt 0).lbuf = [] :=
  by unfold Ready; decide +kernel
theorem wit_matrix_issue :
    let s := rig [(2, full 0x400), (3, full 64), (4, full 0x1000), (5, full 64)]
    let b := rig [(2, full 0x401), (3, full 64), (4, full 0x1000), (5, full 64)]
    (match matPlan (.mma (top 1)) with
      | some p => (match s.srcVals 0 [] p.srcs, b.srcVals 0 [] p.srcs with
        | some vs, some ws => (s.matExc p vs 0).isNone && (b.matExc p ws 0).isSome && s.linksOk (p.srcs.map (·.1) ++ [])
        | _, _ => false)
      | none => false) = true ∧ s.runs = true ∧ s.un.mq = [] ∧ s.inOrder = true ∧ s.owesAll = false ∧ (s.thr 1).ops.length < 256 ∧ (s.tlAt 1 0).qpErr = false := by
  decide +kernel
theorem wit_matrix_step :
    let s := rigUnit [] (fun u => { u with mq := [mjob (.mma (top 1))] })
    (s.coreAt 0).st = .running ∧ (s.unitAt 1).mq = [mjob (.mma (top 1))] ∧
    (match matPlan (.mma (top 1)) with | some p => ((mjob (.mma (top 1))).needs p).isNone | none => false) = true := by decide +kernel
theorem wit_matrix_types : (top 1).accmode.toNat % 4 = 1 ∧ (top 9).accmode.getLsbD 3 = true ∧ (top 1).tya = .i8 ∧ (top 1).tyb = .i8 := by
  decide
/-- A global A in a compute span; the same in an exchange span. -/
theorem wit_matrix_phased :
    let t : TOp := { top 1 with osrc := 2 }
    let s (ex : Bool) : State := rigUnit [] (fun u => { u with phased := true, exchange := ex })
    let vs : List Val := [⟨0x40001000, false⟩, ⟨64, false⟩, ⟨0x1000, false⟩, ⟨64, false⟩]
    (match matPlan (.mma t) with
      | some p => p.pairs.any (·.src == 2) && ((s false).matExc p vs 0).isSome && ((s true).matExc p vs 0).isNone
      | none => false) = true := by decide +kernel
/-- Every kind of type of MMA, MMB and MMS with its accumulation mode. -/
theorem wit_matrix_modes : ((top 0).accmode.toNat % 4 = 0 ∧ (top 2).accmode.toNat % 4 = 2) ∧ kPer .f16 = kPer .bf16 ∧ kPer .e4m3 = 64 ∧
    kPer .t8 = 64 ∧ tyWidth .e5m2 = 8 ∧ Ty.t6 ≠ .l4 := by decide +kernel
/-- MCMP and MDRN at step 0 of the unit's job, on rows that do not overlap. -/
theorem wit_matrix_rows : ∀ i ∈ [Instr.mcmp (top 0), .mdrn { top 1 with fn := 0 }],
    let s := rigUnit [] (fun u => { u with mq := [mjob i] })
    (s.coreAt 0).st = .running ∧ (s.unitAt 1).mq = [mjob i] ∧ (s.unitAt 1).gang = false ∧
    (match matPlan i with
      | some p => (match p.pairs.head? with
        | some o => (upto 4).all (fun a => (upto 4).all (fun b => a == b ||
            decide (o.addr (mjob i).regs 0 a + 64 ≤ o.addr (mjob i).regs 0 b ∨ o.addr (mjob i).regs 0 b + 64 ≤ o.addr (mjob i).regs 0 a)))
        | none => false)
      | none => false) = true := by decide +kernel
/-- A is in global memory at 0x40001000, on a page of the device and on none. -/
theorem wit_matrix_global :
    let t : TOp := { top 1 with osrc := 2 }
    let j (a : Word) : MatJob := { mjob (.mma t) with regs := [⟨a, false⟩, ⟨64, false⟩, ⟨0x1000, false⟩, ⟨64, false⟩] }
    let s := rigUnit [] (fun u => { u with mq := [j 0x40001000] })
    (match matPlan (.mma t) with | some p => ((j 0x40001000).needs p).isSome | none => false) = true ∧
    canonical 0x40001000 = true ∧
    (match s.translate 1 0x40001000 with | .page t => t.aper == 0 && t.rd | _ => false) = true ∧
    (match s.bulkAt 0 1 0x40001000 false .notPresent with | .dev _ _ => true | _ => false) = true ∧
    (match s.bulkAt 0 1 0x80001000 false .notPresent with | .fail _ => true | _ => false) = true ∧
    s.reqs.all (fun r => r.k != .rdMat) = true := by decide +kernel

end Sys2Proof.Tests
end

