-- ==== Sys2Proof/Tests/WitnessE.lean ====
section
/-!
SUPPORT. Witnesses: states that meet the hypotheses of the statements on engines, timelines, helpers, tasks and tile buffers.
-/
set_option Elab.async false
namespace Sys2Proof.Tests
open Sys2Proof.Machine Sys2Proof.Claims

/-! ## EngineCommandsIssue, TimelinesCountAndReport -/

/-- An engine command: GA g3, GB g4, GC g5, GD g6; global to global. -/
def eop (kcnt : BitVec 16) (gd : Opd) : TOp := ⟨.g 3, .g 4, .g 5, gd, 0, 2, 0, false, false, .i64, .i32, 0, 0, false, 0, 0, kcnt⟩

theorem wit_cpy :
    let s := rig [(4, full 0x40000100), (5, full 0x40000200), (6, full 64)]
    Ready s ((eop 0 (.g 6)).kcnt.zeroExtend 64) (engSrcs (eop 0 (.g 6))) (some (.g 3))
      [⟨0x40000100, false⟩, ⟨0x40000200, false⟩, ⟨64, false⟩] ∧ s.owesAll = false ∧ (s.thr 1).ops.length < 256 ∧
      (s.un.phased && !s.un.exchange) = false :=
  by unfold Ready; decide +kernel
/-- Lengths 2^32 and 2^32 + 1, the last address of the range, and the ranges of the three spaces. -/
theorem wit_cpy_lengths : (2 : Nat) ^ 32 ≤ 2 ^ 32 ∧ 2 ^ 32 < 2 ^ 32 + 1 ∧ engSpace 3 = .mra ∧ engSpace 1 = .ls ∧
    canonical 0xFFFFFFFFFFFFC0 = true ∧ canonical (BitVec.ofNat 64 (0xFFFFFFFFFFFFC0 + 64 - 1)) = true ∧
    0x2FFC0 + 64 ≤ 0x30000 := by decide
theorem wit_cpy_poisoned : Ready (rig [(4, bad 0x40000100), (5, full 0x40000200), (6, full 64)]) 0 (engSrcs (eop 0 (.g 6)))
    (some (.g 3)) [⟨0x40000100, true⟩, ⟨0x40000200, false⟩, ⟨64, false⟩] := ⟨rfl, rfl, rfl, rfl⟩
theorem wit_engines_wait : 256 ≤ ((engRig [] (List.replicate 256 (eng .land)) ⟨0, [], 0, 0, 0, 0, 0, false⟩).thr 1).ops.length ∧
    (rig []).runs = true := by decide +kernel
theorem wit_rows :
    let s := rig []
    let vs : List Val := [⟨0x40000100, false⟩, ⟨0x40000200, false⟩, ⟨0x400, false⟩]
    rowChk s .glob .glob false 16 4 vs = none ∧ rowChk s .glob .glob true 16 4 vs = none := by decide +kernel
/-- A descriptor of two members at 0x800, this unit being rank 0; and none at 0. -/
theorem wit_coll :
    let s := (rig []).modCore 0 (fun c => { c with ls := (c.ls.write 0x800 64 (7 + 2 * 2 ^ 64 + 4 * 2 ^ 128 + 0x900 * 2 ^ 192) false).write 0x900 8 (2 ^ 30) false })
    (collDesc (s.lsOf 0) 0x800 (handle s.peer 1 s.un.key)).isSome = true ∧ collDesc (s.lsOf 0) 0 (handle s.peer 1 s.un.key) = none ∧
    0x800 % 64 = 0 ∧ engSpace ((eop 0 (.g 6)).osrc.toNat % 4) = .glob ∧ engSpace ((eop 0 (.g 6)).osrc.toNat / 4) = .glob := by decide +kernel
theorem wit_timeline : let t : Timeline := ⟨5, [3, 4], 1, 0, 0, 0, 0, false⟩
    t.comp < 2 ∧ (∀ m ∈ t.done, t.comp < m) ∧ t.comp + 1 ∉ t.done := by decide
theorem wit_new_op : ((rig []).tlAt 1 0).qpErr = false ∧
    ((engRig [] [] ⟨5, [], 5, 1, 5, 0, 0, true⟩).tlAt 1 0).qpErr = true ∧
    (engRig [] [] ⟨5, [], 5, 1, 5, 0, 0, true⟩).thr 1 = { (rig []).thr 1 with tls := [(0, ⟨5, [], 5, 1, 5, 0, 0, true⟩)] } := by decide +kernel
/-- Waits for 5 and for 6 of 5 issued; 4 of them complete; and one held by its gang. -/
theorem wit_tlwait :
    let s := engRig [(1, full 5)] [{ eng .land with no := 5 }] ⟨5, [], 4, 0, 0, 0, 0, false⟩
    let g := engRig [(1, full 5)] [{ eng .land with no := 5, heldGang := true }] ⟨5, [], 4, 0, 0, 0, 0, false⟩
    let held (s : State) := (s.thr 1).ops.any (fun o => o.tl == 0 && o.no ≤ 5 && o.heldGang)
    Ready s (sx16 0) [(.g 1, false)] none [⟨5, false⟩] ∧ (s.tlAt 1 0).iss < 6 ∧ 5 ≤ (s.tlAt 1 0).iss ∧ (s.tlAt 1 0).comp < 5 ∧
    4 ≤ (s.tlAt 1 0).comp ∧ held s = false ∧ held g = true :=
  by unfold Ready; decide +kernel
theorem wit_tlnote : Ready (rig [(1, full (2 ^ 30 + 2 * 2 ^ 5)), (2, full 9)]) (sx16 0) [(.g 1, false), (.g 2, false)] none
    [⟨2 ^ 30 + 2 * 2 ^ 5, false⟩, ⟨9, false⟩] ∧ MraOk (rig []) ⟨2 ^ 30 + 2 * 2 ^ 5, false⟩ ∧ (rig []).threadOwes 1 = false :=
  by unfold Ready MraOk; decide +kernel
theorem wit_fqprst : (((engRig [] [eng .land] ⟨1, [], 0, 0, 0, 0, 0, false⟩).thr 1).ops.any (·.tl == 0)) = true ∧
    ((rig []).thr 1).ops.any (·.tl == 0) = false := by decide +kernel

/-! ## EnginesMoveAndCombine -/

/-- A copy of 64 bytes that has yet to read, and one that has read and has yet to write. -/
theorem wit_engine_moves :
    let o := eng (.cpy .glob .glob 0x40000100 0x40000200 64)
    let w : EngOp := { o with buf := List.replicate 64 (7, false) }
    let s := engRig [] [o] ⟨1, [], 0, 0, 0, 0, 0, false⟩
    let t := engRig [] [w] ⟨1, [], 0, 0, 0, 0, 0, false⟩
    (s.thr 1).ops[0]? = some o ∧ (s.thr 1).ops.find? (·.is o.tl o.no) = some o ∧ s.engReady 1 o = true ∧ t.engReady 1 w = true ∧
    s.views = [] ∧ s.mem.hall = [] ∧ w.hm = none ∧
    (match s.bulkAt 0 1 0x40000200 false .notPresent, t.bulkAt 0 1 0x40000100 true .notPresent with
      | .dev _ a, .dev _ b => a == 0x40000200 && b == 0x40000100 | _, _ => false) = true ∧
    outsideTables s 0x40000200 64 ∧ outsideTables t 0x40000100 64 ∧
    (match s.bulkAt 0 1 0x80000000 false .notPresent, s.bulkAt 0 1 0x80000000 true .notPresent with
      | .fail _, .fail _ => true | _, _ => false) = true := by unfold outsideTables; decide +kernel
theorem wit_engine_views (pa : Nat) : (rig []).viewOf pa = none := rfl
theorem wit_engine_ends : ({ eng (.cpy .glob .glob 0x40000100 0x40000200 64) with pos := 64 } : EngOp).allMoved = true ∧
    (eng (.cpy .glob .glob 0x40000100 0x40000200 64)).allMoved = false ∧
    (engRig [] [eng .land] ⟨1, [], 0, 0, 0, 0, 0, false⟩).engReady 1 (eng .land) = false := by decide +kernel
/-- A copy whose source is 3 bytes off: the first piece ends at a granule of the destination; the store of another context is before a
note. -/
theorem wit_engine_pieces :
    let run (dst n : Nat) : Nat := min n (64 - dst % 64)
    run 0x40000100 0 = 0 ∧ run 0x40000100 61 - (0x40000100 + run 0x40000100 61) % 8 = 56 ∧ run 0x40000100 64 = 64 ∧
    ((engRig [] [] ⟨0, [], 0, 0, 0, 0, 0, false⟩).threadBefore 1 5) = false := by decide +kernel
/-- Threads 1 and 2 of this chip, each with its part of an ALLMAX over both, in a phase. -/
def collRig (ph : Nat) (both : Bool) : State :=
  let d : CollDesc := ⟨7, 1, 2, 0, 0, [2 ^ 30, 2 ^ 31]⟩
  let member (r : Nat) : EngOp := { eng (.coll .allmax .i32 .glob .glob 0x40000100 0x40000200 { d with rank := r } 0 ph) with pos := if ph = 1 then 4 else 0 }
  let s := engRig [] [member 0] { Timeline.reset with iss := 1 }
  if both then s.setThr 2 { s.thr 1 with ops := [member 1] } else s
theorem wit_collective_turn :
    let d : CollDesc := ⟨7, 1, 2, 0, 0, [2 ^ 30, 2 ^ 31]⟩
    let k := OpKind.coll .allmax .i32 .glob .glob 0x40000100 0x40000200 d 0 0
    let agreed (s : State) : Bool := d.members.all (fun m => !s.collLost m d.tag 0) &&
      d.members.all (fun m => (s.collOf (mraThread m) d.tag 0).all (fun o => collSame o.k k))
    d.members.length = d.n ∧ (d.members.map mraThread).Nodup ∧ d.members.all (fun m => mraChip m == (collRig 0 true).peer) = true ∧
    agreed (collRig 0 true) = true ∧ agreed (collRig 0 false) = false ∧ ((collRig 0 true).collOf 2 7 0).isSome = true ∧
    ((collRig 1 true).collOf 2 7 0).map (fun o => (o.k.ph, o.sent, decide (o.pos = o.k.total))) = some (1, false, true) ∧
    [1, 0].length = d.n ∧ (∀ r < d.n, r ∈ [1, 0]) := by decide +kernel
/-- What the turn does there: the second phase, and status 9 where a member's thread is closed. -/
theorem test_collective_turn :
    let ph (o : Out) : Option Nat := match o with | .next t => (t.thr 1).ops.head?.map (·.k.ph) | .fault _ => none | .refused _ => none
    let st (o : Out) : Nat := match o with | .next t => (t.tlAt 1 0).status | .fault _ => 99 | .refused _ => 99
    ph (exec (.collMatch 7 ([0, 1], [])) (collRig 0 true)) = some 1 ∧ ph (exec (.collMatch 7 ([0, 1], [])) (collRig 1 true)) = some 2 ∧
    st (exec (.collMatch 7 ([0, 1], [])) (collRig 0 false)) = 9 := by decide +kernel
theorem wit_note_lands :
    let o := eng (.note (2 ^ 30 + 2 * 2 ^ 5) ⟨9, false⟩)
    let s := engRig [] [o] ⟨2, [], 0, 0, 0, 0, 0, false⟩
    o.heldGang = false ∧ o.sent = false ∧ (s.tlAt 1 o.tl).comp + 1 = o.no ∧ (s.tlAt 1 o.tl).comp + 1 ≠ 2 := by decide +kernel
theorem wit_collective : Ty.isInt .i32 = true ∧ [(3, false), (5, true)] ≠ ([] : List (Nat × Bool)) := by decide

/-! ## HelperInstructions, UnitSpanAndLevelInstructions -/

/-- Handles 1 and 10 are helpers, 0 and 11 are not. -/
theorem wit_helper_handles : Ready (rig [(1, full 10)]) (sx16 0) [(.g 1, false)] none [⟨10, false⟩] ∧ ((rig []).un.ctxAt 10).live = false ∧
    ((0#64).toNat < 1 ∨ 10 < (11#64).toNat) ∧ Ready (rig [(1, bad 1)]) (sx16 0) [(.g 1, false)] none [⟨1, true⟩] :=
  ⟨⟨rfl, rfl, rfl, rfl⟩, by decide +kernel, by decide, ⟨rfl, rfl, rfl, rfl⟩⟩
/-- Helper 1 is live, and acts. -/
def helperRig : State :=
  let s := rigUnit [] (fun u => u.modCtx 1 (fun c => { c with live := true, pc := 0x40000000, g := [(1, full 1)] }))
  { s with ctx := 1 }
theorem wit_helper_live : (helperRig.un.ctxAt 1).live = true ∧ helperRig.ctx ≠ 0 ∧ helperRig.runs = true ∧
    Ready helperRig (sx16 0) [(.g 1, false)] none [⟨1, false⟩] ∧ Ready helperRig 0 [] none [] ∧ EndSigOk helperRig ∧
    HelperLive { helperRig with ctx := 0 } ∧ Ready { helperRig with ctx := 0 } 0 [] none [] :=
  by unfold Ready EndSigOk HelperLive; decide +kernel
theorem wit_core_empty (k : Nat) : ((rig []).coreAt k).lbuf = [] := by
  cases k with
  | zero => rfl
  | succ n => rfl
theorem wit_bad_signature : ¬ EndSigOk (rigged [] (fun c => { c with assay := ⟨true, 1, 0⟩ })) := by
  unfold EndSigOk; decide +kernel
theorem wit_uexit :
    let s := rig []
    Ready s 0 [] none [] ∧ EndSigOk s ∧ ¬ HelperLive s ∧ s.instOf s.th = none ∧ (s.thr s.th).loc = s.core ∧ (s.thr s.th).hold = [] ∧
    s.un.gang = false ∧ s.un.phased = false ∧ s.retire.recs.any (s.retire.candidate s.core) = false :=
  by unfold Ready EndSigOk HelperLive; decide +kernel
theorem wit_spans :
    let s := rigUnit [] (fun u => { u with phased := true })
    let t := rigUnit [] (fun u => { u with phased := true, exchange := true })
    let g := rigUnit [] (fun u => { u with gang := true })
    s.un.phased = true ∧ s.un.exchange = false ∧ t.un.phased = true ∧ t.un.exchange = true ∧ g.un.gang = true ∧ ¬ HelperLive g ∧
    Ready s 0 [] none [] ∧ Ready t 0 [] none [] ∧ Ready g 0 [] none [] :=
  by unfold Ready HelperLive; decide +kernel
theorem wit_levels : (3#16).toNat ≤ 3 ∧ 3 < (4#16).toNat ∧ Ready (rig []) 0 [] (some (.g 3)) [] := ⟨by decide, by decide, rfl, rfl, rfl, rfl⟩

/-! ## TasksLeaveRecords, TileBufferInstructions -/

/-- POST or SUSP at +2 parcels, no affinity, g1 and g4 live, no requirement. -/
def pop (mask : Opd) : PostOp := ⟨2, .imm, mask, 0, 0, false, 0⟩
theorem wit_post :
    let s := rig [(1, full 5), (4, full 6), (2, full 0x12)]
    Ready s ((pop (.g 2)).imm.zeroExtend 64) (postSrcs (pop (.g 2))) none [⟨0, false⟩, ⟨0x12, false⟩] ∧
    PostOk s (pop (.g 2)) false ⟨0, false⟩ ⟨0x12, false⟩ [] ∧ PostOk s (pop (.g 2)) true ⟨0, false⟩ ⟨0x12, false⟩ [] ∧
    (∀ n ∈ liveList 0x12, ((s.takeAll (postSrcs (pop (.g 2)))).cx.reg n).head ≠ none) ∧
    (s.launchAt (inPart 0 0)).cut = false ∧ s.freeFrame 0 = none :=
  ⟨by unfold Ready; decide +kernel, by unfold PostOk HelperLive; decide +kernel, by unfold PostOk HelperLive; decide +kernel, by decide +kernel⟩
theorem wit_post_waits :
    let s := rig [(1, full 5), (2, full 0x12)]
    ∃ n ∈ liveList 0x12, ((s.takeAll (postSrcs (pop (.g 2)))).cx.reg n).head = none := ⟨4, by decide +kernel, by decide +kernel⟩
theorem wit_post_frame : (({ rig [] with parts := [(0, { Part.reset with pool := 4, poolBase := 0x100000 })] } : State).freeFrame 0).isSome = true ∧
    ((rig []).setLaunch (inPart 0 0) { Launch.reset with cut := true }).launchAt (inPart 0 0) = { Launch.reset with cut := true } := by
  decide +kernel
theorem wit_post_refused : helperRig.ctx ≠ 0 ∧ (rigUnit [] (fun u => { u with phased := true })).un.phased = true := by decide +kernel
theorem wit_susp_busy : (rigUnit [] (fun u => { u with vq := [vecJob] })).un.vq ≠ [] ∧ (rig []).un.vq = [] ∧ (rig []).un.mq = [] := by decide +kernel
/-- Sizes 2^8 and 2^16 are allocated, 2^7 and 2^17 are not. -/
theorem wit_tballoc : Ready (rig [(1, full 256)]) (sx16 0) [(.g 1, false)] (some (.g 3)) [⟨256, false⟩] ∧
    (256 : Nat) = 2 ^ 8 ∧ (65536 : Nat) = 2 ^ 16 ∧ (∀ k, 8 ≤ k → k ≤ 16 → (128 : Nat) ≠ 2 ^ k) ∧
    (allocBlk (arenaFree 0) 8).isSome = true ∧ allocBlk [] 8 = none ∧
    Ready (rig [(1, bad 256)]) (sx16 0) [(.g 1, false)] (some (.g 3)) [⟨256, true⟩] := by
  have far (k : Nat) (low : 8 ≤ k) : (128 : Nat) ≠ 2 ^ k := by
    have : (2 : Nat) ^ 8 ≤ 2 ^ k := Nat.pow_le_pow_right (by decide) low
    omega
  have rest : ∀ l : List Nat, l = [8, 16] → (256 : Nat) = 2 ^ l.head! ∧ (65536 : Nat) = 2 ^ l.getLast! := by rintro _ rfl; decide
  unfold Ready
  exact ⟨by decide +kernel, (rest _ rfl).1, (rest _ rfl).2, fun k low _ => far k low, by decide +kernel⟩
theorem wit_tbstat : 31 < (32#64).toNat ∧ (31#64).toNat ≤ 31 := by decide
/-- A block at 0x100 in use; descriptors of it that are new, Filling and Draining. -/
def tbRig (st : BufState) (v : Bool) : State :=
  rigUnit [(1, full 3), (2, full 0x100)] (fun u => { u with alloc := [⟨0x100, 8, true⟩], bufs := if v then [(3, ⟨true, st, 0, 0x100⟩)] else [] })
theorem wit_tbfree : (tbRig .empty false).un.blockAt 0x100 ≠ none ∧ (tbRig .empty false).un.blockAt 0x200 = none ∧
    (∃ e ∈ (tbRig .full true).un.bufs, e.2.v = true ∧ e.2.base = 0x100 ∧ e.2.st ≠ .empty) ∧
    ¬ (∃ e ∈ (tbRig .empty true).un.bufs, e.2.v = true ∧ e.2.base = 0x100 ∧ e.2.st ≠ .empty) ∧
    Ready (tbRig .empty false) (sx16 0) [(.g 2, false)] none [⟨0x100, false⟩] :=
  by unfold Ready; decide +kernel
theorem wit_tbset : Ready (tbRig .filling true) (sx16 0) [(.g 1, false), (.g 2, false)] none [⟨3, false⟩, ⟨0x100, false⟩] ∧
    (((tbRig .filling true).un.bufs.get .reset 3).v = true ∧ ((tbRig .filling true).un.bufs.get .reset 3).st = .filling) ∧
    ((tbRig .empty false).un.bufs.get .reset 3).v = false ∧ (tbRig .empty false).un.blockAt 0x100 = some ⟨0x100, 8, true⟩ ∧
    ((tbRig .draining true).un.bufs.get .reset 3).st = .draining ∧ ((tbRig .full true).un.bufs.get .reset 3).st = .full :=
  by unfold Ready; decide +kernel

/-! ## TileBufferAndAccessFormsComplete: tile buffers -/

/-- The conditions under which each tile-buffer instruction completes, and what it then answers. -/
theorem wit_tballoc_free : (∀ y ∈ (tbRig .empty false).un.alloc, y.used = true ∨ y.lg < 8) ∧
    (rigUnit [(1, full 256)] (fun u => { u with alloc := [⟨0, 9, false⟩] })).un.alloc = [⟨0, 9, false⟩] ∧
    ((rig []).cx.reg 3).depth = 0 ∧ ((rig []).coreAt 0).lbuf = [] := by decide +kernel
theorem wit_tbfree_ok : (∃ y ∈ (tbRig .empty true).un.alloc, y.off = 0x100 ∧ y.used = true) ∧
    ∀ e ∈ (tbRig .empty true).un.bufs, e.2.v = true → e.2.base = 0x100 → e.2.st = .empty := by decide +kernel
theorem wit_tbset_ok : ((tbRig .filling true).un.bufs.get .reset 3).base = 0x100 ∧
    ((tbRig .filling true).un.bufs.get .reset 3).st ≠ .empty ∧ ((tbRig .empty true).un.bufs.get .reset 3).st = .empty ∧
    ((tbRig .empty true).un.bufs.get .reset 3).v = true := by decide +kernel
theorem test_tile_buffers :
    let g3 (o : Out) : Word := match o with | .next t => (t.cx.reg 3).v | _ => 99
    let st (o : Out) : Option BufState := match o with | .next t => some (t.un.bufs.get .reset 3).st | _ => none
    let al (o : Out) : List Blk := match o with | .next t => t.un.alloc | _ => []
    let split := exec (.tballoc ga) (rigUnit [(1, full 256)] (fun u => { u with alloc := [⟨0, 9, false⟩] }))
    g3 (exec (.tballoc ga) (rigUnit [(1, full 256)] (fun u => { u with alloc := [] }))) = BitVec.allOnes 64 ∧
    g3 split = 0 ∧ (⟨0, 8, true⟩ : Blk) ∈ al split ∧
    al (exec (.tbfree ⟨.g 2, false, 0⟩) (tbRig .empty true)) = [⟨0x100, 8, false⟩] ∧
    st (exec (.tbset .full (.g 1) false (.g 2) false 0) (tbRig .filling true)) = some .full ∧
    st (exec (.tbset .filling (.g 1) false (.g 2) false 0) (tbRig .empty false)) = some .filling := by decide +kernel

end Sys2Proof.Tests
end

