-- ==== Sys2Proof/Tests/WitnessF.lean ====
section
/-!
SUPPORT. Witnesses: states that meet the hypotheses of the statements on stages, poison marks, registers, traps and upcalls.
-/
set_option Elab.async false
namespace Sys2Proof.Tests
open Sys2Proof.Machine Sys2Proof.Claims

/-! ## Reading from the cells of one range -/

/-- A memory with only the cells of n bytes at a. -/
def near (m : PMem) (a n : Nat) : PMem := { m with bytes := m.bytes.filter (fun c => a ≤ c.1 && c.1 < a + n) }
theorem get_filter {α : Type} (d : α) (p : Nat → Bool) (t : Tab α) (k : Nat) (h : p k = true) :
    Tab.get d (t.filter (fun c => p c.1)) k = Tab.get d t k := by
  induction t with
  | nil => rfl
  | cons e t ih =>
    by_cases he : p e.1 = true
    · simp only [List.filter_cons, he, if_true, Tab.get, ih]
    · have hk : e.1 ≠ k := fun hk => he (hk ▸ h)
      simp only [List.filter_cons, he, Tab.get, hk, ih, if_false, Bool.false_eq_true]
/-- A read needs only its own cells; with it a witness looks through one short list for each read. -/
theorem read_near (m : PMem) (a n : Nat) : m.read a n = (near m a n).read a n :=
  (Memory.readLE_congr m.bytes (near m a n).bytes a n (fun i hi =>
    get_filter Memory.blankByte (fun k => decide (a ≤ k) && decide (k < a + n)) m.bytes (a + i)
      (by simp only [Bool.and_eq_true, decide_eq_true_eq]; omega))).symm
theorem lanes_near (m : PMem) (base : Nat)
    (h : (upto 48).all (fun n => laneOk ((near m (laneAt base (n / 3) (n % 3)) 64).read (laneAt base (n / 3) (n % 3)) 64)) = true) :
    (upto 48).all (fun n => laneOk (m.read (laneAt base (n / 3) (n % 3)) 64)) = true := by
  simpa only [← read_near] using h
/-- The parts of krtOk, each read from its own cells. -/
theorem krtOk_near (s : State) (base : Nat) (l : List Krt) (hp : s.krtPoison base = false)
    (hl : (upto 16).map (fun i => Krt.ofNat ((near s.mem (base + 32 * i) 32).read (base + 32 * i) 32)) = l)
    (hz : (upto 16).all (fun i => fieldOf ((near s.mem (base + 32 * i) 32).read (base + 32 * i) 32) 4 10 == 0) = true)
    (hk : (l.all (fun k => k.st < 7) && rangesOk (l.filter (·.routes))) = true)
    (hh : (upto 48).all (fun n => laneOk ((near s.mem (laneAt base (n / 3) (n % 3)) 64).read (laneAt base (n / 3) (n % 3)) 64)) = true) :
    s.krtOk base = true := by
  have hl' : s.krts base = l := by
    simp only [← read_near] at hl
    exact hl
  simp only [← read_near] at hz
  simp only [State.krtOk, hl', hp, hz, lanes_near _ _ hh, Bool.not_false, Bool.true_and, Bool.and_true]
  exact hk

/-! ## StageInstructions, StageEvents -/

/-- An entry of the stage table: handler and routines at 0x40000000, KRT at 0x4000010000, state buffers of 256 bytes. -/
def stageEntry : Nat :=
  0x40000000 + 0x40000000 * 2 ^ 64 + 0x40000000 * 2 ^ 128 + 4 * 2 ^ 192 + 2 * 2 ^ 224 + 1 * 2 ^ 256 + 1 * 2 ^ 264 + 16 * 2 ^ 272 +
  10 * 2 ^ 280 + 0x4000010000 * 2 ^ 320 + 0x40010000 * 2 ^ 384
/-- A valid lane header with its fast part in the carve-out, no brim, n records. -/
def laneHdr (n : Nat) : Nat := ({ bbase := 0, fbase := 0x4000040000, bcnt := 0, bhead := 0, blog := 0, fcnt := n, fhead := 0 } : Lane).nat
/-- The bytes of a number that are not zero. -/
def cells (a n v : Nat) : List Host.Cell :=
  (upto n).filterMap (fun i => if v / 256 ^ i % 256 = 0 then none else some (a + i, BitVec.ofNat 8 (v / 256 ^ i)))
/-- The tables of the rig, stage 2 of address space 1, its KRT with the given entry 0, and its lanes, empty but for direct
lane 0. -/
def stageMem (k : Krt) (n : Nat) : PMem :=
  ⟨cells 0x10000 8 0x11001 ++ cells 0x11000 8 0x12001 ++ cells 0x12008 8 0x7000004000003F ++ cells 0x40005080 64 stageEntry ++
    cells 0x4000000040 32 (0x10001 + 0x40005000 * 2 ^ 192) ++ cells 0x4000010000 32 k.nat ++ cells 0x4000010200 64 (laneHdr n) ++
    (upto 47).map (fun i => (laneAt 0x4000010000 ((i + 1) / 3) ((i + 1) % 3) + 20, 64)),
   [], [], [], []⟩
def krt0 (st : Nat) : Krt := { hi := 0, lo := 0, ring := 0, thread := 0, key := 0, orig := 0, twin := 0, ov := false, tv := false, st := st }
def stageRig (g : List (Nat × GReg)) (st n : Nat) (x : Inst) : State :=
  { rig g with mem := stageMem (krt0 st) n, stages := [(258, { StageRt.reset with inst := true, insts := [(0, x)] })] }
/-- Instance 0 of the stage runs as thread 1. -/
def inst1 : Inst := { Inst.reset with thread := 1 }

theorem wit_stage_sound :
    let s := stageRig [] 1 0 inst1
    s.installed 1 2 = true ∧ s.stageEnt 1 2 = some stageEntry ∧ s.krtOk (s.stage 1 2).krt = true ∧ stageEntOk stageEntry = true ∧
    s.instOf 1 = some (258, 0) ∧ (rig []).installed 1 2 = false ∧ (rig []).instOf 1 = none := by
  have hk : ((stageRig [] 1 0 inst1).stage 1 2).krt = 0x4000010000 := by decide +kernel
  have ok : (stageRig [] 1 0 inst1).krtOk 0x4000010000 = true := by
    apply krtOk_near _ _ (krt0 1 :: List.replicate 15 (.ofNat 0)) <;> decide +kernel
  simp only [hk, ok, true_and]
  decide +kernel
/-- The stage is sound, so its entries route. -/
theorem wit_routable : (stageRig [] 1 0 inst1).routable 1 2 = true ∧ stageRsv stageEntry = false ∧
    stageRsv (stageEntry + 2 ^ 300) = true := by
  have sound := wit_stage_sound
  simp only at sound
  have free : stageRsv stageEntry = false ∧ stageRsv (stageEntry + 2 ^ 300) = true := by decide +kernel
  simp only [State.routable, sound.2.1, sound.2.2.1, free, Bool.not_false, Bool.and_self, and_self]
/-- ENQ of stage 2 with a record in g8 to g15 and key 5. -/
def recRegs : List (Nat × GReg) := [(1, full 2)] ++ (upto 8).map (fun i => (8 + i, full (if i = 0 then 5 else 9)))
theorem wit_enq :
    let s := stageRig recRegs 1 0 inst1
    Ready s (sx16 0) ((.g 1, false) :: recSrcs (.g 8)) (some (.g 3)) (⟨2, false⟩ :: ⟨5, false⟩ :: List.replicate 7 ⟨9, false⟩) ∧
    s.routeKey (s.stage 1 2).krt 5 = some 0 ∧ s.cx.enq = none ∧
    s.enqBehind 1 2 s.clk = false ∧
    (s.pushLane (s.laneFor (s.stage 1 2).krt 0 5) (⟨5, false⟩ :: List.replicate 7 ⟨9, false⟩)).isSome = true ∧
    ((stageRig recRegs 1 4096 inst1).pushLane ((stageRig recRegs 1 4096 inst1).laneFor (s.stage 1 2).krt 0 5)
      (⟨5, false⟩ :: List.replicate 7 ⟨9, false⟩)) = none := by
  unfold Ready; decide +kernel
/-- The record of an ENQW that waits, for direct lane 0 with room, and one that the governor has completed. -/
theorem wit_enqw_waiting :
    let h (dead : Bool) : EnqHold := ⟨0x40000000, 1, 2, 0, laneAt 0x4000010000 0 0, 0, ⟨5, false⟩ :: List.replicate 7 ⟨9, false⟩, dead⟩
    let s (dead : Bool) := (stageRig recRegs 1 0 inst1).modCtx 1 0 (fun c => { c with wait := .enqw 1 2 0, enq := some (h dead) })
    (s false).runs = true ∧ (s false).room ((.g 1, false) :: recSrcs (.g 8)) (.g 3) = true ∧ (s false).cx.enq = some (h false) ∧
    (h false).pc = (s false).cx.pc ∧ (s false).cx.wait = .enqw 1 2 0 ∧ (s false).enqBehind (h false).asid (h false).stage (h false).at_ = false ∧ (s false).installed 1 2 = true ∧
    ((s false).enterLane (h false)).isSome = true ∧
    ((s false).pushLane (h false).lane (h false).vals).isSome = true ∧ (s true).cx.enq = some (h true) := by decide +kernel
/-- A helper has waited in an ENQW of the stage since clk 0; its instance's range has changed so that the record's lane is an old one. -/
theorem wit_enqw_order :
    let h : EnqHold := ⟨0x40000000, 1, 2, 0, laneAt 0x4000010000 0 0, 0, ⟨5, false⟩ :: List.replicate 7 ⟨9, false⟩, false⟩
    let s : State := { (stageRig recRegs 1 0 inst1).modUnit 1 (fun u => u.modCtx 1 (fun c => { c with
      live := true, wait := .enqw 1 2 0, enq := some h })) with clk := 9 }
    let cut (lo : Nat) : State := { s with mem := stageMem { krt0 1 with lo := lo } 0 }
    s.enqBehind 1 2 s.clk = true ∧ s.enqBehind 1 2 0 = false ∧ s.routedOld (s.stage 1 2).krt 0 h = false ∧
    (cut 6).routedOld (s.stage 1 2).krt 0 h = true ∧ ((cut 6).pushLane h.lane h.vals).isSome = true ∧
    s.enqWaiting 258 (·.inst == 0) = true := by decide +kernel
theorem wit_enq_poisoned : Ready (stageRig ((8, bad 5) :: recRegs) 1 0 inst1) (sx16 0) ((.g 1, false) :: recSrcs (.g 8)) (some (.g 3))
    (⟨2, false⟩ :: ⟨5, true⟩ :: List.replicate 7 ⟨9, false⟩) := ⟨rfl, rfl, rfl, rfl⟩
theorem wit_lanes : ((stageRig [] 1 0 inst1).lane (laneAt 0x4000010000 0 0)).bcnt = 0 ∧
    ((stageRig [] 1 0 inst1).lane (laneAt 0x4000010000 0 0)).fcnt < 4096 ∧
    ((stageRig [] 1 4096 inst1).lane (laneAt 0x4000010000 0 0)).fcnt = 4096 ∧
    ((stageRig [] 1 4096 inst1).lane (laneAt 0x4000010000 0 0)).bcnt = ((stageRig [] 1 4096 inst1).lane (laneAt 0x4000010000 0 0)).brim := by
  decide +kernel
theorem wit_deq : Ready (stageRig [] 1 0 inst1) 0 [] none [] ∧ (inst1.delivered = false ∧ (stageRig [] 1 0 inst1).routineDue 258 0 = false) ∧
    (stageRig [] 6 0 inst1).routineDue 258 0 = true ∧ ({ inst1 with delivered := true } : Inst).delivered = true :=
  by unfold Ready; decide +kernel
/-- A landing of a delivered record is on its way to the unit, and there is none. -/
theorem wit_recdone :
    let l : Landing := { schip := 0, sthread := 1, skey := 0, sctx := 0, sasid := 1, spart := 0, mra := 2 ^ 30 + 8 * 2 ^ 5, val := .zero
                         tl := none, urj := false, refusedAt := none, via := none, bounces := 0, own := false, tag := none, gov := true }
    let s := stageRig [] 1 0 { inst1 with delivered := true }
    s.recLanding = false ∧ ({ s with flight := [l] } : State).recLanding = true ∧ (s.inst 258 0).delivered = true := by decide +kernel
theorem wit_splitok :
    let s := stageRig [(1, full 100)] 2 0 { inst1 with routine := .split, forTwin := 1 }
    Ready s (sx16 0) [(.g 1, false)] none [⟨100, false⟩] ∧ (s.inst 258 0).routine = .split ∧ (s.inst 258 0).forTwin ≠ 0 ∧
    (s.stageAt 258).stopped = false ∧ (s.krt (s.stage 1 2).krt 0).lo < 100 ∧ 100 < (s.krt (s.stage 1 2).krt 0).top :=
  by unfold Ready; decide +kernel
theorem wit_mergeok :
    let s := { stageRig [] 6 0 { inst1 with routine := .merge } with mem := stageMem { krt0 6 with twin := 1, tv := true } 0 }
    (s.inst 258 0).routine = .merge ∧ (s.stageAt 258).stopped = false ∧ (s.krt (s.stage 1 2).krt 0).twin ≠ 0 := by decide +kernel
/-- A stage command to install stage 2 of address space 1, and one to uninstall it. -/
theorem wit_stage_commands :
    let cmd (op : Nat) (s : State) : State := { s with parts := [(0, { Part.reset with stCmd := some (BitVec.ofNat 64 (op * 2 ^ 62 + 2 * 2 ^ 16 + 1)) })] }
    let s := cmd 1 { stageRig [] 0 0 inst1 with stages := [], mem := stageMem (krt0 0) 0 }
    let t := cmd 2 (stageRig [] 1 0 inst1)
    let b := cmd 2 (stageRig [] 2 0 inst1)
    (s.part 0).stCmd = some (BitVec.ofNat 64 (1 * 2 ^ 62 + 2 * 2 ^ 16 + 1)) ∧ s.boot.stopped = false ∧
    s.asValid 1 = true ∧ s.asPart 1 = 0 ∧ (s.stageAt 258).inst = false ∧ s.stageEnt 1 2 = some stageEntry ∧ s.krtPoison 0x4000010000 = false ∧
    s.mem.read 0x4000010000 512 = 0 ∧ (upto 48).all (fun m => laneOk (s.mem.read (laneAt 0x4000010000 (m / 3) (m % 3)) 64)) = true ∧
    (t.stageAt 258).inst = true ∧ (t.krt 0x4000010000 0).st = 1 ∧ (b.krt 0x4000010000 0).st = 2 := by
  intro cmd s t b
  have blank : s.mem.read 0x4000010000 512 = 0 := by rw [read_near]; decide +kernel
  have lanes := lanes_near s.mem 0x4000010000 (by decide +kernel)
  simp only [blank, lanes, true_and]
  decide +kernel
/-- A core that the governor can take, and an instance that has one. -/
theorem wit_instance_start :
    let slot : Slot := { slotBlank with v := true, lend := true }
    let s := { stageRig [] 1 0 Inst.reset with slots := [(1, slot)] }
    let t := stageRig [] 1 0 { Inst.reset with core := 1, slotKept := some slot }
    (s.inst 258 0).taken = false ∧ (t.inst 258 0).taken = true ∧ (s.part 0).inReset = false ∧
    (s.pickStageCore 0 (s.stagePrio 0 (s.stage 1 2)) none).isSome = true ∧ (t.coreAt 1).st = .idle ∧ t.awake 1 = true ∧ t.threadFree 2 = true ∧
    (allocBlk (arenaFree (t.launchAt (inPart 0 0)).arena) (t.stage 1 2).lg).isSome = true := by decide +kernel
/-- A twin whose copy of four lines succeeds, one that fails at its first line, and one that is not through. -/
theorem wit_twin_start :
    let slot : Slot := { slotBlank with v := true, lend := true }
    let s := { stageRig [] 3 0 { Inst.reset with core := 1, slotKept := some slot } with
      mem := stageMem { krt0 3 with ov := true } 0 }
    let c (n : Nat) := s.copyLines 258 0 0 0x40010000 false .notPresent true n
    (s.krt 0x4000010000 0).ov = true ∧ (s.krt 0x4000010000 0).st = 3 ∧ s.govBusy 258 0 = false ∧ (s.inst 258 0).after = [] ∧
    (s.inst 258 0).afterOps = [] ∧ s.threadFree 2 = true ∧ (s.stage 1 2).lg = 8 ∧
    (allocBlk (arenaFree (s.launchAt (inPart 0 0)).arena) 8).map (·.2) = some 0 ∧
    ((c 4).stageAt 258).stopped = false ∧ ((c 4).inst 258 0).pos = 256 ∧ ((c 3).inst 258 0).pos = 192 ∧
    (match s.bulkAt 0 1 0x80010000 false .notPresent with | .fail _ => true | _ => false) = true :=
  by decide +kernel
theorem wit_brim :
    let h : Lane := { bbase := 0x40020000, fbase := 0x4000040000, bcnt := 1, bhead := 0, blog := 10, fcnt := 0, fhead := 0 }
    let s : State := { stageRig [] 1 0 inst1 with mem := (stageMem (krt0 1) 0).write (laneAt 0x4000010000 0 0) 64 h.nat false }
    0 < (s.lane (laneAt 0x4000010000 0 0)).bcnt ∧ (s.lane (laneAt 0x4000010000 0 0)).fcnt < 4096 := by decide +kernel
theorem wit_delivery :
    let s := stageRig [] 1 1 { inst1 with deq := true }
    (s.inst 258 0).parked = false ∧ s.takeNext 258 0 = .deliver 0 ∧ (s.headOf (laneAt 0x4000010000 0 0)).isSome = true ∧ s.instRuns 258 0 = true := by decide +kernel
theorem wit_markers :
    let s := { stageRig [] 1 1 { inst1 with deq := true } with
      stages := [(258, { StageRt.reset with inst := true, insts := [(0, { inst1 with deq := true })], markers := [(0, 0, 0)] })] }
    let t := { stageRig [] 3 0 { inst1 with deq := true } with
      stages := [(258, { StageRt.reset with inst := true, insts := [(0, { inst1 with deq := true })], markers := [(0, 1, 0)] })] }
    s.takeNext 258 0 = .markerOut ∧ t.takeNext 258 0 = .markerIn := by decide +kernel
theorem wit_routine_entry :
    let s := (stageRig [] 2 0 { inst1 with deq := true }).modCtx 1 0 (fun c => { c with wait := .reg })
    let t := (stageRig [] 6 0 { inst1 with deq := true }).modCtx 1 0 (fun c => { c with wait := .reg })
    s.routineDue 258 0 = true ∧ s.withdrawable 258 0 = true ∧ t.routineDue 258 0 = true ∧ t.withdrawable 258 0 = true :=
  by decide +kernel
theorem wit_quiesce :
    let s := (stageRig [] 5 0 { inst1 with deq := true }).modCtx 1 0 (fun c => { c with wait := .reg })
    let c := s.copyLines 258 0 0 0x40010000 true .notPresent true 4
    (s.krt 0x4000010000 0).st = 5 ∧ s.quiescent 258 0 = true ∧ s.govBusy 258 0 = false ∧
    (c.stageAt 258).stopped = false ∧ (c.inst 258 0).pos = 256 ∧
    (s.copyLines 258 0 0 0x80010000 true .notPresent true 4).stageAt 258 = { s.stageAt 258 with stopped := true } :=
  by decide +kernel
theorem wit_stage_stop : ((stageRig [] 1 0 { inst1 with thread := 2 }).thr 2).st = .closed ∧
    (stageRig [] 1 0 { inst1 with thread := 2 }).stageEnt 1 2 ≠ none ∧ (rig []).stageEnt 1 2 = none ∧
    ({ stageRig [] 1 0 inst1 with mem := (stageRig [] 1 0 inst1).mem.setPoison (0x4000010000 / 8) true } : State).krtPoison 0x4000010000 = true := by
  decide +kernel

/-! ## Poison marks, signatures and registers -/

theorem wit_pchk : Ready (rig [(1, bad 5)]) 0 [(.g 1, true)] (some (.g 3)) [⟨5, true⟩] ∧ Ready (rig [(1, bad 5)]) 0 [(.g 1, false)] none [⟨5, true⟩] ∧
    Ready (rig []) 0 [(.x 2, false)] none [.zero] := by unfold Ready; decide +kernel
theorem wit_sig :
    let s := rigged [] (fun c => { c with assay := ⟨true, 1, 0⟩ })
    s.cx.assay.armed = true ∧ s.cx.assay.c ≠ s.cx.assay.e ∧ (rig []).cx.assay.armed = false := by decide +kernel
theorem wit_upmask : Ready (rig []) (sx16 1) [(.imm, false)] (some (.g 3)) [⟨1, false⟩] ∧
    Ready (rig [(1, bad 1)]) (sx16 0) [(.g 1, false)] (some (.g 3)) [⟨1, true⟩] := ⟨⟨rfl, rfl, rfl, rfl⟩, ⟨rfl, rfl, rfl, rfl⟩⟩
/-- A number outside the map, a supervisor's register, a read-only one, a writable one; user and supervisor mode. -/
theorem wit_csr : csrAcc 0xFFF = none ∧ csrAcc 0x031 = some (.no, .rw) ∧ csrAcc 0x021 = some (.ro, .rw) ∧ csrAcc 0x020 = some (.rw, .rw) ∧
    csrAcc 0x001 = some (.ro, .ro) ∧ (rig []).cx.priv = false ∧ (sup []).cx.priv = true := by decide +kernel
theorem wit_csrw : Ready (rig [(1, full 5)]) 0 [(.g 1, false)] none [⟨5, false⟩] ∧ Ready (rig [(1, bad 5)]) 0 [(.g 1, false)] none [⟨5, true⟩] ∧
    (rig []).drawBusy = false := ⟨⟨rfl, rfl, rfl, rfl⟩, ⟨rfl, rfl, rfl, rfl⟩, by decide +kernel⟩

/-! ## Traps, upcalls, fetch, notices, invalidations -/

theorem wit_trap : Ready (rig []) 0 [] none [] ∧ targetOk ((rig []).part (rig []).un.part).tvec = true := ⟨⟨rfl, rfl, rfl, rfl⟩, by decide +kernel⟩
/-- The handler of TRAP 3 at the rig's instruction. -/
theorem wit_trap_handler :
    let u := rigged [] (fun c => { c with priv := true, tpc := 0x40000008, tpcSame := true })
    Ready u 0 [] none [] ∧ u.cx.priv = true ∧ u.cx.tpc = (rig []).cx.pc + BitVec.ofNat 64 (rig []).len ∧ targetOk u.cx.tpc = true :=
  by unfold Ready; decide +kernel
theorem wit_tret :
    let u := rigged [] (fun c => { c with priv := true, tpc := 0x40000008 })
    let b := rigged [] (fun c => { c with priv := true, tpc := 2 })
    Target u.cx.tpc ∧ ¬ Target b.cx.tpc ∧ u.cx.priv = true ∧ (rig []).cx.priv = false ∧ Ready u 0 [] none [] ∧ Ready b 0 [] none [] :=
  by unfold Target Ready; decide +kernel
theorem wit_trap_entry : (rig []).runs = true ∧ Target ((rig []).part 0).tvec ∧
    ¬ Target (({ rig [] with parts := [(0, { Part.reset with tvec := 2 })] } : State).part 0).tvec ∧ ((rig []).thr 1).st ≠ .closed :=
  by unfold Target; decide +kernel
theorem wit_upcall : (rig []).cx.uen = true ∧ (rig []).cx.uact = false ∧ (rig []).cx.priv = false ∧ Target (rig []).cx.uvec ∧
    ¬ Target (rigged [] (fun c => { c with uvec := 2 })).cx.uvec := by unfold Target; decide +kernel
theorem wit_upret :
    let s := rigged [] (fun c => { c with uact := true, upc := 0x40000010 })
    s.cx.uact = true ∧ Target s.cx.upc ∧ ¬ Target (2 : Word) := by unfold Target; decide +kernel
/-- A page that is not valid, an entry that is not, a page without X, a poisoned line, and words that do not decode. -/
theorem wit_fetch :
    let at_ (pc : Word) (s : State) : State := s.modCtx 1 0 (fun c => { c with pc := pc })
    (at_ 0x80000000 (rig [])).fetchAt.2 = .fault .notValid 0x12010 ∧
    ({ rig [] with mem := .blank } : State).fetchAt.2 = .fault .entryInvalid 0 ∧
    ({ rig [] with mem := (rig []).mem.write 0x12008 8 (0x7000004000003F - 0x10) false } : State).fetchAt.2 ≠ .pad ∧
    ({ rig [] with mem := (rig []).mem.setPoison (0x40000000 / 8) true } : State).fetchAt.2 = .fault .poisoned 0 ∧
    (rig []).fetchAt.2 = .reject (cz 0x001) 0x40000000 ∧ (rig []).fetchAt.2.stops = true ∧ (rig []).runs = true ∧
    ({ rig [] with mem := (rig []).mem.write 0x12008 8 0x7000000000023F false } : State).fetchAt.2 = .fault .hostNotPresent 0 := by
  decide +kernel
def note1 : Notice := ⟨1, 0, 0, cz 0x508, 7, none⟩
theorem wit_notice_arrival :
    let s : State := { rig [] with notes := [note1] }
    let t : State := s.modThr 1 (fun e => { e with notices := [(0, List.replicate 8 note1)] })
    s.notes[0]? = some note1 ∧ s.noticeLive note1 = true ∧ ((s.thr 1).notices.get [] 0).length < 8 ∧
    8 ≤ ((t.thr 1).notices.get [] 0).length ∧ ({ rig [] with notes := [{ note1 with thread := 2 }] } : State).noticeLive { note1 with thread := 2 } = false := by
  decide +kernel
theorem wit_notice_due :
    let s : State := (rigged [] (fun c => { c with uvec := 0x40000010 })).modThr 1 (fun e => { e with notices := [(0, [note1])] })
    let t : State := { s with mem := s.mem.write 0x40000000 16 0x9C false }
    s.noticeDue 0 0 = some note1 ∧ s.fetchAt.2.stops = true ∧ t.noticeDue 0 0 = some note1 ∧ t.fetchAt.2.stops = false ∧ Target t.cx.uvec := by
  unfold Target; decide +kernel
theorem wit_tinv :
    let s := sup [(1, full 1), (2, full 0x40000000), (3, full 0x1000)]
    Ready s 0 [(.g 1, false), (.g 2, false), (.g 3, false)] none [⟨1, false⟩, ⟨0x40000000, false⟩, ⟨0x1000, false⟩] ∧
    s.asPart ((1#64).toNat % 65536) = s.un.part ∧
    ({ s with mem := s.mem.write (s.asBase + 64) 8 0x10003 false } : State).asPart 1 ≠ s.un.part ∧ canonical 0x40000000 = true ∧
    canonical 0x100000000000000 = false :=
  by unfold Ready; decide +kernel
theorem wit_tsync :
    let s := rigged [] (fun c => { c with priv := true, invIss := 1 })
    (sup []).owes = false ∧ s.cx.invDone ≠ s.cx.invIss ∧ (sup []).cx.invDone = (sup []).cx.invIss ∧ Ready (sup []) 0 [] none [] :=
  by unfold Ready; decide +kernel
/-- An accepted access of the context has yet to be performed. -/
theorem wit_tinv_owes : (({ sup [] with reqs := [{ (sup []).newReq .st 0x40000100 .d .plain with phase := .accepted }] } : State)).owes = true ∧
    (sup []).cx.priv = true := by decide +kernel
theorem wit_idle : (rig []).cx.wait ≠ .woken ∧ (rigged [] (fun c => { c with wait := .woken })).cx.wait = .woken := by decide +kernel
theorem wit_invalidation :
    let v : Inval := ⟨1, 0, 0, 1, []⟩
    let s : State := { rig [] with invs := [v] }
    s.invs.find? (fun v => v.thread == 1 && v.ctx == 0) = some v ∧ (s.thr 1).key = v.key ∧ (s.thr 1).st ≠ .closed ∧
    (∀ i ∈ v.waits, ∀ r ∈ s.reqs, r.id = i → r.phase = .performed) := by decide +kernel
theorem wit_monitor :
    let m : Monitor := ⟨some 0x12008, 0, 1, 0x40000000, 0, 1, 0, 0, false⟩
    let s : State := { rig [] with monitors := [m] }
    s.monitors[0]? = some m ∧ (s.mem.read 0x12008 8).testBit 0 = true ∧ m.chip = s.peer ∧ ({ m with hit := true } : Monitor).hit = true ∧ m.hit = false ∧ m.pte = some 0x12008 ∧ ({ m with chip := 5 } : Monitor).chip ≠ s.peer := by
  decide +kernel

end Sys2Proof.Tests
end

