-- ==== Sys2Proof/Tests/WitnessG.lean ====
section
/-!
SUPPORT. Witnesses: states that meet the hypotheses of the statements on halts, saves and restores, records, groups and gangs, and the fabric.
-/
set_option Elab.async false
namespace Sys2Proof.Tests
open Sys2Proof.Machine

/-! ## HaltSaveAndRestoreEvents -/

/-- A core bound to partition 0 that serves every bucket. -/
def slot0 : Slot := { slotBlank with v := true, bhi := 255, pwr := 1 }
/-- A record of launch 5 in bucket 0. -/
def rec0 (k : RKind) (level : Nat) : Rec :=
  { id := 9, part := 0, asid := 1, launch := 5, k := k, place := .bucket 0, level := level, enq := 0, frame := 0x100000
    img := { RecImg.zero with pc := 0x40000000 }, thread := 2, key := 0, next := 0, haltNo := 0, spun := false }
/-- The rig with cores 0 and 1 bound, at a late clk, with one record. -/
def schedRig (r : Rec) : State := { rig [] with slots := [(0, slot0), (1, slot0)], recs := [r], clk := 0x10000000 }
/-- Its core 0, changed. -/
def onCore (r : Rec) (f : Core → Core) : State := (schedRig r).modCore 0 f

theorem wit_halt_asked :
    let s := schedRig (rec0 .posted 3)
    let l := (s.setLaunch (inPart 0 0) { Launch.reset with canc := true })
    let t := s.modUnit 1 (fun u => u.modCtx 0 (fun c => { c with wait := .reg }))
    let z : State := { s with parts := [(0, { Part.reset with inReset := true })] }
    let p : State := { s with slots := [(0, slot0)] }
    (s.coreAt 0).st = .running ∧ (s.coreAt 0).halt = none ∧ s.candidate 0 (rec0 .posted 3) = true ∧ (s.unitAt 1).prio < 3 ∧
    p.placement (rec0 .posted 3) = some (0, 284) ∧
    s.boot.away = false ∧ (l.launchAt (inPart 0 0)).canc = true ∧ (z.part 0).inReset = true ∧
    (s.unitAt 1).bindClk + 2 ^ (s.part 0).slice ≤ s.clk ∧
    (t.unitAt 1).ctxs.all (fun x => !x.2.live || (match t.spinSince 1 x.1 with | some a => a + 2 ^ (s.part 0).spin ≤ s.clk | none => false)) = true := by
  decide +kernel
/-- With a NOP at its pc, nothing that its halt waits for. -/
theorem wit_halt_goes_on :
    let s := onCore (rec0 .posted 3) (fun c => { c with halt := some .slice })
    let s : State := { s with mem := s.mem.write 0x40000000 16 0x9C false }
    (s.coreAt 0).st = .running ∧ s.rolling 1 = false ∧ s.chunkQueued 0 1 = false ∧ (upto 11).all (fun x => !s.boundaryStop 0 x) = true := by
  decide +kernel
theorem wit_halts : ((onCore (rec0 .posted 3) (fun c => { c with halt := some .slice })).coreAt 0).halt ≠ none ∧
    ((onCore (rec0 .posted 3) (fun c => { c with halt := some .slice, st := .halted })).coreAt 0).st = .halted ∧
    ((onCore (rec0 .posted 3) (fun c => { c with halt := some .slice, st := .saving })).coreAt 0).st = .saving ∧
    some HaltWhy.slice ≠ some .cancel ∧ some HaltWhy.slice ≠ some .reset ∧ (schedRig (rec0 .posted 3)).instOf 1 = none := by decide +kernel
/-- Thread 2 is saved, and core 1 has selected its entry. -/
def savedRig : State :=
  ((schedRig (rec0 .saved 3)).modCore 1 (fun c => { c with sel := some 9 })).setThr 2
    { Thread.reset with st := .saved, asid := 1, addr := 0x200000, loc := 1 }
theorem wit_restore :
    let s := savedRig
    let b : State := { s with mem := s.mem.setPoison (0x200000 / 8) true }
    (s.thr 2).st = .saved ∧ (s.coreAt 1).st = .idle ∧ s.restoreDue 1 2 = true ∧ (s.csaHits 2).contains .unusable = false ∧
    (b.csaHits 2).contains .unusable = true ∧ b.restoreDue 1 2 = true := by decide +kernel
theorem wit_restoring : ((onCore (rec0 .posted 3) (fun c => { c with st := .restoring })).coreAt 0).st = .restoring ∧
    ((onCore (rec0 .posted 3) (fun c => { c with st := .halted, halt := some .cancel })).coreAt 0).halt = some .cancel ∧
    ((onCore (rec0 .posted 3) (fun c => { c with st := .halted, halt := some .reset })).coreAt 0).halt = some .reset := by decide +kernel

/-! ## RecordAdmissionAndBindingEvents -/

/-- A ring of 2^4 records at 0x40004000 in address space 1 with the given PROD. -/
def ring0 (prod : Nat) : Ring := { Ring.reset with prod := prod, rbase := 0x40004000, en := true, rlog := 4, rasid := 1 }
/-- A launch record: entry 0x40000000, COUNT 1, launch identifier 5. -/
def launchRec : Nat := 0x40000000 + 5 * 2 ^ 160 + 1 * 2 ^ 576
/-- A ring holds one record. -/
def ringRig (g : Ring) (n : Nat) : State :=
  { rig [] with parts := [(0, { Part.reset with pool := 4, poolBase := 0x100000, rings := [(0, g)] })], mem := (rig []).mem.write 0x40004000 256 n false }
theorem wit_admission :
    let s := ringRig (ring0 1) launchRec
    let old := s.setLaunch (inPart 0 5) { Launch.reset with known := true, count := 1 }
    let x := ringRig { ring0 1 with rasid := 2 } launchRec
    let f := ringRig { ring0 1 with rbase := 0x80000000 } launchRec
    let p : State := { s with mem := s.mem.setPoison (0x40004000 / 8) true }
    let e := (s.part 0).ring 0
    s.boot.stage = 7 ∧ e.en = true ∧ e.err = false ∧ e.prod ≠ e.cons ∧ (s.part 0).inReset = false ∧
    ¬ 2 ^ e.rlog < (e.prod + 2 ^ 32 - e.cons) % 2 ^ 32 ∧ 2 ^ (ring0 17).rlog < ((ring0 17).prod + 2 ^ 32 - (ring0 17).cons) % 2 ^ 32 ∧
    ¬ 2 ^ (ring0 16).rlog < ((ring0 16).prod + 2 ^ 32 - (ring0 16).cons) % 2 ^ 32 ∧
    s.untold 1 0x40004000 = false ∧ s.asValid e.rasid = true ∧ s.asPart e.rasid = 0 ∧ x.asValid 2 = false ∧ f.vread 1 0x80000000 256 = none ∧
    s.vread 1 0x40004000 256 = some (launchRec, false) ∧ (p.vread 1 0x40004000 256).map (·.2) = some true ∧ s.launchOk 0 launchRec = true ∧
    s.launchOk 0 (launchRec - 2 ^ 576) = false ∧ (s.launchAt (inPart 0 5)).known = false ∧ (s.freeFrame 0).isSome = true ∧
    (old.launchAt (inPart 0 5)).known = true ∧ (old.launchAt (inPart 0 5)).count ≠ 0 := by decide +kernel
theorem wit_eligible :
    let s := schedRig { rec0 .posted 3 with place := .gateway 0 }
    let a := (schedRig (rec0 .posted 3)).setLaunch (inPart 0 5) { Launch.reset with known := true, count := 1, ceil := 9 }
    (s.rec? 9).map (·.place) = some (.gateway 0) ∧ s.placeOf { rec0 .posted 3 with place := .gateway 0 } ≠ .gateway 0 ∧
    3 < min (a.part 0).phi (a.launchAt (inPart 0 5)).ceil ∧ 2 ^ (a.part 0).age ≤ a.clk ∧ a.selected 9 = false := by decide +kernel
theorem wit_frame_wait :
    let s := (schedRig (rec0 .posted 3)).modCtx 1 0 (fun c => { c with wait := .frame, waitSince := 1 })
    (s.coreAt 0).st = .running ∧ ((s.unitAt 1).ctxAt 0).wait = .frame ∧ ((s.unitAt 1).ctxAt 0).waitSince + 64 ≤ s.clk := by decide +kernel
theorem wit_select :
    let s := schedRig (rec0 .posted 3)
    s.free 1 = true ∧ s.choose 1 = some (rec0 .posted 3) ∧ s.granted (rec0 .posted 3).bucket = some 1 := by decide +kernel
/-- Core 1 has selected the record, and thread 3 is free. -/
def boundRig (k : RKind) : State := (schedRig (rec0 k 3)).modCore 1 (fun c => { c with sel := some 9 })
theorem wit_bind :
    let s := boundRig .posted
    let b : State := { s with mem := s.mem.setPoison (0x100000 / 8) true }
    (s.coreAt 1).sel = some 9 ∧ s.rec? 9 = some (rec0 .posted 3) ∧ (s.coreAt 1).st = .idle ∧ s.threadFree 3 = true ∧
    s.asValid 1 = true ∧ s.recBad (rec0 .posted 3) = false ∧ b.recBad (rec0 .posted 3) = true ∧
    (boundRig .source).rec? 9 = some (rec0 .source 3) ∧ (boundRig .suspended).rec? 9 = some (rec0 .suspended 3) ∧
    (rec0 .suspended 3).thread = 2 ∧ (boundRig .suspended).recBad (rec0 .suspended 3) = false ∧ (s.part 0).inReset = false ∧
    (({ s with parts := [(0, { Part.reset with inReset := true })] } : State).part 0).inReset = true := by decide +kernel

/-! ## GroupGangAndLaunchEvents -/

/-- Core 1 alone is free, for a gang of one unit. -/
def gangLaunch : Launch := { Launch.reset with known := true, count := 1, units := 1, gang := true }
theorem wit_group_bind :
    let s := (schedRig (rec0 .source 127)).setLaunch (inPart 0 5) gangLaunch
    let v := ((schedRig { rec0 .saved 3 with thread := 2 }).setLaunch (inPart 0 5) gangLaunch).setThr 2
      { Thread.reset with st := .saved, asid := 1, launch := 5 }
    s.rec? 9 = some (rec0 .source 127) ∧ (s.launchAt (inPart 0 5)).gang = true ∧ (s.launchAt (inPart 0 5)).phased = false ∧
    [1].Nodup ∧ s.free 1 = true ∧ ((s.groupOf (rec0 .source 127)).bind (s.groupPlan (rec0 .source 127))) = some [(1, 0)] ∧
    (s.groupOf (rec0 .source 127)).map (s.nextCores (rec0 .source 127)) = some [1] ∧
    s.firstInList (rec0 .source 127) = true ∧ (s.launchAt (inPart 0 5)).units = 1 ∧ [3].all s.threadFree = true ∧
    s.asValid 1 = true ∧ (s.part 0).phi ≤ (rec0 .source 127).level ∧ 2 ^ (s.part 0).age ≤ s.clk ∧ (s.slotOf 1).v = true ∧
    (s.slotOf 1).part = 0 ∧ v.rec? 9 = some (rec0 .saved 3) ∧ v.free 1 = true ∧
    ((v.groupOf { rec0 .saved 3 with thread := 2 }).bind (v.groupPlan { rec0 .saved 3 with thread := 2 })) = some [(1, 0)] := by decide +kernel
/-- The only core bound runs a unit of a lower level, or is gated. -/
theorem wit_placement :
    let s : State := { schedRig (rec0 .posted 3) with slots := [(0, slot0)] }
    let t : State := { (schedRig (rec0 .posted 3)).modCore 1 (fun c => { c with gated := true }) with slots := [(1, slot0)] }
    let least (u : State) := u.leastCore (u.boundCores.filter (fun k => u.candidate k (rec0 .posted 3))) 3 0
    s.unheld (rec0 .posted 3) = true ∧ s.firstInList (rec0 .posted 3) = true ∧ s.selected 9 = false ∧ (rec0 .posted 3).placed = none ∧ s.asking 0 = [] ∧ least s = some (0, 284) ∧
    t.firstInList (rec0 .posted 3) = true ∧ t.asking 0 = [] ∧ least t = some (1, 20) := by decide +kernel
/-- The record's core has been asked to halt, and it is asked again once it no longer halts or fits. -/
theorem wit_placed_again :
    let r := { rec0 .posted 3 with placed := some 0 }
    let s : State := { schedRig r with slots := [(0, slot0)] }
    (s.rec? 9).map (·.placed) = some (some 0) ∧ (s.coreAt 0).halt = none ∧ s.candidate 0 r = true := by decide +kernel
/-- Core 1 is gated, and its only candidate stands second in its list behind a record that another core must take; a unit waits
with its only context. -/
theorem wit_gated :
    let first := { rec0 .posted 3 with id := 8, onCore := some 5 }
    let s : State := { (schedRig (rec0 .posted 3)).modCore 1 (fun c => { c with gated := true }) with recs := [first, rec0 .posted 3], slots := [(1, slot0)] }
    s.missed 1 = true ∧ ((rig []).modCtx 1 0 (fun c => { c with wait := .reg })).allWait 0 = true ∧ (rig []).allWait 0 = false := by decide +kernel
theorem wit_idle_core :
    let s : State := { schedRig (rec0 .posted 3) with recs := [] }
    s.free 1 = true ∧ (s.coreAt 1).rsvFor = none ∧ (s.coreAt 1).idleSince + 64 ≤ s.clk ∧ 1 ≤ (s.slotOf 1).pwr ∧ s.choose 1 = none := by
  decide +kernel
theorem wit_wakes :
    let s : State := { rig [] with clusOff := [0] }
    let g : State := { rig [] with gated := [0] }
    (s.physCore 1) / 64 ∈ s.clusOff ∧ (g.physCore 1) / 64 ∉ g.clusOff ∧ (g.physCore 1) / 16 ∈ g.gated ∧ g.pagesIn 0 = [] ∧
    (rig []).physCore 1 / 64 ∉ (rig []).clusOff ∧ (rig []).physCore 1 / 16 ∉ (rig []).gated := by decide +kernel
theorem wit_gang :
    let s := (((rig []).setLaunch (inPart 0 0) { gangLaunch with members := [1], mkeys := [0] }).modUnit 1 (fun u => { u with arrived := true, gang := true })).modCtx 1 0
      (fun c => { c with wait := .gbar })
    let r := (rig []).setLaunch 0 { gangLaunch with members := [1], mkeys := [0], rolls := 1, rolling := true }
    (r.launchAt 0).rolling = true ∧ r.gangDrained (r.launchAt 0) = true ∧ ((r.coreAt (r.thr 1).loc).st ≠ .restoring) ∧ (s.launchAt 0).rolling = false ∧
    s.gangArrived (s.launchAt (inPart 0 0)) = true ∧ (s.launchAt 0).members.Nodup ∧
    s.gangLive (s.launchAt 0) = [1] ∧ (s.launchAt 0).gang = true ∧ (s.launchAt 0).rolls < 2 ∧ (s.thr 1).st ≠ .closed := by decide +kernel
/-- The gang's unit has ended, and a store of its superstep is still held. -/
theorem wit_gang_ended :
    let l := { gangLaunch with members := [2], mkeys := [0] }
    let r : Req := { (rig []).newReq .st 0x40000100 .d .plain with thread := 2, phase := .heldGang }
    let s : State := { (rig []).setLaunch (inPart 0 0) l with reqs := [r] }
    (s.launchAt 0).gang = true ∧ (s.launchAt 0).rolling = false ∧ s.gangLive (s.launchAt 0) = [] ∧ s.gangHolds (s.launchAt 0) = true ∧
    r.heldBy l = true := by decide +kernel
theorem wit_unit_release :
    let s := (rig []).setThr 2 { Thread.reset with freed := true, counted := true }
    let t := (rig []).setThr 2 { Thread.reset with freed := true }
    (s.thr 2).st = .closed ∧ (s.thr 2).freed = true ∧ (s.thr 2).ops = [] ∧ (s.thr 2).counted = true ∧ (t.thr 2).counted = false := by
  decide +kernel
theorem wit_job :
    let s : State := { rig [] with parts := [(0, { Part.reset with jobsDone := [(7, true)], cen := true, clog := 4, casid := 1, cbase := 0x40008000 })] }
    let t : State := { rig [] with parts := [(0, { Part.reset with jobsDone := [(7, true)] })] }
    ((s.modPart 0 (fun e => { e with jobsDone := [] })).keepHost 1 0x40008000 .notPresent).untold 1 0x40008000 = false ∧
    ((rig []).setLaunch (inPart 0 0) { Launch.reset with known := true, job := 7 }).jobOwes 0 7 = true ∧
    7 / 2 ^ 32 = 0 ∧ (s.part 0).jobsDone.find? (·.1 == 7) = some (7, true) ∧ s.jobOwes 0 7 = false ∧
    ((s.part 0).cprod + 2 ^ 32 - (s.part 0).ccons) % 2 ^ 32 < 2 ^ (s.part 0).clog ∧ (s.part 0).cen = true ∧ (t.part 0).cen = false ∧
    t.jobOwes 0 7 = false := by decide +kernel

/-! ## FabricEvents -/

/-- A request of endpoint 5 of chip 1 for this chip (0), tenant 0, address space 1. -/
def pkt (typ sz : Nat) (a : Word) : Packet :=
  { pmask := 0, status := 0, tag := 7, nl := 0, sz := sz, sm := 0, aop := 0, lo := 0, sh := false, typ := typ, asid := 1, tenant := 0
    src := 4101, dst := 0, addr := a, payload := [] }
theorem wit_packets : (rig []).linkHeld = [] ∧ (1 : Nat) < 2 ∧ { pkt 1 4 0 with nl := 2 }.typ ≤ 7 ∧ ((rig []).port 3).down = false ∧ (pkt 0 3 0).valid = true ∧ (pkt 9 3 0).valid = false ∧ (pkt 0 3 0).dst / 4096 = (rig []).peer ∧
    (pkt 0x10 3 0).valid = true ∧ 7 < (pkt 0x10 3 0).typ ∧ { pkt 0 3 0 with dst := 4096 }.dst / 4096 ≠ (rig []).peer ∧
    { pkt 1 4 0 with nl := 2 }.nl ≤ 4 := by decide +kernel
theorem wit_ports :
    let q (n : Nat) : State := { rig [] with ports := [(3, { Port.reset with buf := [pkt 0 3 0], replays := n })] }
    ((q 7).port 3).buf ≠ [] ∧ ((q 7).port 3).down = false ∧ ((q 7).port 3).replays < 8 ∧ 8 ≤ ((q 8).port 3).replays := by decide +kernel
theorem wit_peers : ({ rig [] with peers := [(1, .present)] } : State).peerSt 1 = .present ∧
    ({ rig [] with peers := [(1, .disabled)] } : State).peerSt 1 = .disabled ∧ (31 : Nat) < 32 ∧ (1023 : Nat) < 1024 ∧
    (rig []).portFor 1 = none := by decide +kernel
theorem wit_gauntlet :
    let s (p : Packet) : State := { rig [] with inbound := [p] }
    let judge (p : Packet) (k : AKind) := (s p).gauntletJudge ((s p).reqOf p 0 k) (p.typ == 6)
    let stat (x : Except (Nat × Option Nat) (Trans × Tgt)) : Nat := match x with | .error (n, none) => n | .error (n, some _) => 100 + n | .ok _ => 0
    (s (pkt 0 3 0)).inbound[0]? = some (pkt 0 3 0) ∧ ((s (pkt 0 3 0)).tenantPart 9) = none ∧ (s (pkt 0 3 0)).tenantPart 0 = some 0 ∧
    ((rig []).part 0).inReset = false ∧ (rig []).asValid 1 = true ∧ (rig []).asPart 1 = 0 ∧ (rig []).asValid 2 = false ∧
    (pkt 0 3 0).dst / 64 % 64 < (rig []).nclus ∧ ({ rig [] with nclus := 1 } : State).nclus ≤ { pkt 0 3 0 with dst := 64 }.dst / 64 % 64 ∧
    (pkt 7 3 0).kind = none ∧ (pkt 0 3 0).kind = some .ld ∧ (pkt 0 4 0).kind = some .rdLine ∧
    stat (judge (pkt 0 3 0x40000000) .ld) = 0 ∧ stat (judge (pkt 0 3 0x80000000) .ld) = 116 ∧
    stat (judge (pkt 6 3 0x40000000) .st) = 0x24 := by decide +kernel
/-- A load of thread 1 at chip 1 with tag 7, and what answers it. -/
def sentReq (k : AKind) : Req :=
  { (rig []).reqOf (pkt 0 3 0x40000000) 0 k with id := 4, phase := .sent, tgt := .peer 1, ptag := 7, core := 0, tag := none }
theorem wit_responses :
    let s (p : Packet) (k : AKind) : State := { rig [] with resps := [p], reqs := [sentReq k] }
    let named (p : Packet) (r : Req) : Bool := (r.phase == .sent || r.phase == .accepted) && r.tgt == .peer (p.src / 4096) &&
      r.ptag == p.tag && r.core == p.dst % 4096 && p.addr == r.wire && p.lo == loNum r.lo && p.sz == r.size
    let echo := pkt 0x10 3 0x40000000
    let m : Monitor := ⟨none, 0, 1, 0x40000000, 1, 1, 0, 0, false⟩
    let hit (p : Packet) (m : Monitor) : Bool := m.pte.isNone && m.chip == p.src / 4096 && m.chip != (rig []).peer && m.asid == p.asid && m.va == p.addr
    (s echo .ld).resps[0]? = some echo ∧ (s echo .ld).reqs.find? (named echo) = some (sentReq .ld) ∧
    (s { echo with addr := (sentReq .send).wire } .send).reqs.find? (named { echo with addr := (sentReq .send).wire }) = some (sentReq .send) ∧
    (s (pkt 0x10 4 0x40000000) .rdLine).reqs.find? (named (pkt 0x10 4 0x40000000)) = some (sentReq .rdLine) ∧
    { pkt 0x12 3 0 with status := 0x28 }.status = 0x28 ∧ (pkt 0x10 3 0).status = 0 ∧ (rig []).unsettled (sentReq .ld) = false ∧
    ([m].find? (hit (pkt 0x11 3 0x40000000))) = some m := by decide +kernel

end Sys2Proof.Tests
end

