-- ==== Sys2Proof/Tests/WitnessH.lean ====
section
/-!
SUPPORT. Witnesses: states that meet the hypotheses of the statements on the host's side, bring-up and platform, memories, the step and the encoding.
-/
set_option Elab.async false
namespace Sys2Proof.Tests
open Sys2Proof.Machine Sys2Proof.Claims

/-- The decoder answers this instruction. -/
def readsAs (r : Except Reject Instr) (i : Instr) : Bool := match r with | .ok j => j == i | .error _ => false
/-- The decoder rejects for this reason. -/
def rejects (r : Except Reject Instr) (e : Reject) : Bool := match r with | .ok _ => false | .error d => d == e

/-! ## HostEvents -/

/-- The rig without a running unit. -/
def quiet : State := { rig [] with cores := [], units := [], threads := [] }
theorem wit_host : State.reset.boot.stage < 7 ∧ State.reset.boot.stage = 0 ∧ quiet.boot.stage = 7 ∧ 1 ≤ quiet.boot.stage ∧ (15 : Nat) < 16 ∧
    0xFFFF8 % 8 = 0 ∧ 0xFFFF8 + 8 ≤ 0x100000 ∧ 0x20000 ≤ 0x20000 ∧ 0x1FFF8 % 8 = 0 ∧ quiet.mem.hall = [] ∧ quiet.hostMem.hall = [] ∧ 0x40000000 + 64 ≤ quiet.gdev * gddrStep ∧ 0x40000000 % 8 = 0 ∧
    quiet.awin + 0x10000 ≤ quiet.gdev * gddrStep ∧ 0x1FFF0 < 0x20000 ∧ 0x1FFF0 % 16 = 0 ∧ 0x1FFF8 < 0x20000 ∧ 0x1FFF8 % 16 = 8 ∧ 60 + [1#8, 2#8, 3#8, 4#8].length ≤ 64 ∧ 56 % 8 = 0 ∧ 56 < 64 := by
  decide +kernel
theorem wit_pri :
    let q : Nat × Nat × Word := (3, 1, 0x40000000)
    let s : State := { quiet with priOut := [q] }
    let one (n : Nat) : State := { quiet with parts := [(3, { Part.reset with priAlloc := n })] }
    q ∈ s.priOut ∧ q ∉ s.priWait ∧ q ∉ (one 1).priOut ∧ ((one 1).priOut.filter (·.1 == 3)).length < ((one 1).part 3).priAlloc ∧
    ((one 0).part 3).priAlloc ≤ ((one 0).priOut.filter (·.1 == 3)).length := by decide +kernel
/-- The log is off, has room, and is full. -/
theorem wit_log :
    let l : LogEnt := ⟨0, 0, 0, 0, 0, 1, 0⟩
    let p (en : Bool) (n : Nat) : State := { quiet with parts := [(0, { Part.reset with logq := [l], len := en, llog := 0, lprod := n })] }
    ((p true 64).part 0).logq = [l] ∧ ((p false 0).part 0).len = false ∧ ((p true 64).part 0).len = true ∧
    2 ^ (0 + 6) ≤ (((p true 64).part 0).lprod + 2 ^ 32 - ((p true 64).part 0).lcons) % 2 ^ 32 ∧
    ¬ 2 ^ (0 + 6) ≤ (((p true 63).part 0).lprod + 2 ^ 32 - ((p true 63).part 0).lcons) % 2 ^ 32 := by decide +kernel
theorem wit_flr :
    let z : State := { rig [] with parts := [(0, { Part.reset with inReset := true })] }
    ((rig []).part 0).inReset = false ∧ ((rig []).coreAt 0).st ≠ .idle ∧ ((rig []).thr ((rig []).coreAt 0).thread).part = 0 ∧
    (z.part 0).inReset = true ∧ z.cores.all (fun c => c.2.st == .idle || (z.thr c.2.thread).part != 1) = true ∧
    ({ z with cores := [] } : State).cores = [] := by decide +kernel

/-! ## RegisterEvents -/

/-- A window of one line at the first view address, whose stores lie in device memory; a window with no lines is bad. -/
def win0 : Window := { Window.reset with vlines := 1, vbase := viewBase / 65536, ebase := 0x100000, sbase := 0x200000 }
theorem wit_windows :
    let s : State := { quiet with windows := [(2, win0)] }
    let b : State := { quiet with windows := [(2, { win0 with vlines := 0 })] }
    let e : State := { quiet with windows := [(2, { win0 with en := true })] }
    (s.window 2).part = 0 ∧ (s.part 0).inReset = false ∧ (s.window 2).en = false ∧ s.windowBad 2 (s.window 2) = false ∧
    b.windowBad 2 (b.window 2) = true ∧ (e.window 2).en = true ∧ 0 < (e.window 2).vlines ∧
    e.views.any (·.1 == ((e.window 2).base + 64 * 0) / 64) = false := by decide +kernel
theorem wit_registers : 2 ≤ quiet.boot.stage ∧ 1 ≤ quiet.boot.stage ∧ Writer.host ≠ Writer.treleveber ∧ (5 : Nat) < 6 ∧ (287 : Nat) < 288 ∧ (2 : Nat) ≠ 3 ∧ (0x100 : Nat) ≤ 0x120 ∧ (0x200 : Nat) ≤ 0x218 ∧ (253 : Nat) < 254 ∧ (63 : Nat) < 64 ∧
    fieldOf (2 ^ 49) 42 7 ≤ fieldOf (2 ^ 49) 49 7 ∧ (1023 : Nat) < 1024 ∧ (1 : Word).toNat ≠ 0 ∧ (1 : Nat) ≠ 0 := by decide +kernel

/-! ## BringUpAndPlatformEvents -/

/-- An image of no bytes. -/
def image (d sigr sigs : Nat) : BootImage := { magic := 0x54525631, svn := 1, len := 0, digest := d, sigr := sigr, sigs := sigs, reserved := 0, body := [] }
/-- Good silicon; a carve-out of one step, the least TLT, every cluster in its place, chip 0. -/
def bootIn (a b : BootImage) (key hash : Nat) : BootIn :=
  { sramOk := true, fuseSvn := 0, keyHash := hash, rootKey := key, slotA := a, slotB := b, carve := 1, tltLog := 16, peer := 0, cmap := upto 64, peers := [] }
theorem image_header (d r t : Nat) : imgHeader (image d r t) % 2 ^ 512 = imgHeader (image d 0 0) % 2 ^ 512 := by
  simp only [imgHeader, image]; omega
theorem slot_accepted (i : BootImage) (inp : BootIn) (fuse : Nat) (h1 : i.magic = 0x54525631) (h2 : i.reserved = 0) (h3 : i.len ≤ 0x400000)
    (h4 : i.body.length = i.len) (h5 : Config.sha384 i.body = i.digest)
    (h6 : Config.verifies i.sigr i.sigs (imgHeader i % 2 ^ 512) inp.rootKey = true) (h7 : Config.sha384 (natLine 96 inp.rootKey) = inp.keyHash)
    (h8 : fuse ≤ i.svn) : slotError i inp fuse = 0 := by
  simp [slotError, h1, h2, h4, h5, h6, h7, Nat.not_lt.mpr h3, Nat.not_lt.mpr h8]
/-- An image is accepted when its signature verifies; whether any does is a free value of Config. -/
theorem wit_image_accepted (key r t : Nat)
    (h : Config.verifies r t (imgHeader (image (Config.sha384 []) 0 0) % 2 ^ 512) key = true) :
    ∃ inp : BootIn, slotError inp.slotA inp 0 = 0 ∧ slotError { inp.slotA with magic := 0 } inp 0 ≠ 0 := by
  refine ⟨bootIn (image (Config.sha384 []) r t) (image 0 0 0) key (Config.sha384 (natLine 96 key)), ?_, ?_⟩
  · exact slot_accepted _ _ 0 rfl rfl (show 0 ≤ 0x400000 by decide) rfl rfl ((image_header _ r t).symm ▸ h) rfl (show 0 ≤ 1 by decide)
  · unfold slotError
    simp
theorem wit_images_refused : slotError { image 0 0 0 with magic := 0 } (bootIn (image 0 0 0) (image 0 0 0) 0 0) 0 ≠ 0 ∧
    slotError { image 0 0 0 with magic := 0x54525631, reserved := 1 } (bootIn (image 0 0 0) (image 0 0 0) 0 0) 0 ≠ 0 := by decide +kernel
theorem wit_boot_stages :
    let at_ (n : Nat) : State := { State.reset with boot := { Boot.reset with stage := n } }
    let i := bootIn (image 0 0 0) (image 0 0 0) 0 0
    State.reset.boot.stage = 0 ∧ i.sramOk = true ∧ (at_ 1).boot.stage = 1 ∧ (at_ 1).boot.slot ≠ 15 ∧
    ({ Boot.reset with stage := 1, slot := 15 } : Boot).slot = 15 ∧ (at_ 2).boot.stage = 2 ∧ (at_ 3).boot.stage = 3 ∧ 1 ≤ i.carve ∧
    i.carve ≤ 48 ∧ (at_ 4).boot.stage = 4 ∧ (at_ 4).cmapOk i.cmap = true ∧ 16 ≤ i.tltLog ∧ i.tltLog ≤ 24 ∧ (at_ 5).boot.stage = 5 ∧ i.peer < 1024 ∧
    (at_ 6).boot.stage = 6 ∧ quiet.boot.stage = 7 ∧ quiet.boot.stopped = false := by decide +kernel
theorem wit_platform :
    let p (n : Nat) : State := { quiet with slots := (upto 64).map (fun c => (c, { slotBlank with pwr := n })) }
    quiet.gens.get 0 7 = 0 ∧ quiet.cores.all (fun e => e.2.st == .idle) = true ∧ (p 2).mayGate 16 16 2 = true ∧ 1 / 4 ∉ (p 2).clusOff ∧
    (p 3).mayGate 0 64 3 = true ∧ (upto 4).all (fun i => ((p 3).pagesIn i).isEmpty) = true ∧ (p 3).logCore ((p 3).physCore 2) = some 2 ∧
    (p 3).physCore 2 / 64 = 1 / 4 ∧ quiet.remapOk [] = true ∧ quiet.remapOk [(3, 4), (4, 3)] = true ∧ 1800 ≤ quiet.mcap ∧
    quiet.boot.away = false ∧ quiet.mcap < 1801 := by decide +kernel
/-- The cap of island 3 and the module's: drawn above, at, and below; no module cap and a core's island that can fall; every island at its
floor. -/
theorem wit_capping :
    let s : State := { quiet with islands := [(3, { Island.reset with cap := 5 })] }
    let floor : State := { quiet with islands := (upto 256).map (fun i => (i, { Island.reset with point := .ghz12 })) }
    ((s.measured 1801 [(3, 6)]).island 3).capping = true ∧ (s.measured 1801 []).capping = true ∧ (s.measured 1800 []).capping = false ∧
    ((s.measured 1801 []).measured 1800 []).capping = true ∧ (s.measured 1801 [(3, 6)]).canSlow 3 = true ∧ (65535 : Nat) < 65536 ∧
    (s.measured 1801 [(3, 6)]).slowest ≠ none ∧ floor.canSlow 255 = false := by decide +kernel

/-! ## MemoryTierAndErrorEvents -/

theorem wit_l2 :
    let fill (s : State) : Nat := match s.translate 1 0x40000000 with | .page t => if t.mt = 0 then 1 + t.aper else 0 | _ => 0
    let h : State := { quiet with mem := quiet.mem.write 0x12008 8 (0x2070000040000000 + 0x3F) false }
    let l : L2Line := ⟨0, 1, 0x1000000, 0x1000000, true, false⟩
    quiet.l2.any (fun l => l.asid == 1 && l.vline == 0x40000000 / 64) = false ∧ fill quiet = 1 ∧
    l ∈ ({ quiet with l2 := [l] } : State).l2 ∧ l.asid = 1 ∧ l.vline = 0x40000000 / 64 ∧ l.dirty = true ∧ quiet.views = [] ∧
    l ∉ h.l2 ∧ (quiet.l2.all (·.pa != 5 + 2 ^ 60)) = true ∧ (quiet.stk.all (·.line != 5 + 2 ^ 60)) = true := by decide +kernel
/-- Requests to evict and to recall the page at 0x30000 of partition 0. -/
def victims (op tok : Nat) (frames : Tab VFrame) (gated : List Nat) : State :=
  { quiet with
    parts := [(0, { Part.reset with vreqs := [⟨1, BitVec.ofNat 64 (op * 2 ^ 62 + 0x30000 + tok), 0⟩], owned := [(0, 0x1000000)] })]
    frames := frames, gated := gated }
theorem wit_victims :
    let r (op tok : Nat) : VReq := ⟨1, BitVec.ofNat 64 (op * 2 ^ 62 + 0x30000 + tok), 0⟩
    let f : VFrame := ⟨true, 9, 0, .blank⟩
    let s := victims 0 0 [] [0]
    (s.part 0).vreqs = [r 0 0] ∧ fieldOf (r 0 0).lo.toNat 62 2 = 0 ∧ fieldOf (r 0 0).lo.toNat 0 16 = 0 ∧ fieldOf (r 2 0).lo.toNat 62 2 = 2 ∧
    fieldOf (r 0 3).lo.toNat 0 16 ≠ 0 ∧ s.victimPage 0 (r 0 0) = some 0x30000 ∧ quiet.victimPage 0 (r 0 0) = none ∧
    (victims 0 0 [] []).anyFrame = false ∧ s.anyFrame = true ∧ s.frameFree 47 = true ∧ fieldOf (r 1 9).lo.toNat 62 2 = 1 ∧
    (victims 1 9 [(5, f)] [0]).frameOf 0 9 = some 5 ∧ (victims 1 9 [] [0]).frameOf 0 9 = none ∧
    (victims 1 9 [(5, f)] [0, 1]).frames.find? (fun e => e.2.used && e.2.token == 9) = some (5, f) ∧ (48 / 48 ≠ 5 / 48) ∧
    (victims 1 9 [(5, f)] [0, 1]).frameFree 48 = true := by decide +kernel
/-- Host line 5 is held by the edge's L2, and line 6 is not held. -/
theorem wit_host_lines : let s : State := { quiet with l2 := [⟨0, 1, 0x1000000, 5 + 2 ^ 60, false, false⟩] }
    s.holdsLine (5 + 2 ^ 60) = true ∧ s.holdsLine (6 + 2 ^ 60) = false ∧ 5 < 2 ^ 60 := by decide +kernel
theorem wit_soft_errors : (0x5FFF : Nat) < 0x6000 ∧ (0xBFF : Nat) < 0xC00 ∧ ((rig []).vframe 0).used = false ∧
    (({ rig [] with frames := [(0, ⟨true, 9, 0, .blank⟩)] } : State).vframe 0).used = true ∧ quiet.boot.stage = 7 ∧ quiet.boot.stopped = false ∧ ((rig []).coreAt 0).st ≠ .idle ∧
    (({ rig [] with stages := [(258, { StageRt.reset with inst := true })] } : State).stageAt (stageKey 1 2)).inst = true := by decide +kernel

/-! ## StepRunsTheDecodedInstruction -/

/-- QCFG g10, #2 placed at reset. -/
def placed : State := State.reset.withFetchWord 64 (0x003F28D0 + 0x00020000 * 2 ^ 32)
def placedStep : State := { placed.tick with turn := true, core := 0, ctx := 0 }
theorem wit_step :
    let u := placed.tick
    let v := placedStep.sigWalk placedStep.un.asid placedStep.cx.pc.toNat
    u.agenda = [] ∧ u.timedNow = none ∧ u.turn = false ∧ u.next? = some (0, 0) ∧ placedStep.noticeDue 0 0 = none ∧
    (match v.translate v.un.asid v.cx.pc.toNat with
      | .page tr =>
        let pa := tr.pa v.cx.pc.toNat
        let m := (v.fetchBlock v.un.asid v.cx.pc.toNat tr (.dev pa) pa).mem
        let p0 := (blockParcels m pa).headD 0
        tr.x && tr.aper == 0 && !m.anyPoison pa 4 && !m.anyPoison pa (lenOf p0) &&
        readsAs (decodeParcels (pa % 32) (blockParcels m pa)) (.qcfg (.g 10) .imm 2) &&
        (lateCause v.cx.uact (v.un.phased && v.un.exchange) (.qcfg (.g 10) .imm 2)).isNone
      | _ => false) = true := by decide +kernel
theorem wit_step_agenda :
    let s : State := { State.reset with agenda := [.idle] }
    let e : State := { State.reset with agenda := [.coreClockGate 0] }
    s.tick.agenda = [.idle] ∧ Instr.idle.isStep = false ∧ e.tick.agenda = [.coreClockGate 0] ∧ Instr.isStep (.coreClockGate 0) = true ∧
    State.reset.tick.agenda = [] ∧ State.reset.tick.next? = none ∧ State.reset.tick.due = none := by decide +kernel
/-- A timed event waits: it is taken at an even clk. -/
theorem wit_step_timed :
    let s (n : Nat) : State := { State.reset with clk := n, timed := [.coreClockGate 0] }
    (s 0).timedNow = some (.coreClockGate 0) ∧ (s 1).timedNow = none ∧ (s 1).tick.agenda = [] ∧ (s 1).tick.timedNow = some (.coreClockGate 0) := by
  decide +kernel
/-- Due work, on its turn and with nothing to issue. -/
theorem wit_step_due :
    let s : State := { quiet with notes := [⟨1, 0, 0, cz 0x508, 7, none⟩] }
    let t : State := { s with turn := true }
    s.tick.turn = false ∧ s.tick.next? = none ∧ s.tick.due.isSome = true ∧ t.tick.turn = true ∧ t.tick.due.isSome = true := by decide +kernel

/-! ## Encoding and memory -/

theorem wit_round_trip : Instr.isStep (.qcfg (.g 10) .imm 2) = false ∧ Instr.WellFormed (.qcfg (.g 10) .imm 2) = true ∧
    24 + 4 * (encode (.qcfg (.g 10) .imm 2)).length ≤ 32 ∧ Instr.isStep (.coreClockGate 0) = true := by decide +kernel
/-- Parcels of opcode n and length code l. -/
def opc (n l : Nat) : Parcel := BitVec.ofNat 32 (l + 4 * n)
/-- The classes of DecodeCauses: fill, crossing at the last parcel, unassigned, wrong length, a stray field, and the order of the rest. -/
theorem wit_unassigned : Unassigned 0 ∧ Unassigned 0xF8 ∧ Unassigned 0xFF ∧ Unassigned 0x28 ∧ ¬ Unassigned 0x27 ∧ ¬ Unassigned 0xF7 := by
  unfold Unassigned; omega
theorem wit_causes :
    opc 0 3 ≠ 0xFFFFFFFF#32 ∧ 32 < 28 + lenOf (opc 2 0) ∧ 32 ≥ 24 + lenOf (opc 2 0) ∧ (fmtOf 0x02).map (·.len) = some 0 ∧
    readsAs (decode 0 [0x003F28D0, 0x00020000]) (.qcfg (.g 10) .imm 2) = true ∧
    rejects (decode 0 [0x003F28D0, 0x00020001]) .field = true ∧
    readsAs (decode 24 [0x0FC10404, 0x00080000]) (.iadd .i64 false ⟨.g 1, .g 1, false, .imm, false, 8⟩) = true := by
  decide +kernel
theorem wit_cause_address : (0x40000008#64).toNat + 32 < 2 ^ 64 := by decide
theorem wit_memory : Memory.wf PMem.blank.bytes = true ∧ Memory.wf [((3 : Nat), (1 : Byte))] = true ∧
    (8 ≤ 8 * 1 ∧ 8 * 1 + 8 ≤ 8 + 8) ∧ ((12 : Nat) < 8 * 1 + 8 ∧ 8 * 1 < 12 + 8 ∧ ¬ (12 ≤ 8 * 1 ∧ 8 * 1 + 8 ≤ 12 + 8)) := by decide
/-- The invariant holds at reset, and a step from a state that has it answers a next state. -/
theorem wit_invariant : State.reset.memOk ∧ ∃ t, step State.reset = .next t :=
  And.intro (by refine ⟨rfl, rfl, ?_⟩; constructor <;> (intro e h; cases h)) ⟨_, rfl⟩

end Sys2Proof.Tests
end

