-- ==== Sys2Proof/Tests/Words.lean ====
section
/-!
SUPPORT. Every encoded constructor beside a word written out from the encoding tables (R82-R92 and the field tables of each
chapter: R149-R168, R171, R189, R201, R211, R230, R246, R257, R262, R263, R268, R272, R276-R278, R281).
-/
set_option Elab.async false
namespace Sys2Proof.Tests

/-- Each list of parcels decodes to the instruction beside it. -/
def allRead (l : List (List Nat × Instr)) : Bool :=
  l.all (fun e => match decode 0 (e.1.map (BitVec.ofNat 32)) with | .ok i => i == e.2 | .error _ => false)

theorem test_words_integer_1 : allRead
  [([0x1FC10C04, 0xFFFE0081], .iadd .i32 true ⟨.g 3, .g 1, true, .imm, false, 0xFFFE⟩),
   ([0x1FC10C08, 0xFFFE0081], .isub .i32 true ⟨.g 3, .g 1, true, .imm, false, 0xFFFE⟩),
   ([0x1FC10C0C, 0xFFFE0081], .imul .i32 true ⟨.g 3, .g 1, true, .imm, false, 0xFFFE⟩),
   ([0x20810C10, 0x00000000], .imulh .i64 ⟨.g 3, .g 1, false, .g 2, true, 0⟩),
   ([0x20810C14, 0x00000001], .idiv .i32 ⟨.g 3, .g 1, false, .g 2, true, 0⟩),
   ([0x20810C18, 0x00000002], .irem .i16 ⟨.g 3, .g 1, false, .g 2, true, 0⟩),
   ([0x20810C1C, 0x00000003], .imin .ui16 ⟨.g 3, .g 1, false, .g 2, true, 0⟩),
   ([0x20810C20, 0x00000004], .imax .i8 ⟨.g 3, .g 1, false, .g 2, true, 0⟩),
   ([0x00010C24, 0x00000085], .iabs .ui8 true ⟨.g 3, .g 1, false, 0⟩),
   ([0x0081A028, 0x00000000], .and ⟨.x 0, .g 1, false, .g 2, false, 0⟩),
   ([0x0081A02C, 0x00000000], .or ⟨.x 0, .g 1, false, .g 2, false, 0⟩),
   ([0x0081A030, 0x00000000], .xor ⟨.x 0, .g 1, false, .g 2, false, 0⟩),
   ([0x0081A034, 0x00000000], .andn ⟨.x 0, .g 1, false, .g 2, false, 0⟩),
   ([0x0FC10C38, 0x003E0001], .shl .i32 ⟨.g 3, .g 1, false, .imm, false, 62⟩),
   ([0x0FC10C3C, 0x003E0001], .shr .i32 ⟨.g 3, .g 1, false, .imm, false, 62⟩),
   ([0x0FC10C40, 0x003E0001], .sra .i32 ⟨.g 3, .g 1, false, .imm, false, 62⟩),
   ([0x0FC10C44, 0x003E0001], .rol .i32 ⟨.g 3, .g 1, false, .imm, false, 62⟩),
   ([0x10010C48, 0x00000002], .clz .i16 ⟨.g 3, .g 1, true, 0⟩),
   ([0x10010C4C, 0x00000002], .ctz .i16 ⟨.g 3, .g 1, true, 0⟩),
   ([0x10010C50, 0x00000002], .popc .i16 ⟨.g 3, .g 1, true, 0⟩),
   ([0x10010C54, 0x00000002], .bswap .i16 ⟨.g 3, .g 1, true, 0⟩),
   ([0x0FC10C58, 0x08040000], .bfx ⟨.g 3, .g 1, false, .imm, false, 0x0804⟩),
   ([0x0FC10C5C, 0x08040000], .bfi ⟨.g 3, .g 1, false, .imm, false, 0x0804⟩),
   ([0x0FC10C60, 0x08040000], .iext ⟨.g 3, .g 1, false, .imm, false, 0x0804⟩),
   ([0x00810C64, 0x00000001], .cmp .eq .i32 ⟨.g 3, .g 1, false, .g 2, false, 0⟩),
   ([0x00810C64, 0x00000101], .cmp .ne .i32 ⟨.g 3, .g 1, false, .g 2, false, 0⟩)] = true := by decide +kernel
theorem test_words_integer_2 : allRead
  [([0x00810C64, 0x00000201], .cmp .lt .i32 ⟨.g 3, .g 1, false, .g 2, false, 0⟩),
   ([0x00810C64, 0x00000301], .cmp .le .i32 ⟨.g 3, .g 1, false, .g 2, false, 0⟩),
   ([0x00810C64, 0x00000401], .cmp .gt .i32 ⟨.g 3, .g 1, false, .g 2, false, 0⟩),
   ([0x00810C64, 0x00000501], .cmp .ge .i32 ⟨.g 3, .g 1, false, .g 2, false, 0⟩),
   ([0x00810C64, 0x00000601], .cmp .ltu .i32 ⟨.g 3, .g 1, false, .g 2, false, 0⟩),
   ([0x00810C64, 0x00000701], .cmp .leu .i32 ⟨.g 3, .g 1, false, .g 2, false, 0⟩),
   ([0x00810C64, 0x00000801], .cmp .gtu .i32 ⟨.g 3, .g 1, false, .g 2, false, 0⟩),
   ([0x00810C64, 0x00000901], .cmp .geu .i32 ⟨.g 3, .g 1, false, .g 2, false, 0⟩),
   ([0x00810C68, 0x00000000], .sel ⟨.g 3, .g 1, false, .g 2, false, 0⟩),
   ([0x0000286D, 0x00000000, 0x80000001], .ldi (.g 10) 0x80000001),
   ([0x00002C72, 0x00000000, 0x89ABCDEF, 0x01234567], .ldk (.g 11) 0x0123456789ABCDEF),
   ([0x00810C74, 0x00030000], .adda ⟨.g 3, .g 1, false, .g 2, false, 3⟩),
   ([0x0FC92878, 0x00160000], .mramk ⟨.g 10, .g 9, false, .imm, false, 22⟩),
   ([0x00000C7C, 0x00000000], .self (.g 3))] = true := by decide +kernel
theorem test_words_control : allRead
  [([0x00000081, 0x00000000, 0xFFFFFFFD], .br 0xFFFFFFFD),
   ([0x10030085, 0x00000000, 0x00000006], .bz ⟨.g 3, true, 0⟩ 6),
   ([0x00020089, 0x00000000, 0x00000006], .bnz ⟨.g 2, false, 0⟩ 6),
   ([0x2081008C, 0xFFF00601], .bcmp .ltu .i32 (.g 1) false (.g 2) true 0xFFF0),
   ([0x101F0090, 0x00000000], .jmp (.g 31) true),
   ([0x003F7C95, 0x00000000, 0x00000009], .call (.g 31) .imm 9),
   ([0x00001499, 0x00000000, 0xFFFFFFF8], .loop (.g 5) 0xFFFFFFF8),
   ([0x0000009C, 0x00000000], .nop)] = true := by decide +kernel
theorem test_words_presence : allRead
  [([0x000020C0, 0x00000000], .empty (.g 8)),
   ([0x000020C4, 0x00000000], .markf (.g 8)),
   ([0x00080CC8, 0x00000000], .probe (.g 3) (.g 8)),
   ([0x100800CC, 0x00000000], .waitf (.g 8) true),
   ([0x003F28D0, 0x00020000], .qcfg (.g 10) .imm 2),
   ([0x000028D4, 0x00000000], .qrst (.g 10)),
   ([0x000A0CD8, 0x00000000], .qocc (.g 3) (.g 10))] = true := by decide +kernel
theorem test_words_memory_1 : allRead
  [([0x82012D01, 0x00040023, 0xFFFFFFF8], .ld .d .tk .streaming ⟨2, false, .g 8, .g 1, .g 11, .glob, 4294967288⟩),
   ([0x1FC32905, 0x000A0001, 0x00000000], .st .h .plain .keep ⟨0, true, .imm, .g 3, .g 10, .cl, 0⟩),
   ([0x0FC30909, 0x00000000, 0x00000000], .pref .l2 ⟨0, false, .imm, .g 3, .g 2, .glob, 0⟩),
   ([0x0FC3090D, 0x00040000, 0x00000000], .resid .stacked ⟨0, false, .imm, .g 3, .g 2, .glob, 0⟩),
   ([0x0FC30911, 0x00080000, 0x00000000], .evict .both ⟨0, false, .imm, .g 3, .g 2, .glob, 0⟩),
   ([0x00000114, 0x00000000], .fence),
   ([0xC2022981, 0xD0000002, 0xFFFFFFF8], .ldl .w .plain .normal ⟨true, true, 2⟩ ⟨3, false, .g 8, .g 2, .g 10, .glob, 4294967288⟩),
   ([0x00091D84, 0x00000A00], .rsend (.g 7) (.g 9) false 0 ⟨false, true, 2⟩),
   ([0x00810D88, 0x00001013], .ldx .d .rf ⟨.g 3, .g 1, false, .g 2, false, true, 0⟩),
   ([0x00BF0D8C, 0x00070033], .stx .d .we ⟨.g 3, .imm, false, .g 2, false, false, 7⟩),
   ([0x00010190, 0x00000000], .smfrz ⟨.g 1, false, 0⟩),
   ([0x003F0194, 0x00040000], .smrel ⟨.imm, false, 4⟩),
   ([0x824129C1, 0x00000002, 0x00000000], .amo .add false .w (.g 0) ⟨false, false, 0⟩ ⟨2, false, .g 9, .g 1, .g 10, .glob, 0⟩),
   ([0x824129C1, 0x00000102, 0x00000000], .amo .fadd false .w (.g 0) ⟨false, false, 0⟩ ⟨2, false, .g 9, .g 1, .g 10, .glob, 0⟩),
   ([0x824129C1, 0x00000202, 0x00000000], .amo .min false .w (.g 0) ⟨false, false, 0⟩ ⟨2, false, .g 9, .g 1, .g 10, .glob, 0⟩),
   ([0x824129C1, 0x00000302, 0x00000000], .amo .max false .w (.g 0) ⟨false, false, 0⟩ ⟨2, false, .g 9, .g 1, .g 10, .glob, 0⟩),
   ([0x824129C1, 0x00000402, 0x00000000], .amo .umin false .w (.g 0) ⟨false, false, 0⟩ ⟨2, false, .g 9, .g 1, .g 10, .glob, 0⟩),
   ([0x824129C1, 0x00000502, 0x00000000], .amo .umax false .w (.g 0) ⟨false, false, 0⟩ ⟨2, false, .g 9, .g 1, .g 10, .glob, 0⟩),
   ([0x824129C1, 0x00000602, 0x00000000], .amo .and false .w (.g 0) ⟨false, false, 0⟩ ⟨2, false, .g 9, .g 1, .g 10, .glob, 0⟩),
   ([0x824129C1, 0x00000702, 0x00000000], .amo .or false .w (.g 0) ⟨false, false, 0⟩ ⟨2, false, .g 9, .g 1, .g 10, .glob, 0⟩),
   ([0x824129C1, 0x00000802, 0x00000000], .amo .xor false .w (.g 0) ⟨false, false, 0⟩ ⟨2, false, .g 9, .g 1, .g 10, .glob, 0⟩),
   ([0x824129C1, 0x00000902, 0x00000000], .amo .swap false .w (.g 0) ⟨false, false, 0⟩ ⟨2, false, .g 9, .g 1, .g 10, .glob, 0⟩),
   ([0x1FC425C1, 0x981C8003, 0x00000000], .amo .add true .d (.g 7) ⟨true, false, 3⟩ ⟨0, true, .imm, .g 4, .g 9, .glob, 0⟩),
   ([0x014425C5, 0x00000003, 0x00000000], .cas .d ⟨0, false, .g 5, .g 4, .g 9, .glob, 0⟩),
   ([0x020529C8, 0x00001603], .amox .and .d ⟨.g 10, .g 5, false, .g 8, false, true, 0⟩),
   ([0x1FD02DCD, 0x68000003, 0x00000000], .flagf 5 ⟨0, true, .imm, .g 16, .g 11, .glob, 0⟩)] = true := by decide +kernel
theorem test_words_memory_2 : allRead
  [([0x0FC10B8D, 0x00010002, 0x00000000], .stc .w .plain .normal ⟨0, false, .imm, .g 1, .g 2, .ls, 0⟩)] = true := by decide +kernel
theorem test_words_vector_1 : allRead
  [([0x1F800601, 0x00000000, 0x00000028], .shld ⟨.imm, false, 0, 0, 0, 1, 0, 40⟩),
   ([0x02004205, 0x00000000, 0x00000008], .shst ⟨.g 4, false, 0, 0, 2, 0, 0, 8⟩),
   ([0x02800609, 0x00000000, 0x00000000], .shset .base ⟨.g 5, false, 0, 0, 0, 1, 0, 0⟩),
   ([0x02800609, 0x00000100, 0x00000000], .shset .esz ⟨.g 5, false, 0, 0, 0, 1, 0, 0⟩),
   ([0x02800609, 0x00000200, 0x00000000], .shset .rank ⟨.g 5, false, 0, 0, 0, 1, 0, 0⟩),
   ([0x02800609, 0x00001100, 0x00000000], .shset (.ext 1) ⟨.g 5, false, 0, 0, 0, 1, 0, 0⟩),
   ([0x02800609, 0x00002200, 0x00000000], .shset (.stride 2) ⟨.g 5, false, 0, 0, 0, 1, 0, 0⟩),
   ([0x02800609, 0x00003300, 0x00000000], .shset (.cur 3) ⟨.g 5, false, 0, 0, 0, 1, 0, 0⟩),
   ([0x1F800609, 0x00003F00, 0x00000000], .shset .rewind ⟨.imm, false, 0, 0, 0, 1, 0, 0⟩),
   ([0x1F80060D, 0x00000000, 0x00000005], .shadv ⟨.imm, false, 0, 0, 0, 1, 0, 5⟩),
   ([0x03802211, 0x00003D00, 0x00000000], .shrd .remain ⟨.g 7, false, 0, 0, 1, 0, 0, 0⟩),
   ([0x03802211, 0x00003E00, 0x00000000], .shrd .index ⟨.g 7, false, 0, 0, 1, 0, 0, 0⟩),
   ([0x00022E15, 0x00070096, 0x00000000], .vadd .f32 ⟨.rtz, true⟩ ⟨.g 0, false, 0, 2, 1, 3, 7, 0⟩),
   ([0x00022E19, 0x00070096, 0x00000000], .vsub .f32 ⟨.rtz, true⟩ ⟨.g 0, false, 0, 2, 1, 3, 7, 0⟩),
   ([0x00022E1D, 0x00070096, 0x00000000], .vmul .f32 ⟨.rtz, true⟩ ⟨.g 0, false, 0, 2, 1, 3, 7, 0⟩),
   ([0x00222E21, 0x00000057, 0x00000000], .vfma .f16 ⟨.sto, false⟩ ⟨.g 0, false, 4, 2, 1, 3, 0, 0⟩),
   ([0x1FC02E25, 0x00000001, 0x00000009], .vmin .i32 ⟨.rne, false⟩ ⟨.imm, true, 0, 0, 1, 3, 0, 9⟩),
   ([0x00022E29, 0x00000008, 0x00000000], .vmax .bf16 ⟨.rne, false⟩ ⟨.g 0, false, 0, 2, 1, 3, 0, 0⟩),
   ([0x00002E2D, 0x00000084, 0x00000000], .vabs .i8 ⟨.rne, true⟩ ⟨.g 0, false, 0, 0, 1, 3, 0, 0⟩),
   ([0x00002E31, 0x00000084, 0x00000000], .vneg .i8 ⟨.rne, true⟩ ⟨.g 0, false, 0, 0, 1, 3, 0, 0⟩),
   ([0x00022E35, 0x00000003, 0x00000000], .vand .ui16 ⟨.g 0, false, 0, 2, 1, 3, 0, 0⟩),
   ([0x00022E39, 0x00000003, 0x00000000], .vor .ui16 ⟨.g 0, false, 0, 2, 1, 3, 0, 0⟩),
   ([0x00022E3D, 0x00000003, 0x00000000], .vxor .ui16 ⟨.g 0, false, 0, 2, 1, 3, 0, 0⟩),
   ([0x00022E41, 0x00000003, 0x00000000], .vshl .ui16 ⟨.g 0, false, 0, 2, 1, 3, 0, 0⟩),
   ([0x00022E45, 0x00000003, 0x00000000], .vshr .ui16 ⟨.g 0, false, 0, 2, 1, 3, 0, 0⟩),
   ([0x00022E49, 0x00000506, 0x00000000], .vcmp .ge .f32 ⟨.rne, false⟩ ⟨.g 0, false, 0, 2, 1, 3, 0, 0⟩)] = true := by decide +kernel
theorem test_words_vector_2 : allRead
  [([0x00222E4D, 0x0000000C, 0x00000000], .vsel .t6 ⟨.g 0, false, 4, 2, 1, 3, 0, 0⟩),
   ([0x1F802E51, 0x000000A9, 0x00000006], .vcvt .e4m3 ⟨.rdn, true⟩ ⟨.imm, false, 0, 0, 1, 3, 0, 6⟩),
   ([0x00002E55, 0x0000000E, 0x00000000], .vcopy .blk ⟨.g 0, false, 0, 0, 1, 3, 0, 0⟩),
   ([0x04800E59, 0x0000000A, 0x00000000], .vbcst .e5m2 ⟨.rne, false⟩ ⟨.g 9, false, 0, 0, 0, 3, 0, 0⟩),
   ([0x00022E5D, 0x00000000, 0x00000000], .vgath .i64 ⟨.g 0, false, 0, 2, 1, 3, 0, 0⟩),
   ([0x00022E61, 0x00000005, 0x00000000], .vscat .ui8 ⟨.g 0, false, 0, 2, 1, 3, 0, 0⟩),
   ([0x04002265, 0x00000081, 0x00000000], .vsum .i32 true ⟨.g 8, false, 0, 0, 1, 0, 0, 0⟩),
   ([0x04002269, 0x00000006, 0x00000000], .vrmax .f32 ⟨.g 8, false, 0, 0, 1, 0, 0, 0⟩),
   ([0x00002E6D, 0x00000008, 0x00000000], .vsfu .exp2 .bf16 ⟨.rne, false⟩ ⟨.g 0, false, 0, 0, 1, 3, 0, 0⟩),
   ([0x00002E6D, 0x00000108, 0x00000000], .vsfu .log2 .bf16 ⟨.rne, false⟩ ⟨.g 0, false, 0, 0, 1, 3, 0, 0⟩),
   ([0x00002E6D, 0x00000208, 0x00000000], .vsfu .rcp .bf16 ⟨.rne, false⟩ ⟨.g 0, false, 0, 0, 1, 3, 0, 0⟩),
   ([0x00002E6D, 0x00000308, 0x00000000], .vsfu .rsq .bf16 ⟨.rne, false⟩ ⟨.g 0, false, 0, 0, 1, 3, 0, 0⟩),
   ([0x00002E6D, 0x00000408, 0x00000000], .vsfu .sqrt .bf16 ⟨.rne, false⟩ ⟨.g 0, false, 0, 0, 1, 3, 0, 0⟩),
   ([0x00002E6D, 0x00000508, 0x00000000], .vsfu .sin .bf16 ⟨.rne, false⟩ ⟨.g 0, false, 0, 0, 1, 3, 0, 0⟩),
   ([0x00002E6D, 0x00000608, 0x00000000], .vsfu .cos .bf16 ⟨.rne, false⟩ ⟨.g 0, false, 0, 0, 1, 3, 0, 0⟩),
   ([0x00002E6D, 0x00000708, 0x00000000], .vsfu .tanh .bf16 ⟨.rne, false⟩ ⟨.g 0, false, 0, 0, 1, 3, 0, 0⟩),
   ([0x1F802E71, 0x0000000B, 0x00000004], .vqnt .t8 ⟨.rne, false⟩ ⟨.imm, false, 0, 0, 1, 3, 0, 4⟩),
   ([0x00002E75, 0x0000000D, 0x00000000], .vdq .l4 ⟨.rne, false⟩ ⟨.g 0, false, 0, 0, 1, 3, 0, 0⟩),
   ([0x00000E79, 0xFFFF0001, 0x00000000], .vpclr .i32 ⟨.g 0, false, 0, 0, 0, 3, 65535, 0⟩)] = true := by decide +kernel
theorem test_words_float : allRead
  [([0x10810E80, 0x00000006], .fadd .f32 ⟨.rne, false⟩ ⟨.g 3, .g 1, true, .g 2, false, 0⟩),
   ([0x10810E84, 0x00000017], .fsub .f16 ⟨.rtz, false⟩ ⟨.g 3, .g 1, true, .g 2, false, 0⟩),
   ([0x10810E88, 0x00000028], .fmul .bf16 ⟨.rdn, false⟩ ⟨.g 3, .g 1, true, .g 2, false, 0⟩),
   ([0x10810E8C, 0x000000B6], .ffma .f32 ⟨.rup, true⟩ ⟨.g 3, .g 1, true, .g 2, false, 0⟩),
   ([0x00810E90, 0x00000006], .fmin .f32 ⟨.g 3, .g 1, false, .g 2, false, 0⟩),
   ([0x00810E94, 0x00000006], .fmax .f32 ⟨.g 3, .g 1, false, .g 2, false, 0⟩),
   ([0x00010E98, 0x00000008], .fabs .bf16 ⟨.g 3, .g 1, false, 0⟩),
   ([0x00010E9C, 0x00000008], .fneg .bf16 ⟨.g 3, .g 1, false, 0⟩),
   ([0x00810EA0, 0x00000206], .fcmp .lt .f32 ⟨.g 3, .g 1, false, .g 2, false, 0⟩),
   ([0x0FC10EA4, 0x000600C4], .fcvt .i8 .f32 ⟨.rna, true⟩ (.g 3) (.g 1) false),
   ([0x00010EA8, 0x00000009], .fclass .e4m3 ⟨.g 3, .g 1, false, 0⟩),
   ([0x00810EAC, 0x00000008], .cvp .h2 .bf16 ⟨.rne, false⟩ ⟨.g 3, .g 1, false, .g 2, false, 0⟩),
   ([0x00810EAC, 0x00000109], .cvp .b4 .e4m3 ⟨.rne, false⟩ ⟨.g 3, .g 1, false, .g 2, false, 0⟩),
   ([0x00810EAC, 0x0000020D], .cvp .q4 .l4 ⟨.rne, false⟩ ⟨.g 3, .g 1, false, .g 2, false, 0⟩),
   ([0x00810EAC, 0x0000030C], .cvp .t6 .t6 ⟨.rne, false⟩ ⟨.g 3, .g 1, false, .g 2, false, 0⟩),
   ([0x00010EB0, 0x00000017], .fexp2 .f16 ⟨.rtz, false⟩ ⟨.g 3, .g 1, false, 0⟩),
   ([0x00010EB0, 0x00000117], .flog2 .f16 ⟨.rtz, false⟩ ⟨.g 3, .g 1, false, 0⟩),
   ([0x00010EB0, 0x00000217], .frcp .f16 ⟨.rtz, false⟩ ⟨.g 3, .g 1, false, 0⟩),
   ([0x00010EB0, 0x00000317], .frsq .f16 ⟨.rtz, false⟩ ⟨.g 3, .g 1, false, 0⟩),
   ([0x00010EB0, 0x00000417], .fsqrt .f16 ⟨.rtz, false⟩ ⟨.g 3, .g 1, false, 0⟩),
   ([0x00010EB0, 0x00000517], .fsin .f16 ⟨.rtz, false⟩ ⟨.g 3, .g 1, false, 0⟩),
   ([0x00010EB0, 0x00000617], .fcos .f16 ⟨.rtz, false⟩ ⟨.g 3, .g 1, false, 0⟩),
   ([0x00010EB0, 0x00000717], .ftanh .f16 ⟨.rtz, false⟩ ⟨.g 3, .g 1, false, 0⟩),
   ([0x0FC312B4, 0x00030009], .cvu .e4m3 ⟨.g 4, .g 3, false, .imm, false, 3⟩)] = true := by decide +kernel
theorem test_words_matrix : allRead
  [([0x00040AC2, 0x00015510, 0x00000001, 0x00000000], .mma ⟨.g 2, .g 4, .g 0, .g 0, 0, 0, 1, false, true, .ui8, .i8, 1, 0, false, 0, 0, 1⟩),
   ([0x000422C6, 0x100036F0, 0x00000001, 0x00000000], .mmb ⟨.g 8, .g 4, .g 0, .g 0, 1, 0, 0, false, false, .l4, .t8, 3, 0, false, 0, 0, 1⟩),
   ([0x00040ACA, 0x80083240, 0x0D000100, 0x00000000], .mms ⟨.g 2, .g 4, .g 0, .g 0, 8, 0, 8, false, false, .t6, .e4m3, 0, 0, true, 5, 0, 256⟩),
   ([0x00040ACE, 0x00000140, 0x00010002, 0x00000000], .mcmp ⟨.g 2, .g 4, .g 0, .g 0, 0, 0, 0, false, false, .i64, .ui8, 0, 0, false, 0, 1, 2⟩),
   ([0x000002D2, 0x00000020, 0x00000000, 0x00000000], .mzero ⟨.g 0, .g 0, .g 0, .g 0, 0, 0, 0, false, false, .i64, .i64, 2, 0, false, 0, 0, 0⟩),
   ([0x00001AD6, 0x00000010, 0x00000000, 0x00000000], .mlda ⟨.g 6, .g 0, .g 0, .g 0, 0, 0, 0, false, false, .i64, .i64, 1, 0, false, 0, 0, 0⟩),
   ([0x0000B2DA, 0x00000010, 0x00000000, 0x00000000], .msta ⟨.x 4, .g 0, .g 0, .g 0, 0, 0, 0, false, false, .i64, .i64, 1, 0, false, 0, 0, 0⟩),
   ([0x02CA22DE, 0x03014100, 0x00000000, 0x00000000], .mdrn ⟨.g 8, .g 10, .g 11, .g 0, 0, 48, 1, false, true, .i64, .i8, 0, 0, false, 0, 0, 0⟩),
   ([0x03400AE2, 0x00024100, 0x00000003, 0x00000000], .mrsum ⟨.g 2, .g 0, .g 13, .g 0, 0, 0, 2, false, true, .i64, .i8, 0, 0, false, 0, 0, 3⟩),
   ([0x034012E6, 0x00010340, 0x00000001, 0x00000000], .mcsum ⟨.g 4, .g 0, .g 13, .g 0, 0, 0, 1, false, false, .i64, .l4, 0, 0, false, 0, 0, 1⟩),
   ([0x00001AEA, 0x00000000, 0x00000000, 0x00000000], .mtbl ⟨.g 6, .g 0, .g 0, .g 0, 0, 0, 0, false, false, .i64, .i64, 0, 0, false, 0, 0, 0⟩),
   ([0x00003EEE, 0x00100030, 0x00000000, 0x00000000], .mstat ⟨.g 15, .g 0, .g 0, .g 0, 0, 1, 0, false, false, .i64, .i64, 3, 0, false, 0, 0, 0⟩)] = true := by decide +kernel
theorem test_words_engine : allRead
  [([0xF1462702, 0x10000003, 0x09001000, 0x00000000], .cpy ⟨.g 9, .g 6, .g 5, .imm, 1, 0, 0, false, false, .i64, .i64, 0, 0, true, 1, 0, 4096⟩),
   ([0x71462706, 0x10C00000, 0x0A000003, 0x00000000], .gath ⟨.g 9, .g 6, .g 5, .g 7, 1, 12, 0, false, false, .i64, .i64, 0, 0, true, 2, 0, 3⟩),
   ([0x7146270A, 0x40300000, 0x1A000003, 0x00000000], .scat ⟨.g 9, .g 6, .g 5, .g 7, 4, 3, 0, false, false, .i64, .i64, 0, 1, true, 2, 0, 3⟩),
   ([0x7146270E, 0x00004040, 0x0F000000, 0x00000000], .coll .bcast ⟨.g 9, .g 6, .g 5, .g 7, 0, 0, 0, false, true, .i64, .i32, 0, 0, true, 7, 0, 0⟩),
   ([0x7146270E, 0x00104040, 0x0F000000, 0x00000000], .coll .allred ⟨.g 9, .g 6, .g 5, .g 7, 0, 0, 0, false, true, .i64, .i32, 0, 0, true, 7, 0, 0⟩),
   ([0x7146270E, 0x00204040, 0x0F000000, 0x00000000], .coll .allmax ⟨.g 9, .g 6, .g 5, .g 7, 0, 0, 0, false, true, .i64, .i32, 0, 0, true, 7, 0, 0⟩),
   ([0x7146270E, 0x00304040, 0x0F000000, 0x00000000], .coll .allgath ⟨.g 9, .g 6, .g 5, .g 7, 0, 0, 0, false, true, .i64, .i32, 0, 0, true, 7, 0, 0⟩),
   ([0x7146270E, 0x00404040, 0x0F000000, 0x00000000], .coll .redscat ⟨.g 9, .g 6, .g 5, .g 7, 0, 0, 0, false, true, .i64, .i32, 0, 0, true, 7, 0, 0⟩),
   ([0x7146270E, 0x00504040, 0x0F000000, 0x00000000], .coll .alltoall ⟨.g 9, .g 6, .g 5, .g 7, 0, 0, 0, false, true, .i64, .i32, 0, 0, true, 7, 0, 0⟩),
   ([0x003F0310, 0x00020001], .tlwait 1 ⟨.imm, false, 2⟩),
   ([0x003F0F14, 0x00040007], .tlread (.g 3) 7 4),
   ([0x10091F18, 0x00000003], .tlnote (.g 7) (.g 9) true 0 3),
   ([0x0000031C, 0x00000005], .fqprst 5)] = true := by decide +kernel
theorem test_words_work : allRead
  [([0x003F0341, 0x000A0000, 0x0000000C], .start ⟨.imm, false, 10⟩ 12),
   ([0x10010344, 0x00000000], .hjoin ⟨.g 1, true, 0⟩),
   ([0x00000348, 0x00000000], .hexit),
   ([0x003F174D, 0x0012A100, 0x00000010], .post ⟨16, .g 5, .imm, 0x12, 0, true, 33⟩),
   ([0x0002A351, 0x00000030, 0xFFFFFFFC], .susp ⟨0xFFFFFFFC, .x 0, .g 2, 0, 3, false, 0⟩),
   ([0x00000354, 0x00000000], .yield),
   ([0x00000358, 0x00000000], .uexit),
   ([0x0201635C, 0x00000000], .enq (.g 24) ⟨.g 1, false, 0⟩ (.g 8)),
   ([0x0A3F635C, 0x00040100], .enqw (.g 24) ⟨.imm, false, 4⟩ (.x 0)),
   ([0x00000360, 0x00000000], .deq),
   ([0x00000364, 0x00000000], .recdone),
   ([0x000F0368, 0x00000000], .splitok ⟨.g 15, false, 0⟩),
   ([0x00000368, 0x00000100], .mergeok),
   ([0x003F0F6C, 0x01000000], .tballoc ⟨.g 3, .imm, false, 256⟩),
   ([0x0001036C, 0x00000100], .tbfree ⟨.g 1, false, 0⟩),
   ([0x00810370, 0x00000000], .tbset .empty (.g 1) false (.g 2) false 0),
   ([0x00810370, 0x00000010], .tbset .filling (.g 1) false (.g 2) false 0),
   ([0x00810370, 0x00000020], .tbset .full (.g 1) false (.g 2) false 0),
   ([0x00810370, 0x00000030], .tbset .draining (.g 1) false (.g 2) false 0),
   ([0x00010F70, 0x00000100], .tbstat ⟨.g 3, .g 1, false, 0⟩),
   ([0x00000374, 0x00000000], .spanx),
   ([0x00000374, 0x00000100], .spanc),
   ([0x00000378, 0x00000000], .gbar),
   ([0x003F0F7C, 0x00020000], .lcnt (.g 3) 2),
   ([0x003F037C, 0x00030100], .cancel 3)] = true := by decide +kernel
theorem test_words_system : allRead
  [([0x00020F80, 0x00000000], .pchk (.g 3) (.g 2) false),
   ([0x00000F84, 0x00000000], .pclr (.g 3)),
   ([0x00000F88, 0x00000000], .pset (.g 3)),
   ([0x00000391, 0x00000000, 0x00123456], .sig 0x123456),
   ([0x00000394, 0x00000000], .upret),
   ([0x003F0F98, 0x00010000], .upmask ⟨.g 3, .imm, false, 1⟩),
   ([0x000003C0, 0x001F0000], .trap 31),
   ([0x000003C4, 0x00000000], .tret),
   ([0x0000A3C8, 0x00210000], .csrr (.x 0) 0x021),
   ([0x100103CC, 0x0FFF0000], .csrw (.g 1) true 0xFFF),
   ([0x079973D0, 0x00000000], .tinv (.g 28) (.g 25) (.g 30) 0),
   ([0x000003D4, 0x00000000], .tsync),
   ([0x000003D8, 0x00010000], .l2fl true),
   ([0x000003DC, 0x00000000], .idle)] = true := by decide +kernel


end Sys2Proof.Tests
end

section

/-! The canonical form of the memories under the model's operations: one lemma per operation, in the order of the model, and the lemma of
a step at the end. An operation that touches no memory keeps the form by definition, so its lemma is the hypothesis itself; one that
writes a memory rests on the laws of `PMem`; one that calls others rests on their lemmas, branch by branch. -/

namespace Sys2Proof.Machine

/-! ## The memories of a state -/

/-- The canonical form of a state's memories, device, host, the cores' local stores and those of the spare cores, on their own: what
`State.memOk` says, without the other fields. -/
def MemsOk (m h : PMem) (c p : Tab Core) : Prop := m.wf ∧ h.wf ∧ (∀ e ∈ c, e.2.ls.wf) ∧ ∀ e ∈ p, e.2.ls.wf

theorem State.memOk_iff (s : State) : s.memOk ↔ MemsOk s.mem s.hostMem s.cores s.spare := Iff.rfl

/-- Every next state that an outcome answers is canonical. -/
def Out.memOk : Out → Prop
  | .next t => t.memOk
  | .fault _ => True
  | .refused _ => True

theorem State.memOk.dev {s : State} (h : s.memOk) : s.mem.wf := h.1

theorem State.memOk.host {s : State} (h : s.memOk) : s.hostMem.wf := h.2.1

theorem State.memOk.setDev {s : State} (h : s.memOk) {m : PMem} (hm : m.wf) : MemsOk m s.hostMem s.cores s.spare := ⟨hm, h.2⟩

theorem State.memOk.setHost {s : State} (h : s.memOk) {m : PMem} (hm : m.wf) : MemsOk s.mem m s.cores s.spare :=
  ⟨h.1, hm, h.2.2⟩

theorem Tab.get_mem {α : Type} (d : α) (t : Tab α) (k : Nat) : t.get d k = d ∨ (k, t.get d k) ∈ t := by
  induction t with
  | nil => exact .inl rfl
  | cons e t ih =>
    by_cases hk : e.1 = k
    · subst hk; simp [Tab.get]
    · simp only [Tab.get, hk, if_false]
      exact ih.imp id (List.mem_cons_of_mem _)

theorem State.coreAt_wf {s : State} (h : s.memOk) (k : Nat) : (s.coreAt k).ls.wf := by
  obtain ⟨-, -, hc, -⟩ := h
  rcases Tab.get_mem Core.reset s.cores k with hr | hm
  · rw [State.coreAt, hr]; exact PMem.wf_blank
  · exact hc _ hm

theorem foldl_memOk {α : Type} {s : State} (h : s.memOk) (l : List α) (f : State → α → State)
    (hf : ∀ t x, t.memOk → (f t x).memOk) : (l.foldl f s).memOk :=
  List.foldlRecOn l f h fun t ht x _ => hf t x ht

theorem foldl_wf {α : Type} {m : PMem} (h : m.wf) (l : List α) (f : PMem → α → PMem)
    (hf : ∀ m x, m.wf → (f m x).wf) : (l.foldl f m).wf :=
  List.foldlRecOn l f h fun m hm x _ => hf m x hm

theorem Req.onMem_wf {m : PMem} (h : m.wf) (r : Req) (a : Nat) {p : Perf} (hp : r.onMem m a = some p) : p.mem.wf := by
  unfold Req.onMem at hp
  grind [PMem.wf_write, PMem.wf_writeClean, PMem.wf_writeRun, PMem.wf_setFull]

theorem Core.forPart_wf {c : Core} (h : c.ls.wf) (p : Nat) : (c.forPart p).ls.wf := by
  unfold Core.forPart
  split
  · exact h
  · exact PMem.wf_blank

theorem firstSome_some {α β : Type} {f : α → Option β} {l : List α} {b : β} (h : firstSome f l = some b) : ∃ a, f a = some b := by
  induction l with
  | nil => cases h
  | cons a l ih =>
    unfold firstSome at h
    split at h
    · next hf => exact ⟨a, hf.trans h⟩
    · exact ih h

theorem firstSome_memOk {t : State} {α : Type} {f : α → Option State} (hf : ∀ a t, f a = some t → t.memOk) {l : List α}
    (ht : firstSome f l = some t) : t.memOk :=
  (firstSome_some ht).elim (hf · t)

theorem PMem.wf_putImage {m : PMem} (h : m.wf) (base : Nat) (ls : PMem) (has : Nat → Bool) : (m.putImage base ls has).wf :=
  List.foldlRecOn (motive := fun l => Memory.wf l = true) ls.bytes _ (Memory.wf_filter h _) fun _ hb _ _ => Memory.wf_setByte hb _ _

theorem PMem.wf_lsRestore {m : PMem} (h : m.wf) (img : PMem) (u : UnitSt) (o : Option Nat) (all : Bool) :
    (lsRestore m img u o all).wf :=
  List.foldlRecOn (motive := fun l => Memory.wf l = true) img.bytes _ (Memory.wf_filter h _) fun _ hb _ _ => Memory.wf_setByte hb _ _

theorem PMem.wf_restoreSnap {m : PMem} (h : m.wf) (log : Tab (List Byte × List Bool)) : (restoreSnap m log).wf := by
  refine foldl_wf h log _ fun m e hm => ?_
  have hb : Memory.wf (e.2.1.foldl (fun (x : List Host.Cell × Nat) b => (Memory.setByte x.1 x.2 b, x.2 + 1))
      (m.bytes, 256 * e.1)).1 = true :=
    List.foldlRecOn (motive := fun (x : List Host.Cell × Nat) => Memory.wf x.1 = true) e.2.1 _ hm fun _ hx _ _ => Memory.wf_setByte hx _ _
  exact List.foldlRecOn (motive := fun x : PMem × Nat => x.1.wf) e.2.2 _ hb fun _ hx _ _ => PMem.wf_setPoison hx _ _

theorem PMem.wf_paste {m : PMem} (h : m.wf) (a n : Nat) (p : PMem) : (m.paste a n p).wf :=
  List.foldlRecOn (motive := fun l => Memory.wf l = true) p.bytes _ (Memory.wf_filter h _) fun _ hb _ _ => Memory.wf_setByte hb _ _

section

variable {s : State} (h : s.memOk)
include h

/-! ### The tables of the state, counters, notices, timelines and landings (Machine/Base) -/

theorem State.setCore_memOk (k : Nat) (c : Core) (hc : c.ls.wf) : (s.setCore k c).memOk := by
  obtain ⟨hmem, hhost, hcores, hspare⟩ := h
  refine ⟨hmem, hhost, fun e he => ?_, hspare⟩
  rcases (Tab.mem_set s.cores k c e).1 he with rfl | hm
  · exact hc
  · exact hcores e hm.1

theorem State.modCore_memOk (k : Nat) (f : Core → Core) (hf : ∀ c, c.ls.wf → (f c).ls.wf) :
    (s.modCore k f).memOk := State.setCore_memOk h k _ (hf _ (State.coreAt_wf h k))

theorem State.setUnit_memOk (t : Nat) (u : UnitSt) : (s.setUnit t u).memOk := h

theorem State.modUnit_memOk (t : Nat) (f : UnitSt → UnitSt) : (s.modUnit t f).memOk := h

theorem State.setThr_memOk (t : Nat) (e : Thread) : (s.setThr t e).memOk := h

theorem State.modThr_memOk (t : Nat) (f : Thread → Thread) : (s.modThr t f).memOk := h

theorem State.setPart_memOk (p : Nat) (e : Part) : (s.setPart p e).memOk := h

theorem State.modPart_memOk (p : Nat) (f : Part → Part) : (s.modPart p f).memOk := h

theorem State.setLaunch_memOk (l : Nat) (e : Launch) : (s.setLaunch l e).memOk := h

theorem State.modLaunch_memOk (l : Nat) (f : Launch → Launch) : (s.modLaunch l f).memOk := h

theorem State.modStage_memOk (k : Nat) (f : StageRt → StageRt) : (s.modStage k f).memOk := h

theorem State.modInst_memOk (k i : Nat) (f : Inst → Inst) : (s.modInst k i f).memOk := h

theorem State.modCtx_memOk (t c : Nat) (f : Ctx → Ctx) : (s.modCtx t c f).memOk := h

theorem State.setUn_memOk (u : UnitSt) : (s.setUn u).memOk := h

theorem State.setCx_memOk (c : Ctx) : (s.setCx c).memOk := h

theorem State.setTl_memOk (t tl : Nat) (e : Timeline) : (s.setTl t tl e).memOk := h

theorem State.bump_memOk (part t key c : Nat) (n : Cnt) (no : Nat) : (s.bump part t key c n no).memOk := by
  unfold State.bump
  grind [State.modPart_memOk, State.modCtx_memOk, State.modThr_memOk]

theorem State.pm_memOk (t ev : Nat) (sup : Bool) : (s.pm t ev sup).memOk := by
  unfold State.pm
  grind [State.modUnit_memOk]

theorem State.notify_memOk (t key c : Nat) (cause : Cause) (arg : Word) : (s.notify t key c cause arg).memOk := h

theorem State.irq_memOk (p v : Nat) : (s.irq p v).memOk := h

theorem State.log_memOk (p evt : Nat) (cause : Cause) (addr : Word) (t launch detail : Nat) :
    (s.log p evt cause addr t launch detail).memOk :=
  h

theorem State.logTable_memOk (p table : Nat) : (s.logTable p table).memOk := h

theorem State.opEnd_memOk (t tl no status : Nat) (addr : Word) (step : Nat) : (s.opEnd t tl no status addr step).memOk := by
  unfold State.opEnd
  grind [State.setThr_memOk, State.modUnit_memOk, State.notify_memOk]

theorem State.opDone_memOk (t tl no status : Nat) (addr : Word) (step : Nat) : (s.opDone t tl no status addr step).memOk := by
  unfold State.opDone
  grind [State.opEnd_memOk, foldl_memOk]

theorem State.flushOps_memOk (t status : Nat) : (s.flushOps t status).memOk := foldl_memOk h _ _ fun _ _ ht => State.opEnd_memOk ht ..

theorem State.routePacket_memOk (gw : Option Nat) (peer : Nat) (p : Packet) : (s.routePacket gw peer p).memOk := by
  unfold State.routePacket
  grind [State.memOk_iff]

theorem State.sendPacket_memOk (peer : Nat) (p : Packet) : (s.sendPacket peer p).memOk := State.routePacket_memOk h ..

theorem State.respond_memOk (g : Asker) (typ status : Nat) (payload : List Word) (pmask : Nat) (sub : Bool) :
    (s.respond g typ status payload pmask sub).memOk := by
  unfold State.respond
  grind [State.sendPacket_memOk]

theorem State.landEnds_memOk (l : Landing) (status : Nat) (addr : Word) : (s.landEnds l status addr).memOk := by
  unfold State.landEnds
  grind [State.opDone_memOk]

theorem State.landed_memOk (l : Landing) : (s.landed l).memOk := by
  unfold State.landed
  grind [State.respond_memOk, State.landEnds_memOk]

theorem State.rejectQuiet_memOk (l : Landing) : (s.rejectQuiet l).memOk := by
  unfold State.rejectQuiet
  grind [State.respond_memOk, State.landEnds_memOk, State.notify_memOk]

theorem State.reject_memOk (l : Landing) : (s.reject l).memOk := by
  unfold State.reject
  grind [State.rejectQuiet_memOk, State.bump_memOk]

theorem State.offer_memOk (k : Nat) (l : Landing) : (s.offer k l).memOk := by
  unfold State.offer
  grind [State.landed_memOk, State.pm_memOk, State.setUnit_memOk, State.setCore_memOk, State.coreAt_wf]

theorem State.drain_memOk (k : Nat) : (s.drain k).memOk := by
  unfold State.drain
  grind [State.offer_memOk, State.setCore_memOk, State.coreAt_wf, foldl_memOk]

theorem State.jobDec_memOk (p j : Nat) : (s.jobDec p j).memOk := by
  unfold State.jobDec
  grind [State.modPart_memOk, State.memOk_iff]

theorem State.phaseDec_memOk (p f : Nat) : (s.phaseDec p f).memOk := by
  unfold State.phaseDec
  grind [State.jobDec_memOk, State.memOk_iff]

theorem State.graphDec_memOk (p g : Nat) : (s.graphDec p g).memOk := by
  unfold State.graphDec
  grind [State.phaseDec_memOk, State.memOk_iff]

theorem State.launchDec_memOk (p l n : Nat) : (s.launchDec p l n).memOk := by
  unfold State.launchDec
  grind [State.setLaunch_memOk, State.graphDec_memOk]

theorem State.stopStage_memOk (k : Nat) (addr : Word) : (s.stopStage k addr).memOk := by
  unfold State.stopStage
  grind [State.irq_memOk, State.log_memOk, State.modStage_memOk]

theorem State.loseInst_memOk (o : Option (Nat × Nat)) : (s.loseInst o).memOk := by
  unfold State.loseInst
  grind [State.modInst_memOk, State.stopStage_memOk]

theorem State.orphanInvs_memOk (t : Nat) (ctx : Nat → Bool) : (s.orphanInvs t ctx).memOk := by
  unfold State.orphanInvs
  grind [State.memOk_iff]

theorem State.closeThread_memOk (t : Nat) : (s.closeThread t).memOk := by
  unfold State.closeThread
  grind [State.setThr_memOk, State.modCore_memOk, State.reject_memOk, foldl_memOk, State.memOk_iff]

theorem State.gangGone_memOk (p l : Nat) : (s.gangGone p l).memOk := by
  unfold State.gangGone
  grind [State.setLaunch_memOk]

theorem State.discard_memOk (t status : Nat) : (s.discard t status).memOk := by
  unfold State.discard
  grind [State.loseInst_memOk, State.gangGone_memOk, State.flushOps_memOk, State.closeThread_memOk]

theorem State.discardAlone_memOk (t : Nat) : (s.discardAlone t).memOk := State.discard_memOk h ..

/-! ### Operands (Machine/Operands) -/

theorem State.setLink_memOk (k d : Nat) (l : List Val) : (s.setLink k d l).memOk := State.modCore_memOk h _ _ fun _ hc => hc

theorem State.takeSrc_memOk (o : SrcOp) : (s.takeSrc o).memOk := by
  unfold State.takeSrc
  grind [State.setCx_memOk, State.setLink_memOk]

theorem State.takeAll_memOk (l : List SrcOp) : (s.takeAll l).memOk := foldl_memOk h _ _ fun _ _ ht => State.takeSrc_memOk ht ..

theorem State.writeDst_memOk (v : Val) (d : Opd) : (s.writeDst v d).memOk := by
  unfold State.writeDst
  grind [State.setCx_memOk, State.setLink_memOk]

/-! ### Waiting, retiring, exceptions and the moulds (Machine/Ops) -/

theorem State.waits_memOk (w : Wait) : (s.waits w).memOk := by
  unfold State.waits
  grind [State.setCx_memOk]

theorem State.retireTo_memOk (p : Word) : (s.retireTo p).memOk := State.pm_memOk (State.setCx_memOk h ..) ..

theorem State.retire_memOk : s.retire.memOk := State.retireTo_memOk h ..

theorem State.trapAt_memOk (t c : Nat) (cause : Cause) (tpc taddr : Word) : (s.trapAt t c cause tpc taddr).memOk := by
  unfold State.trapAt
  grind [State.pm_memOk, State.setUnit_memOk, State.discard_memOk, State.irq_memOk, State.log_memOk]

theorem State.trap_memOk (cause : Cause) (tpc taddr : Word) : (s.trap cause tpc taddr).memOk := State.trapAt_memOk h ..

theorem State.upcallAt_memOk (t c : Nat) (cause : Cause) (upc uarg : Word) : (s.upcallAt t c cause upc uarg).memOk :=
  State.pm_memOk (State.setUnit_memOk h ..) ..

theorem State.syncUpcall_memOk (t c : Nat) (cause : Cause) (upc uarg : Word) : (s.syncUpcall t c cause upc uarg).memOk := by
  unfold State.syncUpcall
  grind [State.upcallAt_memOk, State.trapAt_memOk]

theorem State.consumeAt_memOk (t c : Nat) (cause : Cause) (tpc taddr : Word) : (s.consumeAt t c cause tpc taddr).memOk := by
  unfold State.consumeAt
  grind [State.trapAt_memOk, State.memOk_iff]

theorem State.consume_memOk (cause : Cause) (taddr : Word) : (s.consume cause taddr).memOk := State.consumeAt_memOk h ..

theorem State.sigFault_memOk (tpc taddr : Word) : (s.sigFault tpc taddr).memOk := by
  unfold State.sigFault
  grind [State.setCx_memOk, State.modCore_memOk, State.consumeAt_memOk]

theorem State.retireEnd_memOk (p : Word) : (s.retireEnd p).memOk := by
  unfold State.retireEnd
  grind [State.pm_memOk, State.setCx_memOk, State.sigFault_memOk, State.retireTo_memOk]

theorem State.noteAbsent_memOk (c : Cause) (a : Word) : (s.noteAbsent c a).memOk := by
  unfold State.noteAbsent
  grind [State.log_memOk]

theorem State.raise_memOk (e : Exc) : (s.raise e).memOk := by
  unfold State.raise
  grind [State.noteAbsent_memOk, State.trap_memOk, State.consume_memOk]

theorem State.awaits_memOk (imm : Word) (srcs : List SrcOp) : (s.awaits imm srcs).memOk := h

theorem State.badLink_memOk (imm : Word) (srcs : List SrcOp) (d : Option Opd) : (s.badLink imm srcs d).memOk := by
  unfold State.badLink
  grind [State.awaits_memOk, State.waits_memOk, State.trap_memOk]

theorem scalarE_memOk (p : Scal) (eff : List Val → State → State)
    (he : ∀ vs t, t.memOk → (eff vs t).memOk) : Out.memOk (scalarE s p eff) := by
  unfold scalarE
  grind [State.badLink_memOk, State.awaits_memOk, State.waits_memOk, State.raise_memOk, State.takeAll_memOk,
    State.writeDst_memOk, State.drain_memOk, State.retire_memOk, Out.memOk]

theorem scalar_memOk (p : Scal) : Out.memOk (scalar s p) :=
  scalarE_memOk h p _ fun _ _ ht => ht

theorem control_memOk (p : Ctl) (ha : ∀ t vs, t.memOk → (p.act t vs).memOk) :
    Out.memOk (control s p) := by
  unfold control
  grind [State.badLink_memOk, State.awaits_memOk, State.raise_memOk, State.drain_memOk, State.takeAll_memOk, Out.memOk]

theorem drawing_memOk (draws : Bool) {o : Out} (ho : Out.memOk o) :
    Out.memOk (drawing s draws o) := by
  unfold drawing
  grind [State.waits_memOk, Out.memOk]

/-! ### Views and the planisher (Machine/Block) -/

theorem State.setMemOf_memOk (ln : Nat) (m : PMem) (hm : m.wf) : (s.setMemOf ln m).memOk := by
  unfold State.setMemOf
  grind [State.memOk_iff, State.memOk.setDev, State.memOk.setHost]

theorem State.memOf_wf (ln : Nat) : (s.memOf ln).wf := by
  unfold State.memOf
  grind [State.memOk.dev, State.memOk.host]

theorem State.verify_memOk (who : Option Nat) (block : Nat) (lines : List Nat) :
    (s.verify who block lines).memOk := by
  unfold State.verify
  grind [State.setMemOf_memOk, State.memOf_wf, PMem.wf_poisonLine, State.log_memOk, State.modPart_memOk, foldl_memOk, State.memOk_iff]

theorem State.verifyRun_memOk (who : Option Nat) (block a n : Nat) : (s.verifyRun who block a n).memOk := State.verify_memOk h ..

theorem State.assemble_memOk (wi n : Nat) : (s.assemble wi n).memOk := by
  unfold State.assemble
  grind [State.verify_memOk, State.memOk_iff, State.memOk.setDev, State.memOk.dev, PMem.wf_writeRun]

theorem State.disassemble_memOk (wi n : Nat) : (s.disassemble wi n).memOk := by
  unfold State.disassemble
  grind [State.verify_memOk, State.memOk_iff, State.memOk.setDev, State.memOk.dev, PMem.wf_writeRun]

theorem State.dropView_memOk (wi n : Nat) : (s.dropView wi n).memOk := by
  unfold State.dropView
  grind [State.verify_memOk, State.disassemble_memOk, State.memOk_iff, State.memOk.setDev, State.memOk.dev, PMem.wf_clear]

theorem State.touchView_memOk (pa n : Nat) : (s.touchView pa n).memOk := by
  unfold State.touchView
  grind [State.assemble_memOk, foldl_memOk]

theorem State.dirtyView_memOk (pa n : Nat) : (s.dirtyView pa n).memOk := by
  unfold State.dirtyView
  grind [foldl_memOk, State.memOk_iff]

/-! ### The tables in memory and the hardware's own reads and writes (Machine/Tables) -/

theorem State.keepPart_memOk (old : State) (pa n : Nat) : (State.keepPart old pa n s).memOk := by
  unfold State.keepPart
  grind [foldl_memOk, State.memOk_iff, MemsOk, PMem.wf, Memory.wf_setByte]

theorem State.logWalk_memOk (part asid va : Nat) : (s.logWalk part asid va).memOk := by
  unfold State.logWalk
  grind [State.logTable_memOk]

theorem State.logSpace_memOk (part asid : Nat) : (s.logSpace part asid).memOk := by
  unfold State.logSpace
  grind [State.logTable_memOk]

theorem State.keepTrans_memOk (asid va : Nat) (t : Trans) : (s.keepTrans asid va t).memOk := by
  unfold State.keepTrans
  grind [State.memOk_iff]

theorem State.keepHost_memOk (asid va : Nat) (ans : HostAns) : (s.keepHost asid va ans).memOk := by
  unfold State.keepHost
  grind [State.keepTrans_memOk]

theorem State.homeRead_memOk (who : Option Nat) (pa : Nat) : (s.homeRead who pa).memOk := by
  unfold State.homeRead
  grind [State.verify_memOk]

theorem State.walkReads_memOk (who : Option Nat) (va table level : Nat) :
    (s.walkReads who va table level).memOk := by
  induction level generalizing s table with
  | zero => exact h
  | succ n ih => unfold State.walkReads; grind [State.homeRead_memOk]

theorem State.walkCome_memOk (who : Option Nat) (asid va : Nat) : (s.walkCome who asid va).memOk := by
  unfold State.walkCome
  grind [State.homeRead_memOk, State.walkReads_memOk]

theorem State.sigWalk_memOk (asid va : Nat) : (s.sigWalk asid va).memOk := State.walkCome_memOk h ..

theorem State.purge_memOk (f : Trans → Bool) : (s.purge f).memOk := h

theorem State.vcome_memOk (who : Option Nat) (asid va n : Nat) : (s.vcome who asid va n).memOk := by
  unfold State.vcome
  grind [State.walkCome_memOk, State.homeRead_memOk, foldl_memOk]

theorem State.vwrite_memOk (asid va n v : Nat) (p : Bool) : (s.vwrite asid va n v p).memOk := by
  unfold State.vwrite
  grind [State.keepPart_memOk, State.memOk_iff, State.memOk.setDev, State.memOk.setHost, State.memOk.dev, State.memOk.host, PMem.wf_write]

theorem State.mapCome_memOk (asid i : Nat) (c : List Nat) : (s.mapCome asid i c).memOk := by
  unfold State.mapCome
  grind [State.vcome_memOk]

theorem State.logMap_memOk (part asid i : Nat) (c : List Nat) : (s.logMap part asid i c).memOk := by
  unfold State.logMap
  grind [State.logTable_memOk]

theorem State.setLs_memOk (k : Nat) (m : PMem) (hm : m.wf) : (s.setLs k m).memOk :=
  State.modCore_memOk h k _ fun _ _ => hm

/-! ### CSRs (Machine/Csr) -/

theorem State.csrWrite_memOk (n : Nat) (v : Word) : (s.csrWrite n v).memOk := by
  unfold State.csrWrite
  grind [State.setUn_memOk, State.setCx_memOk, State.modPart_memOk]

theorem State.csrPut_memOk (n : Nat) (v : Word) : (s.csrPut n v).memOk := by
  unfold State.csrPut
  grind [State.csrWrite_memOk]

/-! ### Caches (Machine/Cache) -/

theorem State.stkDrop_memOk (who : Option Nat) (ln : Nat) : (s.stkDrop who ln).memOk := by
  unfold State.stkDrop
  grind [State.dropView_memOk, State.verify_memOk, State.memOk_iff]

theorem State.stkPut_memOk (who : Option Nat) (ln : Nat) (dirty keep fill : Bool) : (s.stkPut who ln dirty keep fill).memOk := by
  unfold State.stkPut
  grind [State.verify_memOk, State.stkDrop_memOk, State.memOk_iff]

theorem State.l2Drop_memOk (who : Option Nat) (f : L2Line → Bool) : (s.l2Drop who f).memOk := by
  unfold State.l2Drop
  grind [State.stkPut_memOk, State.verify_memOk, foldl_memOk, State.memOk_iff]

theorem State.l2Put_memOk (who : Option Nat) (asid va ln : Nat) (dirty keep : Bool) : (s.l2Put who asid va ln dirty keep).memOk := by
  unfold State.l2Put
  grind [State.l2Drop_memOk, State.verify_memOk, State.memOk_iff]

theorem State.through_memOk (part asid va ln mt : Nat) (dirty home : Bool) (pol : Policy) :
    (s.through part asid va ln mt dirty home pol).memOk := by
  unfold State.through
  grind [State.l2Put_memOk, State.stkPut_memOk, State.l2Drop_memOk, State.verify_memOk]

theorem State.showBytes_memOk (a n v : Nat) : (s.showBytes a n v).memOk := by
  unfold State.showBytes
  grind [State.memOk_iff, State.memOk.setDev, State.memOk.dev, PMem.wf_write]

theorem State.showTables_memOk (pa n : Nat) : (s.showTables pa n).memOk := by
  unfold State.showTables
  grind [State.showBytes_memOk, foldl_memOk]

theorem State.bring_memOk (pa n : Nat) : (s.bring pa n).memOk := State.touchView_memOk (State.showTables_memOk h ..) ..

theorem State.cacheAt_memOk (part asid va : Nat) (tgt : Tgt) (mt n : Nat) (dirty home : Bool) (pol : Policy) :
    (s.cacheAt part asid va tgt mt n dirty home pol).memOk := by
  unfold State.cacheAt
  grind [State.through_memOk, State.bring_memOk]

/-! ### Context save areas (Machine/Csa) -/

theorem State.putCsa_memOk (base : Nat) (l : List (Nat × Nat)) : (s.putCsa base l).memOk :=
  h.setDev (foldl_wf h.dev l _ fun _ _ hm => PMem.wf_write hm ..)

theorem State.syncCsa_memOk (t : Nat) (old : List (Nat × Nat)) : (s.syncCsa t old).memOk := State.putCsa_memOk h ..

omit h in
theorem State.inCsa_memOk (t : Nat) (f : State → State) (hf : (f s).memOk) : (s.inCsa t f).memOk := by
  unfold State.inCsa
  grind [State.syncCsa_memOk]

/-! ### Pages of registers (Machine/Mmio) -/

theorem State.modRing_memOk (p r : Nat) (f : Ring → Ring) : (s.modRing p r f).memOk := h

theorem State.setWindow_memOk (w : Nat) (e : Window) : (s.setWindow w e).memOk := h

theorem State.enableWindow_memOk (wi : Nat) : (s.enableWindow wi).memOk := by
  unfold State.enableWindow
  grind [State.setWindow_memOk]

theorem State.disableWindow_memOk (wi : Nat) : (s.disableWindow wi).memOk := by
  unfold State.disableWindow
  grind [State.dropView_memOk, State.setWindow_memOk, foldl_memOk]

theorem State.writeWindow_memOk (wi k v : Nat) : (s.writeWindow wi k v).memOk := by
  unfold State.writeWindow
  grind [State.disableWindow_memOk, State.setWindow_memOk, State.enableWindow_memOk]

theorem State.reprioritise_memOk (p l prio : Nat) : (s.reprioritise p l prio).memOk := by
  unfold State.reprioritise
  grind [State.memOk_iff]

theorem State.mmioWrite_memOk (p off v : Nat) : (s.mmioWrite p off v).memOk := by
  unfold State.mmioWrite
  grind [State.setPart_memOk, State.writeWindow_memOk, State.setWindow_memOk]

theorem State.ringWrite_memOk (p r off v : Nat) : (s.ringWrite p r off v).memOk := by
  unfold State.ringWrite
  grind [State.modRing_memOk, State.reprioritise_memOk]

theorem State.victimWrite_memOk (p asid off v : Nat) : (s.victimWrite p asid off v).memOk := by
  unfold State.victimWrite
  grind [State.setPart_memOk]

theorem State.devWrite_memOk (asid off n v : Nat) : (s.devWrite asid off n v).memOk := by
  unfold State.devWrite
  grind [State.mmioWrite_memOk, State.victimWrite_memOk, State.ringWrite_memOk]

/-! ### Accesses (Machine/Access) -/

theorem State.modReq_memOk (i : Nat) (f : Req → Req) : (s.modReq i f).memOk := h

theorem State.dropReq_memOk (i : Nat) : (s.dropReq i).memOk := h

theorem State.poisonReport_memOk (p line : Nat) : (s.poisonReport p line).memOk := by
  unfold State.poisonReport
  grind [State.irq_memOk, State.modPart_memOk]

theorem State.hostRecall_memOk (line : Nat) : (s.hostRecall line).memOk := State.stkDrop_memOk (State.l2Drop_memOk h ..) ..

theorem State.track_memOk (line : Nat) : (s.track line).memOk := by
  unfold State.track
  grind [State.hostRecall_memOk, State.memOk_iff]

theorem State.performOn_memOk {t : State} (r : Req) {v : Val} {sub : Bool}
    (ht : s.performOn r = some (t, v, sub)) : t.memOk := by
  unfold State.performOn at ht
  grind [State.bring_memOk, State.keepPart_memOk, State.dirtyView_memOk, State.track_memOk, State.poisonReport_memOk, State.devWrite_memOk,
    State.memOk_iff, State.memOk.setDev, State.memOk.setHost, State.memOk.dev, State.memOk.host, Req.onMem_wf]

theorem State.launchLanding_memOk (l : Landing) : (s.launchLanding l).memOk := h

theorem State.sendLanding_memOk (l : Landing) : (s.sendLanding l).memOk := h

theorem State.release_memOk (r : Req) : (s.release r).memOk := by
  unfold State.release
  grind [State.modCtx_memOk]

theorem State.spinNote_memOk (r : Req) : (s.spinNote r).memOk := by
  unfold State.spinNote
  grind [State.modCtx_memOk]

theorem State.lineOut_memOk (r : Req) : (s.lineOut r).1.memOk := by
  unfold State.lineOut
  grind [State.verify_memOk]

theorem State.performed_memOk (r : Req) (v : Val) (sub : Bool) : (s.performed r v sub).memOk := by
  unfold State.performed
  grind [State.release_memOk, State.bump_memOk, State.spinNote_memOk, State.launchLanding_memOk, State.respond_memOk, State.dropReq_memOk,
    State.lineOut_memOk, State.modReq_memOk]

theorem State.walkOnce_memOk (w : Nat) : (s.walkOnce w).memOk := by
  unfold State.walkOnce
  grind [State.performOn_memOk, State.performed_memOk, foldl_memOk]

theorem State.walkWord_memOk (w n : Nat) : (s.walkWord w n).memOk := by
  induction n generalizing s with
  | zero => exact h
  | succ n ih => unfold State.walkWord; grind [State.walkOnce_memOk]

theorem State.wordChanged_memOk (w : Nat) : (s.wordChanged w).memOk := by
  unfold State.wordChanged
  grind [State.walkWord_memOk]

theorem State.enlist_memOk (r : Req) : (s.enlist r).memOk := by
  unfold State.enlist
  grind [State.pm_memOk, State.respond_memOk, State.modReq_memOk, State.memOk_iff]

theorem State.performReq_memOk (r : Req) : (s.performReq r).memOk := by
  unfold State.performReq
  grind [State.performOn_memOk, State.enlist_memOk, State.performed_memOk, State.wordChanged_memOk]

theorem State.walkFor_memOk (r : Req) : (s.walkFor r).memOk := by
  unfold State.walkFor
  grind [State.sigWalk_memOk]

theorem State.newOp_memOk (t c tl : Nat) (k : OpKind) (uf gang : Bool) :
    (s.newOp t c tl k uf gang).1.memOk := by
  unfold State.newOp
  grind [State.setThr_memOk, State.opEnd_memOk]

theorem State.settle_memOk (r : Req) : (s.settle r).memOk := by
  unfold State.settle
  grind [State.modCtx_memOk, State.drain_memOk, State.pm_memOk]

theorem State.acceptReq_memOk (r : Req) (tgt : Tgt) (et : Bool) : (s.acceptReq r tgt et).memOk := by
  unfold State.acceptReq
  grind [State.newOp_memOk, State.settle_memOk, State.modReq_memOk, State.dropReq_memOk, State.release_memOk]

theorem State.unissue_memOk (r : Req) : (s.unissue r).memOk := h

theorem State.logPeer_memOk (r : Req) (peer : Nat) (detail : Nat) : (s.logPeer r peer detail).memOk := h

theorem State.trapReq_memOk (r : Req) (cause : Nat) (taddr : Word) : (s.trapReq r cause taddr).memOk := by
  unfold State.trapReq
  grind [State.logPeer_memOk, State.logWalk_memOk, State.logMap_memOk, State.inCsa_memOk, State.trapAt_memOk, State.unissue_memOk,
    State.dropReq_memOk]

theorem State.askHost_memOk (part asid : Nat) (va : Word) : (s.askHost part asid va).memOk := by
  unfold State.askHost
  grind [State.memOk_iff]

theorem State.priNext_memOk (part : Nat) : (s.priNext part).memOk := by
  unfold State.priNext
  grind [State.memOk_iff]

theorem State.parkReq_memOk (r : Req) (cause : Nat) (pte : Option Nat) : (s.parkReq r cause pte).memOk := by
  unfold State.parkReq
  grind [State.askHost_memOk, State.inCsa_memOk, State.syncUpcall_memOk, State.unissue_memOk, State.dropReq_memOk, State.memOk_iff]

theorem State.consumeReq_memOk (r : Req) : (s.consumeReq r).memOk := by
  unfold State.consumeReq
  grind [State.inCsa_memOk, State.consumeAt_memOk, State.unissue_memOk, State.dropReq_memOk]

theorem State.sendReq_memOk (r : Req) (peer : Nat) : (s.sendReq r peer).memOk := by
  unfold State.sendReq
  grind [State.modReq_memOk, State.sendPacket_memOk, State.memOk_iff]

theorem State.cacheReq_memOk (r : Req) (tgt : Tgt) (mt : Nat) : (s.cacheReq r tgt mt).memOk := State.cacheAt_memOk h ..

theorem State.acceptStep_memOk (r : Req) (ans : HostAns) : (s.acceptStep r ans).memOk := by
  unfold State.acceptStep
  grind [State.trapReq_memOk, State.parkReq_memOk, State.consumeReq_memOk, State.acceptReq_memOk, State.sendReq_memOk, State.modReq_memOk,
    State.keepTrans_memOk, State.cacheReq_memOk]

theorem State.snapLog_memOk {t : State} {k a n : Nat} (ht : s.snapLog k a n = some t) : t.memOk := by
  unfold State.snapLog at ht
  grind [State.setThr_memOk]

theorem State.lsWrite_memOk {t : State} {k a n : Nat} {f : PMem → PMem} (hf : ∀ m, m.wf → (f m).wf)
    (ht : s.lsWrite k a n f = some t) : t.memOk := by
  obtain ⟨u, hu, rfl⟩ := Option.map_eq_some_iff.1 ht
  have hu := State.snapLog_memOk h hu
  exact State.setLs_memOk hu k _ (hf _ (State.coreAt_wf hu k))

theorem State.snapOverflow_memOk (k : Nat) : (s.snapOverflow k).memOk := by
  unfold State.snapOverflow
  grind [State.consumeAt_memOk]

/-! ### Lines of the engines (Machine/Bulk) -/

theorem State.bulkRead_memOk (asid part : Nat) (va : Word) (n : Nat) (check : Bool) (b : Bulk) :
    (s.bulkRead asid part va n check b).1.memOk := by
  unfold State.bulkRead
  grind [State.keepTrans_memOk, State.cacheAt_memOk, State.verify_memOk, State.track_memOk]

theorem State.bulkWrite_memOk (asid part : Nat) (va : Word) (l : List (Byte × Bool)) (b : Bulk) :
    (s.bulkWrite asid part va l b).memOk := by
  unfold State.bulkWrite
  grind [State.keepTrans_memOk, State.cacheAt_memOk, State.keepPart_memOk, State.dirtyView_memOk, State.track_memOk,
    State.poisonReport_memOk, State.memOk_iff, State.memOk.setDev, State.memOk.setHost, State.memOk.dev, State.memOk.host,
    PMem.wf_writeRun]

/-! ### Memory instructions (Machine/Mem) -/

theorem memory_memOk (p : Ctl) (ha : ∀ t vs, t.memOk → (p.act t vs).memOk) :
    Out.memOk (memory s p) := by
  unfold memory
  grind [State.waits_memOk, State.awaits_memOk, State.raise_memOk, State.drain_memOk, Out.memOk]

theorem memoryTl_memOk (tle : Bool) (p : Ctl) (ha : ∀ t vs, t.memOk → (p.act t vs).memOk) :
    Out.memOk (memoryTl s tle p) := by
  unfold memoryTl
  grind [State.waits_memOk, memory_memOk, Out.memOk]

theorem State.pushReq_memOk (r : Req) : (s.pushReq r).memOk := h

theorem State.issueReq_memOk (r : Req) (takes : List SrcOp) : (s.issueReq r takes).memOk := by
  unfold State.issueReq
  grind [State.takeAll_memOk, State.pushReq_memOk, State.setCx_memOk]

theorem State.retireMem_memOk (takes : List SrcOp) : (s.retireMem takes).memOk := State.retire_memOk (State.takeAll_memOk h ..) ..

theorem State.returnVal_memOk (dst : Opd) (v : Val) (takes : List SrcOp) : (s.returnVal dst v takes).memOk := by
  unfold State.returnVal
  grind [State.retireMem_memOk, State.pushReq_memOk, State.setCx_memOk]

theorem execLd_memOk (sz : Sz) (sm : Sm) (pol : Policy) (m : MemOp) : Out.memOk (execLd sz sm pol m s) := by
  unfold execLd
  grind [memory_memOk, State.issueReq_memOk, State.returnVal_memOk]

theorem store_memOk (k : AKind) (sz : Sz) (sm : Sm) (pol : Policy) (m : MemOp) :
    Out.memOk (store k sz sm pol m s) := by
  refine memory_memOk h _ fun t vs ht => ?_
  dsimp only
  split
  · exact State.issueReq_memOk ht _ _
  · split
    · next hw =>
      refine State.retireMem_memOk (State.lsWrite_memOk ht (fun l hl => ?_) hw) _
      split
      · exact PMem.wf_writeClean hl ..
      · exact PMem.wf_write hl ..
    · exact State.snapOverflow_memOk ht _

theorem State.sendNow_memOk (lo : LandOpt) (mra : Word) (v : Val) : (s.sendNow lo mra v).memOk := by
  unfold State.sendNow
  grind [State.newOp_memOk, State.pushReq_memOk, State.sendLanding_memOk]

theorem execLdl_memOk (sz : Sz) (sm : Sm) (pol : Policy) (lo : LandOpt) (m : MemOp) : Out.memOk (execLdl sz sm pol lo m s) := by
  unfold execLdl
  grind [memoryTl_memOk, State.issueReq_memOk, State.sendNow_memOk, State.retireMem_memOk]

theorem execRsend_memOk (d a : Opd) (ta : Bool) (imm : BitVec 16) (lo : LandOpt) : Out.memOk (execRsend d a ta imm lo s) := by
  unfold execRsend
  grind [State.waits_memOk, memoryTl_memOk, State.sendNow_memOk, State.retireMem_memOk, Out.memOk]

theorem execAmo_memOk (op : AOp) (l : Bool) (sz : Sz) (mreg : Opd) (lo : LandOpt) (m : MemOp) :
    Out.memOk (execAmo op l sz mreg lo m s) :=
  memoryTl_memOk h _ _ fun _ _ ht => State.issueReq_memOk ht ..

theorem execCas_memOk (sz : Sz) (m : MemOp) : Out.memOk (execCas sz m s) := memory_memOk h _ fun _ _ ht => State.issueReq_memOk ht ..

theorem execFlagf_memOk (tl : BitVec 3) (m : MemOp) : Out.memOk (execFlagf tl m s) :=
  memoryTl_memOk h _ _ fun _ _ ht => State.issueReq_memOk ht ..

theorem State.mapRead_memOk (srcs : List SrcOp) (imm : Word) (coords : List Val → List Nat) : (s.mapRead srcs imm coords).memOk := by
  unfold State.mapRead
  grind [State.mapCome_memOk]

theorem memoryMap_memOk (c : List Val → List Nat) (p : Ctl) (ha : ∀ t vs, t.memOk → (p.act t vs).memOk) :
    Out.memOk (memoryMap s c p) := by
  unfold memoryMap
  grind [State.logMap_memOk, memory_memOk]

theorem shardGo_memOk (k : AKind) (sz : Sz) (sm : Sm) (o : ShardOp) (dSrc : List SrcOp) : Out.memOk (shardGo k sz sm o dSrc s) := by
  unfold shardGo
  grind [State.mapRead_memOk, memoryMap_memOk, State.issueReq_memOk]

theorem State.storeState_memOk {t : State} {asid i v : Nat} (ht : s.storeState asid i v = .ok t) : t.memOk := by
  unfold State.storeState at ht
  grind [State.vwrite_memOk]

theorem State.stateFault_memOk (i : Nat) (e : Nat × Nat) : (s.stateFault i e).memOk := by
  unfold State.stateFault
  grind [State.syncUpcall_memOk, State.trap_memOk, State.askHost_memOk, State.raise_memOk, State.logWalk_memOk, State.memOk_iff]

theorem execSmfrz_memOk (a : Src) : Out.memOk (execSmfrz a s) := by
  refine memoryMap_memOk (State.mapRead_memOk h ..) _ _ fun t vs ht => ?_
  dsimp only
  split
  · exact State.stateFault_memOk ht ..
  · next u hu =>
    have hu : u.memOk := by grind [State.storeState_memOk]
    grind [State.retireMem_memOk, State.waits_memOk, State.memOk_iff]

theorem State.unpark_memOk (r : Req) : (s.unpark r).memOk := by
  unfold State.unpark
  grind [State.mapCome_memOk, State.trapReq_memOk, State.logPeer_memOk, State.inCsa_memOk, State.trapAt_memOk, State.unissue_memOk,
    State.dropReq_memOk, State.modReq_memOk]

theorem State.thaw_memOk {t : State} {asid i : Nat} (ht : s.thaw asid i = .ok t) : t.memOk := by
  unfold State.thaw at ht
  grind [State.storeState_memOk]

theorem execSmrel_memOk (a : Src) : Out.memOk (execSmrel a s) := by
  refine memoryMap_memOk (State.mapRead_memOk h ..) _ _ fun t vs ht => ?_
  dsimp only
  split
  · exact State.retireMem_memOk ht _
  · have hv := State.vcome_memOk ht (some t.un.part) t.un.asid (t.asStab t.un.asid + 64 * (vat vs 0).v.toNat) 64
    split
    · exact State.stateFault_memOk hv ..
    · next u hu =>
      have hu : u.memOk := State.thaw_memOk hv hu
      refine State.retireMem_memOk (foldl_memOk ?_ _ _ fun _ _ h => State.unpark_memOk h _) _
      exact hu

theorem State.hintAt_memOk (part asid : Nat) (x : Hint) (lvl : Sys2Proof.Level) (va ln mt : Nat) :
    (s.hintAt part asid x lvl va ln mt).memOk := by
  unfold State.hintAt
  grind [State.l2Drop_memOk, State.stkDrop_memOk, State.stkPut_memOk, State.l2Put_memOk]

theorem State.hintLine_memOk (part asid : Nat) (x : Hint) (lvl : Sys2Proof.Level) (a : Word) : (s.hintLine part asid x lvl a).memOk := by
  unfold State.hintLine
  grind [State.sigWalk_memOk, State.hintAt_memOk, State.bring_memOk, State.track_memOk]

theorem hint_memOk (x : Hint) (lvl : Sys2Proof.Level) (m : MemOp) : Out.memOk (hint x lvl m s) := by
  unfold hint
  grind [memory_memOk, State.retireMem_memOk, State.bump_memOk, State.hintLine_memOk, foldl_memOk]

theorem execFence_memOk : Out.memOk (execFence s) := memory_memOk h _ fun _ _ ht => State.retire_memOk ht ..

/-! ### Scalar instructions (Machine/Scalar) -/

theorem bin_memOk (o : Bin) (res : List Val → Val) : Out.memOk (bin s o res) := scalar_memOk h ..

theorem binChk_memOk (o : Bin) (chk : List Val → Option Exc) (res : List Val → Val) : Out.memOk (binChk s o chk res) := scalar_memOk h ..

theorem bin3_memOk (o : Bin) (imm : Word) (chk : List Val → Option Exc) (res : List Val → Val) : Out.memOk (bin3 s o imm chk res) :=
  scalar_memOk h ..

theorem una_memOk (o : Un) (res : List Val → Val) : Out.memOk (una s o res) := scalar_memOk h ..

theorem State.setLfsr_memOk (l : BitVec 32) : (s.setLfsr l).memOk := h

theorem floatOp_memOk (srcs : List SrcOp) (d : Opd) (imm : Word) (ty : Ty) (md : Md) (f : List Val → FV) :
    Out.memOk (floatOp s srcs d imm ty md f) := by
  unfold floatOp
  grind [drawing_memOk, scalarE_memOk, State.setLfsr_memOk]

theorem fbin_memOk (o : Bin) (ty : Ty) (res : List Val → Val) : Out.memOk (fbin s o ty res) := scalar_memOk h ..

theorem execFcvt_memOk (dty sty : Ty) (md : Md) (d a : Opd) (ta : Bool) : Out.memOk (execFcvt dty sty md d a ta s) := by
  unfold execFcvt
  grind [drawing_memOk, scalarE_memOk, State.setLfsr_memOk]

theorem execCvp_memOk (form : PackForm) (ty : Ty) (md : Md) (o : Bin) : Out.memOk (execCvp form ty md o s) := by
  unfold execCvp
  grind [drawing_memOk, scalarE_memOk, State.setLfsr_memOk]

theorem sfuOp_memOk (fn : SfuFn) (ty : Ty) (md : Md) (o : Un) : Out.memOk (sfuOp s fn ty md o) := by
  unfold sfuOp
  grind [State.waits_memOk, drawing_memOk, control_memOk, State.setLfsr_memOk, State.modCore_memOk, State.retire_memOk, State.pm_memOk,
    State.memOk_iff, Out.memOk]

theorem execBr_memOk (off : BitVec 32) : Out.memOk (execBr off s) := control_memOk h _ fun _ _ ht => State.retireEnd_memOk ht ..

theorem condBr_memOk (a : Src) (off : BitVec 32) (taken : Word → Bool) : Out.memOk (condBr s a off taken) :=
  control_memOk h _ fun _ _ ht => State.retireEnd_memOk ht ..

theorem execBcmp_memOk (cc : Cc) (ty : Ty) (a : Opd) (ta : Bool) (b : Opd) (tb : Bool) (off : BitVec 16) :
    Out.memOk (execBcmp cc ty a ta b tb off s) :=
  control_memOk h _ fun _ _ ht => State.retireEnd_memOk ht ..

theorem execJmp_memOk (a : Opd) (ta : Bool) : Out.memOk (execJmp a ta s) := control_memOk h _ fun _ _ ht => State.retireEnd_memOk ht ..

theorem execCall_memOk (d a : Opd) (off : BitVec 32) : Out.memOk (execCall d a off s) := by
  unfold execCall
  grind [State.badLink_memOk, State.waits_memOk, control_memOk, State.retireEnd_memOk, State.writeDst_memOk, Out.memOk]

theorem execLoop_memOk (d : Opd) (off : BitVec 32) : Out.memOk (execLoop d off s) := by
  unfold execLoop
  grind [State.waits_memOk, control_memOk, State.retireEnd_memOk, State.writeDst_memOk, Out.memOk]

theorem execNop_memOk : Out.memOk (execNop s) := control_memOk h _ fun _ _ ht => State.retire_memOk ht ..

theorem execEmpty_memOk (d : Opd) : Out.memOk (execEmpty d s) := control_memOk h _ fun _ _ ht => State.retire_memOk ht ..

theorem execMarkf_memOk (d : Opd) : Out.memOk (execMarkf d s) := control_memOk h _ fun _ _ ht => State.retire_memOk ht ..

theorem execWaitf_memOk (a : Opd) (ta : Bool) : Out.memOk (execWaitf a ta s) := control_memOk h _ fun _ _ ht => State.retire_memOk ht ..

theorem execQcfg_memOk (d a : Opd) (imm : BitVec 16) : Out.memOk (execQcfg d a imm s) :=
  control_memOk h _ fun _ _ ht => State.retire_memOk ht ..

theorem execQrst_memOk (d : Opd) : Out.memOk (execQrst d s) := control_memOk h _ fun _ _ ht => State.retire_memOk ht ..

/-! ### Shapes (Machine/Shape) -/

theorem shapeCtl_memOk (k : Nat) (p : Ctl) (ha : ∀ t vs, t.memOk → (p.act t vs).memOk) :
    Out.memOk (shapeCtl s k p) := by
  unfold shapeCtl
  grind [State.waits_memOk, control_memOk, Out.memOk]

theorem shapeMem_memOk (k : Nat) (p : Ctl) (ha : ∀ t vs, t.memOk → (p.act t vs).memOk) :
    Out.memOk (shapeMem s k p) := by
  unfold shapeMem
  split
  · exact State.waits_memOk h _
  · exact shapeCtl_memOk h _ _ fun t vs ht => ha _ _ (State.setCx_memOk ht _)

theorem execShld_memOk (v : VecOp) : Out.memOk (execShld v s) := shapeMem_memOk h _ _ fun _ _ ht => State.retire_memOk ht ..

theorem execShst_memOk (v : VecOp) : Out.memOk (execShst v s) := by
  refine shapeMem_memOk h _ _ fun t vs ht => ?_
  dsimp only
  split
  · next u hu => exact State.retire_memOk (State.lsWrite_memOk ht (fun m hm => PMem.wf_write hm ..) hu)
  · exact State.snapOverflow_memOk ht _

theorem execShset_memOk (fld : ShField) (v : VecOp) : Out.memOk (execShset fld v s) :=
  shapeCtl_memOk h _ _ fun _ _ ht => State.retire_memOk ht ..

theorem execShadv_memOk (v : VecOp) : Out.memOk (execShadv v s) := shapeCtl_memOk h _ _ fun _ _ ht => State.retire_memOk ht ..

theorem execShrd_memOk (fld : ShField) (v : VecOp) : Out.memOk (execShrd fld v s) := by
  unfold execShrd
  grind [State.waits_memOk, scalar_memOk, Out.memOk]

/-! ### The vector unit (Machine/Vector) -/

theorem State.vput_memOk {t : State} {k : Nat} {w : VWrite} (ht : s.vput k w = some t) : t.memOk := by
  cases w with
  | val off n v => exact State.lsWrite_memOk h (fun m hm => PMem.wf_write hm ..) ht
  | line off l => exact State.lsWrite_memOk h (fun m hm => PMem.wf_writeRun hm ..) ht
  | clear off n =>
    simp only [State.vput] at ht
    refine State.lsWrite_memOk h (fun m hm => ?_) ht
    exact foldl_wf hm _ _ fun _ _ hm => PMem.wf_setPoison hm _ _

theorem State.vputs_memOk {t : State} {k : Nat} {l : List VWrite} (ht : s.vputs k l = some t) : t.memOk := by
  induction l generalizing s with
  | nil => cases ht; exact h
  | cons w l ih => unfold State.vputs at ht; grind [State.vput_memOk]

theorem State.vecDone_memOk (k t c : Nat) (pc : Word) (ir : Parcel) (dst : Option (Opd × Val)) : (s.vecDone k t c pc ir dst).memOk := by
  unfold State.vecDone
  grind [State.drain_memOk, State.pm_memOk, State.modUnit_memOk]

theorem vecIssue_memOk (i : Instr) : Out.memOk (vecIssue i s) := by
  unfold vecIssue
  split
  · exact h
  extract_lets gs
  split
  · exact trivial
  split
  · exact State.waits_memOk h _
  split
  · exact State.waits_memOk h _
  split
  · exact State.waits_memOk h _
  split
  · exact State.waits_memOk h _
  split
  · exact State.badLink_memOk h ..
  split
  · exact State.awaits_memOk h ..
  split
  · exact State.raise_memOk h _
  extract_lets a k s'
  split
  · exact State.vecDone_memOk (State.takeAll_memOk h _) ..
  · exact State.setCx_memOk (State.setUn_memOk (State.takeAll_memOk h _) _) _

theorem State.bumps_memOk (l : List Nat) (part t key c : Nat) (k : Cnt) (no : State → Nat) :
    (l.foldl (fun s _ => s.bump part t key c k (no s)) s).memOk :=
  foldl_memOk h l _ fun _ _ ht => State.bump_memOk ht ..

theorem State.vecChunk_memOk (core : Nat) : (s.vecChunk core).memOk := by
  unfold State.vecChunk
  extract_lets t u
  split
  · exact h
  split
  · exact h
  split
  · exact State.setUnit_memOk h ..
  extract_lets c a r done j'
  split
  · exact h
  split
  · exact State.consumeAt_memOk (State.modCtx_memOk (State.setUnit_memOk h ..) ..) ..
  next s' hs' =>
    extract_lets u1 u' s2 s3 s4
    have hb : s2.memOk := State.bumps_memOk (State.setUnit_memOk (State.vputs_memOk h hs') ..) _ _ _ _ _ _ (·.nextReq)
    split
    · split
      · exact State.trapAt_memOk (State.modUnit_memOk hb ..) ..
      · exact State.consumeAt_memOk (State.modUnit_memOk hb ..) ..
    · split
      · exact State.vecDone_memOk (State.modUnit_memOk (State.pm_memOk hb ..) ..) ..
      · exact State.modUnit_memOk (State.pm_memOk hb ..) ..

theorem execVectorChunk_memOk (core : Nat) : Out.memOk (execVectorChunk core s) := by
  unfold execVectorChunk
  grind [State.vecChunk_memOk, State.modCore_memOk, State.modUnit_memOk, State.pm_memOk, State.memOk_iff, Out.memOk]

/-! ### The matrix unit (Machine/Matrix) -/

theorem State.lsLines_memOk {t : State} {k : Nat} {l : List (Nat × List (Byte × Bool))}
    (ht : s.lsLines k l = some t) : t.memOk := by
  induction l generalizing s with
  | nil => cases ht; exact h
  | cons e l ih =>
    unfold State.lsLines at ht
    split at ht
    · next u hu => exact ih (State.lsWrite_memOk h (fun m hm => PMem.wf_writeRun hm ..) hu) ht
    · cases ht

theorem State.matPerform_memOk {core th : Nat} {j : MatJob} {p : MPlan} {x : State × Nat × List Nat}
    (hx : s.matPerform core th j p = some x) : x.1.memOk := by
  have hu := State.setUnit_memOk h
  have hl : ∀ {l u} {f : State → State × Nat × List Nat}, (∀ t : State, t.memOk → (f t).1.memOk) →
      (s.lsLines core l).map f = some u → u.1.memOk := fun hf he => by
    obtain ⟨t, ht, rfl⟩ := Option.map_eq_some_iff.1 he
    exact hf t (State.lsLines_memOk h ht)
  unfold State.matPerform at hx
  dsimp only at hx
  split at hx
  · cases hx; exact hu ..
  · cases hx; exact hu ..
  · cases hx; exact hu ..
  · cases hx; exact hu ..
  · cases hx; exact hu ..
  · exact hl (fun t ht => ht) hx
  · exact hl (fun t ht => State.setUnit_memOk ht ..) hx
  · cases hx; exact h

theorem matNow_memOk (i : Instr) (act : State → List Val → Option State)
    (ha : ∀ t vs u, t.memOk → act t vs = some u → u.memOk) : Out.memOk (matNow s i act) := by
  unfold matNow
  grind [State.waits_memOk, control_memOk, State.setCx_memOk, State.retire_memOk, State.pm_memOk, State.snapOverflow_memOk, Out.memOk]

theorem matIssue_memOk (i : Instr) : Out.memOk (matIssue i s) := by
  unfold matIssue
  grind [State.waits_memOk, control_memOk, State.setCx_memOk, State.newOp_memOk, State.retire_memOk, State.modUnit_memOk, Out.memOk]

theorem State.matDone_memOk (core th : Nat) (j : MatJob) (p : MPlan) (status : Nat) (addr : Word) :
    (s.matDone core th j p status addr).memOk := by
  unfold State.matDone
  grind [State.modUnit_memOk, State.opDone_memOk, State.drain_memOk, State.pm_memOk]

theorem execMatrixStep_memOk (core : Nat) : Out.memOk (execMatrixStep core s) := by
  unfold execMatrixStep
  extract_lets th u
  split
  · exact h
  split
  · exact h
  split
  · exact h
  split
  · exact h
  extract_lets j
  split
  · split
    · exact State.matDone_memOk (State.snapOverflow_memOk h _) ..
    · exact State.consumeAt_memOk (State.modUnit_memOk h ..) ..
  next r hr =>
    have hb := State.bumps_memOk (State.matPerform_memOk h hr)
    extract_lets j' s1 s2
    split
    · exact State.matDone_memOk (State.pm_memOk (hb ..) ..) ..
    · exact State.modUnit_memOk (State.pm_memOk (hb ..) ..) ..

theorem State.matLine_memOk (th : Nat) (j : MatJob) (isA : Bool) (va : Word) (b : Bulk) (et : Bool) :
    (s.matLine th j isA va b et).memOk := by
  unfold State.matLine
  grind [State.bulkRead_memOk, State.modUnit_memOk, State.bump_memOk]

theorem execMatrixGlobalRead_memOk (core : Nat) (ans : HostAns) :
    Out.memOk (execMatrixGlobalRead core ans s) := by
  unfold execMatrixGlobalRead
  dsimp only
  split
  · exact h
  split
  · exact h
  split
  · exact h
  split
  · exact h
  split
  · exact h
  have hw := State.sigWalk_memOk h
  split
  · exact State.matDone_memOk (State.logWalk_memOk (hw ..) ..) ..
  · exact State.sendReq_memOk (State.pushReq_memOk (hw ..) ..) ..
  · exact State.matLine_memOk (hw ..) ..
  · exact State.matLine_memOk (hw ..) ..

theorem execMzero_memOk (t : TOp) : Out.memOk (execMzero t s) := by
  unfold execMzero
  grind [State.waits_memOk, control_memOk, State.setUn_memOk, State.retire_memOk, State.pm_memOk, Out.memOk]

theorem execMlda_memOk (t : TOp) : Out.memOk (execMlda t s) := by
  unfold execMlda
  grind [matNow_memOk, State.setUn_memOk]

theorem execMsta_memOk (t : TOp) : Out.memOk (execMsta t s) := by
  unfold execMsta
  grind [matNow_memOk, State.lsLines_memOk]

theorem execMtbl_memOk (t : TOp) : Out.memOk (execMtbl t s) := by
  unfold execMtbl
  grind [matNow_memOk, State.setUn_memOk]

theorem execMstat_memOk (t : TOp) : Out.memOk (execMstat t s) := by
  unfold execMstat
  grind [State.waits_memOk, scalarE_memOk, State.setUn_memOk, State.pm_memOk, Out.memOk]

/-! ### The engines (Machine/Engine) -/

theorem engIssue_memOk (t : TOp) (srcs : List SrcOp) (imm : Word) (chk : List Val → Option Exc)
    (k : List Val → OpKind) (dsp : ESpace) (total : List Val → Nat) (more : List Val → State → State)
    (hm : ∀ vs t, t.memOk → (more vs t).memOk) : Out.memOk (engIssue s t srcs imm chk k dsp total more) := by
  unfold engIssue
  grind [State.waits_memOk, scalarE_memOk, State.newOp_memOk, State.opDone_memOk, Out.memOk]

theorem execCpy_memOk (t : TOp) : Out.memOk (execCpy t s) := by
  unfold execCpy
  exact engIssue_memOk h _ _ _ _ _ _ _ _ fun _ _ ht => ht

theorem execGath_memOk (t : TOp) : Out.memOk (execGath t s) := by
  unfold execGath
  exact engIssue_memOk h _ _ _ _ _ _ _ _ fun _ _ ht => ht

theorem execScat_memOk (t : TOp) : Out.memOk (execScat t s) := by
  unfold execScat
  exact engIssue_memOk h _ _ _ _ _ _ _ _ fun _ _ ht => ht

theorem execColl_memOk (op : CollOp) (t : TOp) : Out.memOk (execColl op t s) := by
  unfold execColl
  grind [engIssue_memOk, State.modThr_memOk]

theorem execTlwait_memOk (tl : BitVec 3) (a : Src) : Out.memOk (execTlwait tl a s) := by
  unfold execTlwait
  grind [State.waits_memOk, control_memOk, State.retire_memOk, Out.memOk]

theorem execTlnote_memOk (d a : Opd) (ta : Bool) (imm : BitVec 16) (tl : BitVec 3) : Out.memOk (execTlnote d a ta imm tl s) := by
  unfold execTlnote
  grind [State.waits_memOk, control_memOk, State.retire_memOk, State.newOp_memOk, Out.memOk]

theorem execFqprst_memOk (tl : BitVec 3) : Out.memOk (execFqprst tl s) := by
  unfold execFqprst
  grind [State.waits_memOk, control_memOk, State.retire_memOk, State.setTl_memOk, Out.memOk]

theorem State.modOp_memOk (t : Nat) (o : EngOp) (f : EngOp → EngOp) : (s.modOp t o f).memOk := h

theorem State.sendEng_memOk (t : Nat) (o : EngOp) (r : Req) (peer : Nat) : (s.sendEng t o r peer).memOk :=
  State.sendReq_memOk (State.modOp_memOk (State.pushReq_memOk h ..) ..) ..

theorem State.engIndex_memOk (t : Nat) (o : EngOp) (row : Nat) (list : Word) : (s.engIndex t o row list).memOk := by
  unfold State.engIndex
  grind [State.opDone_memOk, State.modOp_memOk]

theorem State.engRead_memOk (t : Nat) (o : EngOp) (ans : HostAns) : (s.engRead t o ans).memOk := by
  unfold State.engRead
  grind [State.sigWalk_memOk, State.opDone_memOk, State.logWalk_memOk, State.sendEng_memOk, State.bulkRead_memOk, State.modOp_memOk]

theorem State.engWrite_memOk (t : Nat) (o : EngOp) (ans : HostAns) : (s.engWrite t o ans).memOk := by
  have hw := fun a v => State.sigWalk_memOk h a v
  have hl (k a n b : Nat) (l : List (Byte × Bool)) (u : State) (hu : s.lsWrite k a n (fun m => m.writeRun b l) = some u) : u.memOk :=
    State.lsWrite_memOk h (fun _ hm => PMem.wf_writeRun hm ..) hu
  unfold State.engWrite
  dsimp only
  split
  · split
    · exact State.opDone_memOk (State.logWalk_memOk (hw ..) ..) ..
    · exact State.sendEng_memOk (hw ..) ..
    · refine State.modOp_memOk ?_ ..
      have hb := fun a b c d e => State.bulkWrite_memOk (hw a b) c d e
      split
      · split
        · exact hb ..
        · exact hb ..
      · exact hb ..
    · exact State.modOp_memOk (State.bulkWrite_memOk (hw ..) ..) ..
  · exact State.sendLanding_memOk (State.modOp_memOk h ..) ..
  · split
    · exact State.opDone_memOk h ..
    · split
      · next u hu => exact State.modOp_memOk (hl _ _ _ _ _ _ hu) ..
      · exact State.opDone_memOk (State.snapOverflow_memOk h _) ..

theorem execEngineAccess_memOk (thread op : Nat) (ans : HostAns) : Out.memOk (execEngineAccess thread op ans s) := by
  unfold execEngineAccess
  grind [State.engIndex_memOk, State.engRead_memOk, State.engWrite_memOk, Out.memOk]

theorem execEngineOpComplete_memOk (thread op : Nat) : Out.memOk (execEngineOpComplete thread op s) := by
  unfold execEngineOpComplete
  grind [State.opDone_memOk, Out.memOk]

theorem execTlnoteLand_memOk (thread op : Nat) : Out.memOk (execTlnoteLand thread op s) := by
  unfold execTlnoteLand
  grind [State.sendLanding_memOk, State.modOp_memOk, Out.memOk]

theorem State.sendFragments_memOk (t : Nat) (o : EngOp) (tag : Word) (peer : Nat) : (s.sendFragments t o tag peer).memOk :=
  foldl_memOk h _ _ fun _ _ ht => State.sendPacket_memOk ht ..

theorem State.collTurn_memOk (d : CollDesc) (k : OpKind) (turn : Nat) (order : List Nat) (away : Away) :
    (s.collTurn d k turn order away).memOk := by
  unfold State.collTurn
  grind [State.opDone_memOk, State.modOp_memOk, State.sendFragments_memOk, foldl_memOk]

theorem execCollMatch_memOk (tag : Word) (q : List Nat × List (Nat × List (Byte × Bool))) : Out.memOk (execCollMatch tag q s) := by
  unfold execCollMatch
  grind [State.collTurn_memOk, foldl_memOk, Out.memOk]

/-! ### Fetch (Machine/Fetch) -/

theorem State.fetchBlock_memOk (asid va : Nat) (t : Trans) (tgt : Tgt) (pa : Nat) : (s.fetchBlock asid va t tgt pa).memOk :=
  State.cacheAt_memOk (State.keepTrans_memOk h ..) ..

theorem State.fetchAt_memOk : s.fetchAt.1.memOk := by
  unfold State.fetchAt
  grind [State.sigWalk_memOk, State.fetchBlock_memOk, State.track_memOk]

/-! ### Records, halts and binding (Machine/Sched) -/

theorem State.writeFrame_memOk (r : Rec) (n : Nat) : (s.writeFrame r n).memOk := by
  rw [State.writeFrame, State.memOk_iff]
  exact h.setDev (PMem.wf_write h.dev ..)

theorem State.addRec_memOk (r : Rec) : (s.addRec r).memOk := by
  unfold State.addRec
  grind [State.memOk_iff]

theorem State.dropRec_memOk (id : Nat) : (s.dropRec id).memOk := h

theorem State.modRec_memOk (id : Nat) (f : Rec → Rec) : (s.modRec id f).memOk := h

theorem State.toTail_memOk (r : Rec) : (s.toTail r).memOk := h

theorem State.jobInc_memOk (p j : Nat) : (s.jobInc p j).memOk := h

theorem State.phaseInc_memOk (p f j : Nat) : (s.phaseInc p f j).memOk := by
  unfold State.phaseInc
  grind [State.jobInc_memOk, State.memOk_iff]

theorem State.graphInc_memOk (p g f j : Nat) : (s.graphInc p g f j).memOk := by
  unfold State.graphInc
  grind [State.phaseInc_memOk, State.memOk_iff]

theorem State.askHalt_memOk (k : Nat) (why : HaltWhy) : (s.askHalt k why).memOk := by
  unfold State.askHalt
  grind [State.setCore_memOk, State.coreAt_wf, State.memOk_iff]

theorem State.endThread_memOk (t : Nat) (why : HaltWhy) (status : Nat) : (s.endThread t why status).memOk := by
  unfold State.endThread
  grind [State.setThr_memOk, State.discard_memOk, State.askHalt_memOk]

theorem State.endLaunch_memOk (p l : Nat) : (s.endLaunch p l).memOk := by
  unfold State.endLaunch
  grind [State.endThread_memOk, foldl_memOk, State.memOk_iff]

theorem State.cancelLaunch_memOk (p l : Nat) : (s.cancelLaunch p l).memOk := by
  unfold State.cancelLaunch
  grind [State.endLaunch_memOk, State.setLaunch_memOk]

theorem State.cancel_memOk (p lvl id : Nat) : (s.cancel p lvl id).memOk := by
  unfold State.cancel
  grind [State.cancelLaunch_memOk, State.graphDec_memOk, State.phaseDec_memOk, State.jobDec_memOk, State.modPart_memOk, foldl_memOk,
    State.memOk_iff]

theorem State.preempt_memOk (k : Nat) (why : HaltWhy) : (s.preempt k why).memOk := foldl_memOk h _ _ fun _ _ ht => State.askHalt_memOk ht ..

theorem State.dropKept_memOk (away : Bool) (k : Nat) : (s.dropKept away k).memOk := by
  unfold State.dropKept
  grind [State.modInst_memOk]

theorem State.pack_memOk (k : Nat) (away : Bool) : (s.pack k away).memOk := by
  unfold State.pack
  grind [State.dropKept_memOk, State.preempt_memOk, foldl_memOk]

theorem State.startUnit_memOk (k t asid part launch uidx prio : Nat) (aff : Word) (c : Ctx) :
    (s.startUnit k t asid part launch uidx prio aff c).memOk := by
  unfold State.startUnit
  grind [State.setThr_memOk, State.setUnit_memOk, State.modCore_memOk, State.memOk_iff, Core.forPart_wf]

theorem State.refuseUnit_memOk (p l : Nat) : (s.refuseUnit p l).memOk := State.launchDec_memOk (State.modLaunch_memOk h ..) ..

/-! ### Work, tile buffers and levels (Machine/Work) -/

theorem execStart_memOk (a : Src) (off : BitVec 32) : Out.memOk (execStart a off s) :=
  control_memOk h _ fun _ _ ht => State.retire_memOk ht ..

theorem execHjoin_memOk (a : Src) : Out.memOk (execHjoin a s) := by
  unfold execHjoin
  grind [State.waits_memOk, control_memOk, State.retire_memOk, Out.memOk]

theorem State.endHelper_memOk (t c : Nat) : (s.endHelper t c).memOk := by
  unfold State.endHelper
  grind [State.modCore_memOk, State.modCtx_memOk, State.setThr_memOk, State.reject_memOk, foldl_memOk, State.memOk_iff]

theorem execHexit_memOk : Out.memOk (execHexit s) := by
  unfold execHexit
  grind [control_memOk, State.sigFault_memOk, State.endHelper_memOk, State.pm_memOk]

theorem execPost_memOk (p : PostOp) : Out.memOk (execPost p s) := by
  unfold execPost
  grind [control_memOk, State.waits_memOk, State.retire_memOk, State.setLaunch_memOk, State.writeFrame_memOk, State.addRec_memOk]

theorem State.landRec_memOk (r : Rec) (l : Landing) : (s.landRec r l).memOk := by
  unfold State.landRec
  grind [State.reject_memOk, State.landed_memOk, State.writeFrame_memOk, State.modRec_memOk, State.memOk_iff]

theorem State.suspend_memOk (r : Rec) : (s.suspend r).memOk := by
  unfold State.suspend
  grind [State.orphanInvs_memOk, State.modThr_memOk, State.addRec_memOk, State.modCore_memOk, State.landRec_memOk, State.reject_memOk,
    foldl_memOk, State.memOk_iff]

theorem execSusp_memOk (p : PostOp) : Out.memOk (execSusp p s) := by
  unfold execSusp
  grind [control_memOk, State.waits_memOk, State.suspend_memOk, State.writeFrame_memOk, State.retire_memOk]

theorem execYield_memOk : Out.memOk (execYield s) := by
  unfold execYield
  grind [control_memOk, State.retire_memOk, State.askHalt_memOk]

theorem State.endMat_memOk (t : Nat) : (s.endMat t).memOk := foldl_memOk h _ _ fun _ _ ht => State.opEnd_memOk ht ..

theorem State.exitUnit_memOk (t : Nat) : (s.exitUnit t).memOk :=
  State.gangGone_memOk (State.closeThread_memOk (State.endMat_memOk h ..) ..) ..

theorem execUexit_memOk : Out.memOk (execUexit s) := by
  unfold execUexit
  grind [control_memOk, State.sigFault_memOk, State.waits_memOk, State.setCx_memOk, State.loseInst_memOk, State.exitUnit_memOk,
    State.pm_memOk]

theorem execTballoc_memOk (o : Un) : Out.memOk (execTballoc o s) := by
  unfold execTballoc
  grind [scalarE_memOk, State.setUn_memOk]

theorem execTbfree_memOk (a : Src) : Out.memOk (execTbfree a s) := control_memOk h _ fun _ _ ht => State.retire_memOk ht ..

theorem execTbset_memOk (st : BufState) (a : Opd) (ta : Bool) (b : Opd) (tb : Bool) (imm : BitVec 16) :
    Out.memOk (execTbset st a ta b tb imm s) := by
  unfold execTbset
  grind [control_memOk, State.retire_memOk, State.setUn_memOk]

theorem execSpanx_memOk : Out.memOk (execSpanx s) := control_memOk h _ fun _ _ ht => State.retire_memOk ht ..

theorem execSpanc_memOk : Out.memOk (execSpanc s) := control_memOk h _ fun _ _ ht => State.retire_memOk ht ..

theorem execGbar_memOk : Out.memOk (execGbar s) := control_memOk h _ fun _ _ ht => ht

theorem execCancel_memOk (lvl : BitVec 16) : Out.memOk (execCancel lvl s) :=
  control_memOk h _ fun _ _ ht => State.cancel_memOk (State.retire_memOk ht ..) ..

/-! ### Stages (Machine/Stage) -/

theorem State.setKrt_memOk (base i : Nat) (k : Krt) : (s.setKrt base i k).memOk := by
  rw [State.setKrt, State.memOk_iff]
  exact h.setDev (PMem.wf_write h.dev ..)

theorem State.setLane_memOk (a : Nat) (l : Lane) : (s.setLane a l).memOk := by
  rw [State.setLane, State.memOk_iff]
  exact h.setDev (PMem.wf_write h.dev ..)

theorem State.putRecord_memOk (a : Nat) (r : List Val) : (s.putRecord a r).memOk := by
  have hw (r : List Val) : ∀ (m : PMem) (a : Nat), m.wf →
      (r.foldl (fun (x : PMem × Nat) v => (x.1.write x.2 8 v.v.toNat v.p, x.2 + 8)) (m, a)).1.wf := by
    induction r with
    | nil => exact fun _ _ hm => hm
    | cons v r ih => exact fun m a hm => ih _ _ (PMem.wf_write hm ..)
  exact h.setDev (hw r _ _ h.dev)

theorem State.brimMove_memOk (a : Nat) : (s.brimMove a).memOk := by
  unfold State.brimMove
  grind [State.setLane_memOk, State.putRecord_memOk]

theorem State.pushLane_memOk {t : State} {a : Nat} {r : List Val} (ht : s.pushLane a r = some t) : t.memOk := by
  unfold State.pushLane at ht
  grind [State.brimMove_memOk, State.setLane_memOk, State.putRecord_memOk]

theorem State.popLane_memOk (k krt i l : Nat) : (s.popLane k krt i l).memOk := by
  unfold State.popLane
  grind [State.modStage_memOk, State.setLane_memOk]

theorem State.putSlot_memOk (c : Nat) (v : Slot) : (s.putSlot c v).memOk := by
  unfold State.putSlot
  grind [State.modCore_memOk, State.pack_memOk, State.memOk_iff]

theorem State.ungive_memOk (k : Nat) : (s.ungive k).memOk := by
  unfold State.ungive
  grind [State.memOk_iff]

theorem State.giveBack_memOk (k gen : Nat) (o : Option Slot) : (s.giveBack k gen o).memOk := by
  unfold State.giveBack
  grind [State.putSlot_memOk]

theorem State.takeCore_memOk (k asid st i : Nat) : (s.takeCore k asid st i).1.memOk := by
  unfold State.takeCore
  grind [State.modCore_memOk, State.pack_memOk, State.putSlot_memOk, State.memOk_iff]

theorem State.enterLane_memOk {t : State} {e : EnqHold} (ht : s.enterLane e = some t) : t.memOk := by
  unfold State.enterLane at ht
  grind [State.pushLane_memOk, State.modStage_memOk]

theorem State.enqDone_memOk (srcs : List SrcOp) (d : Opd) (n : Nat) : (s.enqDone srcs d n).memOk := by
  unfold State.enqDone
  grind [State.writeDst_memOk, State.takeAll_memOk, State.drain_memOk, State.retire_memOk, State.setCx_memOk]

theorem State.enqTry_memOk (x : EnqHold) (srcs : List SrcOp) (d : Opd) : (s.enqTry x srcs d).memOk := by
  unfold State.enqTry
  grind [State.waits_memOk, State.setCx_memOk, State.enterLane_memOk, State.enqDone_memOk]

theorem enqueue_memOk (wait : Bool) (d : Opd) (a : Src) (b : Opd) : Out.memOk (enqueue wait d a b s) := by
  unfold enqueue
  extract_lets srcs asid
  split
  · exact State.enqDone_memOk h ..
  split
  · exact State.enqTry_memOk h ..
  split
  · exact State.waits_memOk h _
  · refine control_memOk h _ fun t vs ht => ?_
    dsimp only
    grind [State.enqTry_memOk, State.waits_memOk, State.enqDone_memOk, State.pushLane_memOk]

theorem State.enterRoutine_memOk (k i : Nat) (ret : Word) : (s.enterRoutine k i ret).memOk := by
  unfold State.enterRoutine
  grind [State.modInst_memOk, State.modCtx_memOk]

theorem execDeq_memOk : Out.memOk (execDeq s) := by
  unfold execDeq
  grind [control_memOk, State.enterRoutine_memOk, State.retire_memOk, State.modInst_memOk]

theorem execRecdone_memOk : Out.memOk (execRecdone s) := by
  unfold execRecdone
  grind [control_memOk, State.waits_memOk, State.retire_memOk, State.setCx_memOk, State.modInst_memOk]

theorem State.leaveRoutine_memOk (k i : Nat) : (s.leaveRoutine k i).memOk := by
  unfold State.leaveRoutine
  grind [State.retireTo_memOk, State.setCx_memOk, State.modInst_memOk]

theorem execSplitok_memOk (a : Src) : Out.memOk (execSplitok a s) := by
  unfold execSplitok
  grind [control_memOk, State.leaveRoutine_memOk, State.setKrt_memOk, State.modStage_memOk, State.modInst_memOk, State.giveBack_memOk]

theorem execMergeok_memOk : Out.memOk (execMergeok s) := by
  unfold execMergeok
  grind [control_memOk, State.leaveRoutine_memOk, State.setKrt_memOk, State.modStage_memOk]

theorem State.govSend_memOk (k i : Nat) (kind : AKind) (va : Word) (line : List (Byte × Bool)) (peer : Nat) :
    (s.govSend k i kind va line peer).memOk :=
  State.sendReq_memOk (State.pushReq_memOk h ..) ..

theorem State.copied_memOk (k i : Nat) : (s.copied k i).memOk := h

theorem State.copyFails_memOk (k i : Nat) (va : Word) : (s.copyFails k i va).memOk := State.stopStage_memOk h ..

theorem State.lineIn_memOk (k i off : Nat) (l : List (Byte × Bool)) : (s.lineIn k i off l).memOk := by
  unfold State.lineIn
  extract_lets x s'
  have hs : s'.memOk := State.modCore_memOk h _ _ fun _ hc => Core.forPart_wf hc _
  exact State.copied_memOk (State.setLs_memOk hs _ _ (PMem.wf_writeRun (State.coreAt_wf hs _) ..)) ..

theorem State.copyLines_memOk (k i off slot : Nat) (out : Bool) (ans : HostAns) (first : Bool) (n : Nat) :
    (s.copyLines k i off slot out ans first n).memOk := by
  induction n generalizing s first with
  | zero => exact h
  | succ n ih =>
    unfold State.copyLines
    grind [State.copied_memOk, State.bulkWrite_memOk, State.bulkRead_memOk, State.lineIn_memOk, State.sigWalk_memOk, State.copyFails_memOk,
      State.logWalk_memOk, State.govSend_memOk]

theorem State.startInstance_memOk (k i t : Nat) : (s.startInstance k i t).memOk := by
  unfold State.startInstance
  grind [State.stopStage_memOk, State.setLaunch_memOk, State.startUnit_memOk, State.modUnit_memOk, State.setKrt_memOk,
    State.modInst_memOk]

theorem execInstanceStart_memOk (asid stage inst thread : Nat) :
    Out.memOk (execInstanceStart asid stage inst thread s) := by
  have hc {t : State} (ht : t.memOk) (k a n : Nat) : (t.setLs k ((t.lsOf k).clear a n)).memOk :=
    State.setLs_memOk ht _ _ (PMem.wf_clear (State.coreAt_wf ht _) ..)
  unfold execInstanceStart
  grind [State.takeCore_memOk, State.modInst_memOk, State.startInstance_memOk, Out.memOk]

theorem execTwinStart_memOk (asid stage inst : Nat) (q : Nat × HostAns) : Out.memOk (execTwinStart asid stage inst q s) := by
  unfold execTwinStart
  grind [State.takeCore_memOk, State.modInst_memOk, State.stopStage_memOk, State.copyLines_memOk, State.startInstance_memOk, Out.memOk]

theorem State.stageDone_memOk (p status : Nat) : (s.stageDone p status).memOk := h

theorem execStageInstall_memOk (part : Nat) : Out.memOk (execStageInstall part s) := by
  unfold execStageInstall
  grind [State.stageDone_memOk, State.vcome_memOk, State.setKrt_memOk, State.vwrite_memOk, State.modStage_memOk, Out.memOk]

theorem State.endInstance_memOk (k i : Nat) : (s.endInstance k i).memOk := by
  unfold State.endInstance
  grind [State.modStage_memOk, State.exitUnit_memOk, State.giveBack_memOk]

theorem execStageUninstall_memOk (part : Nat) : Out.memOk (execStageUninstall part s) := by
  unfold execStageUninstall
  grind [State.stageDone_memOk, State.endInstance_memOk, State.modStage_memOk, State.vwrite_memOk, foldl_memOk, Out.memOk]

theorem execBrimMove_memOk (asid stage inst lane : Nat) : Out.memOk (execBrimMove asid stage inst lane s) := by
  unfold execBrimMove
  grind [State.brimMove_memOk, Out.memOk]

theorem State.deliver_memOk (k i : Nat) (r : List Val) : (s.deliver k i r).memOk :=
  foldl_memOk h _ _ fun _ _ ht => State.sendLanding_memOk ht ..

theorem execRecordDelivery_memOk (asid stage inst : Nat) : Out.memOk (execRecordDelivery asid stage inst s) := by
  unfold execRecordDelivery
  grind [State.deliver_memOk, State.popLane_memOk, State.pushLane_memOk, State.modStage_memOk, State.setKrt_memOk, Out.memOk]

theorem execSplitRoutineEntry_memOk (asid stage inst : Nat) : Out.memOk (execSplitRoutineEntry asid stage inst s) := by
  unfold execSplitRoutineEntry
  grind [State.enterRoutine_memOk, Out.memOk]

theorem execMergeRoutineEntry_memOk (asid stage inst : Nat) : Out.memOk (execMergeRoutineEntry asid stage inst s) := by
  unfold execMergeRoutineEntry
  grind [State.enterRoutine_memOk, Out.memOk]

theorem execTwinQuiesce_memOk (asid stage : Nat) (q : Nat × HostAns) : Out.memOk (execTwinQuiesce asid stage q s) := by
  unfold execTwinQuiesce
  grind [State.copyLines_memOk, State.setKrt_memOk, State.endInstance_memOk, Out.memOk]

theorem State.sampleInst_memOk (k i : Nat) : (s.sampleInst k i).memOk := by
  unfold State.sampleInst
  grind [State.modInst_memOk]

theorem State.tryClone_memOk {t : State} {k i : Nat} (ht : s.tryClone k i = some t) : t.memOk := by
  unfold State.tryClone at ht
  grind [State.takeCore_memOk, State.setKrt_memOk, State.modInst_memOk]

theorem State.tryMerge_memOk {t : State} {k j : Nat} (ht : s.tryMerge k j = some t) : t.memOk := by
  unfold State.tryMerge at ht
  grind [State.setKrt_memOk, State.modInst_memOk]

theorem State.tryPark_memOk (k i : Nat) : (s.tryPark k i).memOk := by
  unfold State.tryPark
  grind [State.askHalt_memOk, State.modInst_memOk, State.giveBack_memOk]

theorem State.tryUnpark_memOk (k i : Nat) : (s.tryUnpark k i).memOk := by
  unfold State.tryUnpark
  grind [State.takeCore_memOk, State.modInst_memOk]

theorem State.breakCycles_memOk : s.breakCycles.memOk := foldl_memOk h _ _ fun _ _ ht => State.modCtx_memOk ht ..

theorem State.logEntry_memOk (asid stage part : Nat) : (s.logEntry asid stage part).memOk := by
  unfold State.logEntry
  grind [State.logTable_memOk]

theorem State.cloneOrMerge_memOk (k : Nat) (l : List Nat) :
    State.memOk (match firstSome (s.tryClone k) l with
      | some t => t
      | none => (firstSome (s.tryMerge k) l).getD s) := by
  split
  · next t ht => exact firstSome_memOk (fun _ _ hu => State.tryClone_memOk h hu) ht
  · cases ht : firstSome (s.tryMerge k) l with
    | none => exact h
    | some t => exact firstSome_memOk (fun _ _ hu => State.tryMerge_memOk h hu) ht

theorem execGovernorSample_memOk (asid stage : Nat) : Out.memOk (execGovernorSample asid stage s) := by
  unfold execGovernorSample
  extract_lets k r s1
  have h1 : s1.memOk := State.vcome_memOk h ..
  split
  · exact h
  split
  · exact State.stopStage_memOk (State.logEntry_memOk h1 ..) ..
  extract_lets e live s2 s3 s4 s5
  have h2 : s2.memOk := foldl_memOk h1 _ _ fun _ _ ht => State.sampleInst_memOk ht ..
  have h3 : s3.memOk := State.cloneOrMerge_memOk h2 k live
  have h4 : s4.memOk := foldl_memOk h3 _ _ fun _ _ ht => State.tryPark_memOk ht ..
  have h5 : s5.memOk := foldl_memOk h4 _ _ fun _ _ ht => State.tryUnpark_memOk ht ..
  split
  · exact State.stopStage_memOk (State.logEntry_memOk h1 ..) ..
  split
  · exact State.modStage_memOk h1 ..
  · exact State.breakCycles_memOk h5

theorem execStageStop_memOk (asid stage : Nat) : Out.memOk (execStageStop asid stage s) := by
  unfold execStageStop
  grind [State.stopStage_memOk, State.logEntry_memOk, Out.memOk]

/-! ### Save and restore (Machine/Preempt) -/

theorem execPreemptRequest_memOk (core : Nat) (why : HaltWhy) : Out.memOk (execPreemptRequest core why s) := by
  unfold execPreemptRequest
  grind [State.pack_memOk, State.preempt_memOk, State.memOk_iff, Out.memOk]

theorem execTimeSliceExpiry_memOk (core : Nat) : Out.memOk (execTimeSliceExpiry core s) := by
  unfold execTimeSliceExpiry
  grind [State.preempt_memOk, Out.memOk]

theorem execSpinDeschedule_memOk (core : Nat) : Out.memOk (execSpinDeschedule core s) := by
  unfold execSpinDeschedule
  grind [State.preempt_memOk, Out.memOk]

theorem execUnitHalt_memOk (core : Nat) : Out.memOk (execUnitHalt core s) := by
  unfold execUnitHalt
  grind [State.modUnit_memOk, State.modCore_memOk, State.memOk_iff, Out.memOk]

theorem execUnitDiscard_memOk (core : Nat) : Out.memOk (execUnitDiscard core s) := by
  unfold execUnitDiscard
  grind [State.discard_memOk, Out.memOk]

theorem execUnitSave_memOk (core : Nat) : Out.memOk (execUnitSave core s) := by
  unfold execUnitSave
  grind [State.setThr_memOk, State.putCsa_memOk, State.modCore_memOk, PMem.wf_putImage, State.memOk_iff, State.memOk.setDev,
    State.memOk.dev, Out.memOk]

theorem State.landImage_memOk (t : Nat) (l : Landing) : (s.landImage t l).1.memOk := by
  unfold State.landImage
  grind [State.syncCsa_memOk, State.landed_memOk, State.pm_memOk, State.setUnit_memOk, State.setThr_memOk]

theorem execSaveComplete_memOk (core : Nat) : Out.memOk (execSaveComplete core s) := by
  unfold execSaveComplete
  grind [State.modCore_memOk, State.modThr_memOk, State.landImage_memOk, foldl_memOk, State.memOk_iff, Out.memOk]

theorem execRestoreBegin_memOk (core thread : Nat) : Out.memOk (execRestoreBegin core thread s) := by
  unfold execRestoreBegin
  extract_lets e c hits lvl s1 s2
  have h2 : s2.memOk := State.modCore_memOk (s := s1) h _ _ fun _ hc => hc
  split
  · exact h
  split
  · exact State.irq_memOk (State.discardAlone_memOk (State.log_memOk h2 ..) ..) ..
  · exact State.modCore_memOk (State.setThr_memOk (State.modUnit_memOk h2 ..) ..) _ _ fun _ hc => Core.forPart_wf hc _

theorem execRestoreComplete_memOk (core : Nat) : Out.memOk (execRestoreComplete core s) := by
  unfold execRestoreComplete
  extract_lets c t e u s1 s2 s3
  have h2 : s2.memOk := State.modUnit_memOk (State.setThr_memOk h ..) ..
  have h3 : s3.memOk := by
    refine State.modCore_memOk h2 _ _ fun c hc => ?_
    dsimp only
    split
    · exact PMem.wf_restoreSnap (PMem.wf_lsRestore hc ..) _
    · exact PMem.wf_lsRestore hc ..
  split
  · exact h
  · exact State.drain_memOk (s := { s3 with flight := e.hold ++ s3.flight }) h3 _

theorem execUnitEndRelease_memOk (thread : Nat) : Out.memOk (execUnitEndRelease thread s) := by
  unfold execUnitEndRelease
  grind [State.setThr_memOk, State.launchDec_memOk, Out.memOk]

/-! ### Gangs (Machine/Gang) -/

theorem State.releaseGang_memOk (l : Launch) : (s.releaseGang l).memOk := by
  unfold State.releaseGang
  grind [State.modThr_memOk, State.toTail_memOk, State.dropRec_memOk, foldl_memOk, State.memOk_iff]

theorem State.passGbar_memOk (t : Nat) : (s.passGbar t).memOk := by
  unfold State.passGbar
  grind [State.pm_memOk, State.modUnit_memOk, State.putCsa_memOk, State.modThr_memOk]

theorem execGbarComplete_memOk (launch : Nat) : Out.memOk (execGbarComplete launch s) := by
  unfold execGbarComplete
  grind [State.releaseGang_memOk, State.passGbar_memOk, State.modLaunch_memOk, foldl_memOk, Out.memOk]

theorem State.rollUnit_memOk (t : Nat) : (s.rollUnit t).memOk := by
  unfold State.rollUnit
  extract_lets e here mine gone lost ended dropped s1 s2 s3 s4 s5 s6
  have h1 : s1.memOk := State.inCsa_memOk _ _ (State.modThr_memOk (State.modUnit_memOk h ..) ..)
  have h2 : s2.memOk := by
    refine State.modCore_memOk h1 _ _ fun c hc => ?_
    grind [PMem.wf_restoreSnap]
  have h4 : s4.memOk := by grind [State.launchDec_memOk, State.memOk_iff]
  have h5 : s5.memOk := foldl_memOk h4 _ _ fun _ _ ht => State.rejectQuiet_memOk ht _
  have h6 : s6.memOk := foldl_memOk h5 _ _ fun _ _ ht => State.opEnd_memOk ht ..
  split
  · exact h
  · exact foldl_memOk h6 _ _ fun _ _ ht => State.opEnd_memOk ht ..

theorem execGangRollback_memOk (launch : Nat) : Out.memOk (execGangRollback launch s) := by
  unfold execGangRollback
  grind [State.log_memOk, State.setLaunch_memOk, State.modLaunch_memOk, State.rollUnit_memOk, foldl_memOk, Out.memOk]

/-! ### Entry to handlers (Machine/Entry) -/

theorem State.raiseFetch_memOk (k : FetchCause) (pte : Nat) : (s.raiseFetch k pte).memOk := by
  unfold State.raiseFetch
  grind [State.syncUpcall_memOk, State.askHost_memOk, State.trap_memOk, State.logWalk_memOk, State.memOk_iff]

theorem execFetchFault_memOk (q : FetchCause × HostAns) : Out.memOk (execFetchFault q s) := by
  unfold execFetchFault
  grind [State.fetchAt_memOk, State.keepHost_memOk, State.raiseFetch_memOk, Out.memOk]

theorem execDecodeTrap_memOk (cause : Cause) (taddr : Word) : Out.memOk (execDecodeTrap cause taddr s) := by
  unfold execDecodeTrap
  grind [State.fetchAt_memOk, State.trap_memOk, Out.memOk]

theorem execTrapEntry_memOk (cause : Cause) (tpc taddr : Word) : Out.memOk (execTrapEntry cause tpc taddr s) := by
  unfold execTrapEntry
  grind [State.trap_memOk, Out.memOk]

theorem execUpcallEntry_memOk (cause : Cause) (upc uarg : Word) : Out.memOk (execUpcallEntry cause upc uarg s) := by
  unfold execUpcallEntry
  grind [State.syncUpcall_memOk, Out.memOk]

theorem State.offerNotice_memOk (i : Nat) (n : Notice) : (s.offerNotice i n).memOk := by
  unfold State.offerNotice
  grind [State.setThr_memOk, State.modCtx_memOk, State.memOk_iff]

theorem execNoticeArrival_memOk (i : Nat) : Out.memOk (execNoticeArrival i s) := by
  unfold execNoticeArrival
  grind [State.offerNotice_memOk, Out.memOk]

theorem execNoticeRetry_memOk (i : Nat) : Out.memOk (execNoticeRetry i s) := by
  unfold execNoticeRetry
  grind [State.offerNotice_memOk, Out.memOk]

theorem State.deliverNotice_memOk (n : Notice) : (s.deliverNotice n).memOk := by
  unfold State.deliverNotice
  grind [State.trap_memOk, State.modThr_memOk, State.upcallAt_memOk]

theorem execNoticeDelivery_memOk (core ctx : Nat) : Out.memOk (execNoticeDelivery core ctx s) := by
  unfold execNoticeDelivery
  grind [State.deliverNotice_memOk, State.memOk_iff, Out.memOk]

/-! ### Landings (Machine/Landing) -/

theorem State.pmLand_memOk (l : Landing) (ev : Nat) : (s.pmLand l ev).memOk := by
  unfold State.pmLand
  grind [State.inCsa_memOk, State.pm_memOk]

theorem State.refuse_memOk (l : Landing) : (s.refuse l).memOk := h

theorem State.holdOn_memOk (k : Nat) (l : Landing) : (s.holdOn k l).memOk := by
  unfold State.holdOn
  grind [State.pmLand_memOk, State.setCore_memOk, State.refuse_memOk, State.coreAt_wf]

theorem State.resolveLanding_memOk (l : Landing) : (s.resolveLanding l).memOk := by
  unfold State.resolveLanding
  grind [State.reject_memOk, State.holdOn_memOk, State.offer_memOk, State.landImage_memOk, State.refuse_memOk, State.landRec_memOk,
    State.setThr_memOk]

theorem State.moveLanding_memOk (i : Nat) (l : Landing) : (s.moveLanding i l).memOk := by
  unfold State.moveLanding
  grind [State.sendReq_memOk, State.resolveLanding_memOk, State.memOk_iff]

theorem execLandingDelivery_memOk (i : Nat) : Out.memOk (execLandingDelivery i s) := by
  unfold execLandingDelivery
  grind [State.moveLanding_memOk, Out.memOk]

theorem execLandingRetry_memOk (i : Nat) : Out.memOk (execLandingRetry i s) := by
  unfold execLandingRetry
  grind [State.resolveLanding_memOk, State.memOk_iff, Out.memOk]

theorem execLandingBounce_memOk (i : Nat) : Out.memOk (execLandingBounce i s) := by
  unfold execLandingBounce
  grind [State.memOk_iff, Out.memOk]

theorem execSfuResult_memOk (core : Nat) : Out.memOk (execSfuResult core s) := by
  unfold execSfuResult
  grind [State.modCore_memOk, State.vecChunk_memOk, State.launchLanding_memOk, State.resolveLanding_memOk, Out.memOk]

/-! ### The home (Machine/Home) -/

theorem execAccessAccept_memOk (i : Nat) (ans : HostAns) : Out.memOk (execAccessAccept i ans s) := by
  unfold execAccessAccept
  grind [State.walkFor_memOk, State.acceptStep_memOk, Out.memOk]

theorem State.releasedReq_memOk (r : Req) : (s.releasedReq r).memOk := by
  unfold State.releasedReq
  grind [State.performed_memOk, State.modReq_memOk, State.sendReq_memOk, State.performReq_memOk]

theorem execAccessPerform_memOk (i : Nat) : Out.memOk (execAccessPerform i s) := by
  unfold execAccessPerform
  grind [State.releasedReq_memOk, State.performReq_memOk, Out.memOk]

theorem execLoadDataReturn_memOk (i : Nat) : Out.memOk (execLoadDataReturn i s) := by
  unfold execLoadDataReturn
  grind [State.dropReq_memOk, State.resolveLanding_memOk, State.modCtx_memOk, Out.memOk]

theorem execRetryListWalk_memOk (word : Nat) : Out.memOk (execRetryListWalk word s) := State.wordChanged_memOk h ..

theorem execRequestRetry_memOk (i : Nat) : Out.memOk (execRequestRetry i s) := by
  unfold execRequestRetry
  grind [State.sendReq_memOk, State.performReq_memOk, Out.memOk]

theorem State.coverFails_memOk (r : Req) : (s.coverFails r).memOk := by
  unfold State.coverFails
  grind [State.modThr_memOk, State.memOk_iff]

theorem State.matFails_memOk (r : Req) (status : Nat) : (s.matFails r status).memOk := by
  unfold State.matFails
  grind [State.matDone_memOk]

theorem State.engFails_memOk (r : Req) (status : Nat) : (s.engFails r status).memOk := by
  unfold State.engFails
  grind [State.dropReq_memOk, State.matFails_memOk, State.copyFails_memOk, State.opDone_memOk]

theorem State.failReq_memOk (r : Req) : (s.failReq r).memOk := by
  unfold State.failReq
  grind [State.coverFails_memOk, State.release_memOk, State.notify_memOk, State.opDone_memOk, State.modReq_memOk, State.dropReq_memOk,
    State.launchLanding_memOk, State.engFails_memOk]

theorem State.failAtHome_memOk (i : Nat) : (s.failAtHome i).memOk := by
  unfold State.failAtHome
  grind [State.respond_memOk, State.dropReq_memOk, State.release_memOk, State.trapReq_memOk, State.failReq_memOk]

theorem execAccessFailAtHome_memOk (i : Nat) : Out.memOk (execAccessFailAtHome i s) := State.failAtHome_memOk h ..

theorem execSmfrzDrain_memOk (core ctx : Nat) : Out.memOk (execSmfrzDrain core ctx s) := by
  unfold execSmfrzDrain
  grind [State.fetchAt_memOk, execSmfrz_memOk, State.memOk_iff, Out.memOk]

theorem execFlagfWrite_memOk (i : Nat) (ans : HostAns) : Out.memOk (execFlagfWrite i ans s) := by
  unfold execFlagfWrite
  split
  · exact h
  next r hr =>
  extract_lets ends s1
  have hends {t : State} (ht : t.memOk) (st : Nat) (a : Word) : (ends t st a).memOk := State.opDone_memOk (State.dropReq_memOk ht _) ..
  have h1 : s1.memOk := State.sigWalk_memOk h ..
  split
  · exact h
  split
  · exact State.dropReq_memOk h _
  split
  · exact h
  split
  · exact hends h ..
  split
  · refine hends ?_ ..
    split
    · exact State.logWalk_memOk h1 ..
    · exact h1
  · exact hends h1 ..
  · exact hends h1 ..
  · exact State.sendReq_memOk h1 ..
  next tgt et keep hj =>
    extract_lets r' s2
    have h2 : s2.memOk := by grind [State.cacheReq_memOk, State.keepTrans_memOk]
    split
    · exact h2
    next s3 _ _ hp =>
      have h3 := hends (State.performOn_memOk h2 _ hp) 0 0
      grind [State.wordChanged_memOk, Out.memOk]

/-! ### The fabric (Machine/Fabric) -/

theorem State.modPort_memOk (k : Nat) (f : Port → Port) : (s.modPort k f).memOk := h

theorem State.releaseHeld_memOk : s.releaseHeld.memOk := by
  unfold State.releaseHeld
  grind [State.routePacket_memOk, foldl_memOk, State.memOk_iff]

theorem State.acked_memOk (k n : Nat) : (s.acked k n).memOk := by
  unfold State.acked
  grind [State.releaseHeld_memOk, State.modPort_memOk]

theorem State.arrive_memOk (gw : Nat) (p : Packet) : (s.arrive gw p).memOk := by
  unfold State.arrive
  grind [State.routePacket_memOk, State.memOk_iff]

theorem execPacketReceive_memOk (port : Nat) (p : Packet) (q : FlitFate × Nat) : Out.memOk (execPacketReceive port p q s) := by
  unfold execPacketReceive
  grind [State.acked_memOk, State.arrive_memOk, Out.memOk]

theorem execLinkReplay_memOk (port : Nat) : Out.memOk (execLinkReplay port s) := by
  unfold execLinkReplay
  grind [State.modPort_memOk, Out.memOk]

theorem State.failPeer_memOk (peer : Nat) : (s.failPeer peer).memOk := by
  unfold State.failPeer
  grind [State.failAtHome_memOk, foldl_memOk, State.memOk_iff]

theorem State.failUnrouted_memOk (l : List Nat) : (s.failUnrouted l).memOk := by
  unfold State.failUnrouted
  grind [State.failPeer_memOk, foldl_memOk]

theorem execLinkDown_memOk (port : Nat) : Out.memOk (execLinkDown port s) := by
  unfold execLinkDown
  grind [State.modPort_memOk, State.sendPacket_memOk, State.releaseHeld_memOk, State.failUnrouted_memOk, foldl_memOk, State.memOk_iff,
    Out.memOk]

theorem execRouteChange_memOk (gw peer : Nat) (v : Bool) (port : Nat) : Out.memOk (execRouteChange gw peer v port s) := by
  unfold execRouteChange
  grind [State.failUnrouted_memOk, State.memOk_iff, Out.memOk]

theorem execPeerFailed_memOk (peer : Nat) : Out.memOk (execPeerFailed peer s) := State.failPeer_memOk h ..

theorem execPeerSetPresent_memOk (peer : Nat) : Out.memOk (execPeerSetPresent peer s) := by
  unfold execPeerSetPresent
  grind [State.memOk_iff, Out.memOk]

theorem State.gauntletLanding_memOk (p : Packet) (part : Nat) : (s.gauntletLanding p part).memOk := by
  unfold State.gauntletLanding
  grind [State.launchLanding_memOk, State.resolveLanding_memOk, State.respond_memOk, State.memOk_iff]

theorem State.watch_memOk (m : Monitor) : (s.watch m).memOk := h

theorem execGauntletRequest_memOk (i : Nat) : Out.memOk (execGauntletRequest i s) := by
  unfold execGauntletRequest
  split
  · exact h
  next p hp =>
  split
  · exact h
  extract_lets g s1 s2
  have h1 : s1.memOk := h
  split
  · exact State.respond_memOk h1 ..
  next part hpart =>
  split
  · exact State.respond_memOk (State.logSpace_memOk h1 ..) ..
  split
  · exact State.gauntletLanding_memOk h1 ..
  split
  · exact State.respond_memOk (State.respond_memOk h1 ..) ..
  split
  · exact State.respond_memOk h1 ..
  next k hk =>
  extract_lets r
  have h2 : s2.memOk := State.sigWalk_memOk h1 ..
  split
  next st pte _ =>
    generalize hr : (if st = 0x24 then s2.logWalk part p.asid p.addr.toNat else s2).respond g 0x12 st [] 0 = s3
    have h3 : s3.memOk := by
      refine hr ▸ State.respond_memOk ?_ ..
      split
      · exact State.logWalk_memOk h2 ..
      · exact h2
    split
    · split
      · exact h3
      · exact State.watch_memOk h3 _
    · exact h3
  · exact State.pushReq_memOk (State.respond_memOk (State.cacheAt_memOk (State.keepTrans_memOk h2 ..) ..) ..) _

theorem State.govAnswer_memOk (r : Req) (p : Packet) (k i : Nat) : (s.govAnswer r p k i).memOk := by
  unfold State.govAnswer
  grind [State.copied_memOk, State.lineIn_memOk]

theorem State.matAnswer_memOk (r : Req) (p : Packet) : (s.matAnswer r p).memOk := by
  unfold State.matAnswer
  grind [State.setUnit_memOk, State.bump_memOk]

theorem State.engAnswer_memOk (r : Req) (p : Packet) : (s.engAnswer r p).memOk := by
  unfold State.engAnswer
  grind [State.modReq_memOk, State.engFails_memOk, State.dropReq_memOk, State.matAnswer_memOk, State.govAnswer_memOk, State.modOp_memOk]

theorem State.turnedAway_memOk (l : Landing) (status : Nat) : (s.turnedAway l status).memOk := by
  unfold State.turnedAway
  grind [State.bump_memOk, State.landEnds_memOk, State.notify_memOk]

theorem State.sendAnswer_memOk (r : Req) (p : Packet) : (s.sendAnswer r p).memOk := by
  unfold State.sendAnswer
  grind [State.landed_memOk, State.dropReq_memOk, State.modReq_memOk, State.reject_memOk, State.respond_memOk, State.failReq_memOk,
    State.turnedAway_memOk]

theorem State.remoteDone_memOk (r : Req) (p : Packet) : (s.remoteDone r p).memOk := by
  unfold State.remoteDone
  grind [State.opDone_memOk, State.dropReq_memOk, State.modReq_memOk, State.release_memOk, State.bump_memOk, State.performed_memOk]

theorem State.ctxAnswer_memOk (r : Req) (p : Packet) : (s.ctxAnswer r p).memOk := by
  unfold State.ctxAnswer
  grind [State.modReq_memOk, State.acceptReq_memOk, State.remoteDone_memOk, State.inCsa_memOk, State.syncUpcall_memOk,
    State.unissue_memOk, State.trapReq_memOk, State.failReq_memOk, State.opDone_memOk, State.dropReq_memOk, State.reject_memOk,
      State.release_memOk, State.turnedAway_memOk, State.memOk_iff]

theorem State.noticePacket_memOk (p : Packet) : (s.noticePacket p).memOk := by
  unfold State.noticePacket
  grind [State.notify_memOk, State.memOk_iff]

theorem execResponseReceived_memOk (i : Nat) : Out.memOk (execResponseReceived i s) := by
  unfold execResponseReceived
  grind [State.noticePacket_memOk, State.sendAnswer_memOk, State.engAnswer_memOk, State.ctxAnswer_memOk, State.memOk_iff, Out.memOk]

/-! ### Launch records and placement (Machine/Queue) -/

theorem State.stopRing_memOk (p ring code : Nat) : (s.stopRing p ring code).memOk := h

theorem execAdmitLaunchRecord_memOk (part : Nat) (q : Nat × HostAns) :
    Out.memOk (execAdmitLaunchRecord part q s) := by
  unfold execAdmitLaunchRecord
  extract_lets ring e s'
  have h' : s'.memOk := State.vcome_memOk (State.keepHost_memOk h ..) ..
  split
  · exact h
  split
  · exact State.stopRing_memOk h ..
  split
  · exact State.stopRing_memOk (State.logSpace_memOk h ..) ..
  split
  · exact State.stopRing_memOk (State.logWalk_memOk h' ..) ..
  · exact State.stopRing_memOk (State.logTable_memOk h' ..) ..
  next n _ =>
  extract_lets id old l s2
  have h2 : s2.memOk := State.graphInc_memOk (State.setLaunch_memOk h' ..) ..
  split
  · exact State.stopRing_memOk h' ..
  split
  · exact State.stopRing_memOk h' ..
  split
  · exact h'
  · exact State.modRing_memOk (State.writeFrame_memOk (State.addRec_memOk h2 _) ..) ..

theorem execRecordEligible_memOk (r : Nat) : Out.memOk (execRecordEligible r s) := by
  unfold execRecordEligible
  grind [State.toTail_memOk, Out.memOk]

theorem execRecordAgeing_memOk (r : Nat) : Out.memOk (execRecordAgeing r s) := by
  unfold execRecordAgeing
  grind [State.toTail_memOk, Out.memOk]

theorem execDispatchSelect_memOk (core : Nat) : Out.memOk (execDispatchSelect core s) := by
  unfold execDispatchSelect
  grind [State.modRec_memOk, State.modCore_memOk, State.memOk_iff, Out.memOk]

theorem State.settleDue_memOk : s.settleDue.memOk := by
  unfold State.settleDue
  grind [State.memOk_iff]

theorem State.unsel_memOk (k : Nat) : (s.unsel k).memOk := by
  unfold State.unsel
  grind [State.settleDue_memOk, State.modCore_memOk]

theorem State.dropBad_memOk (r : Rec) : (s.dropBad r).memOk := by
  unfold State.dropBad
  grind [State.modLaunch_memOk, State.dropRec_memOk, State.log_memOk, State.discardAlone_memOk, State.launchDec_memOk]

theorem State.boundLate_memOk (k : Nat) (cut : Bool) : (s.boundLate k cut).memOk := by
  unfold State.boundLate
  grind [State.endThread_memOk, State.modThr_memOk]

theorem State.sourceDone_memOk (k : Nat) (r : Rec) : (s.sourceDone k r).memOk := by
  unfold State.sourceDone
  grind [State.dropRec_memOk]

theorem State.joinGang_memOk (k : Nat) : (s.joinGang k).memOk := by
  unfold State.joinGang
  grind [State.modLaunch_memOk]

theorem State.bindSuspended_memOk (k : Nat) (r : Rec) : (s.bindSuspended k r).memOk :=
  State.modCore_memOk (State.modThr_memOk (State.setUnit_memOk (State.dropRec_memOk h _) ..) ..) _ _ fun _ hc => Core.forPart_wf hc _

theorem State.bindRec_memOk (k t : Nat) (r : Rec) : (s.bindRec k t r).memOk := by
  unfold State.bindRec
  grind [State.sourceDone_memOk, State.unsel_memOk, State.refuseUnit_memOk, State.logSpace_memOk, State.startUnit_memOk,
    State.dropBad_memOk, State.dropRec_memOk, State.joinGang_memOk, State.discardAlone_memOk, State.bindSuspended_memOk]

theorem execUnitBind_memOk (core thread : Nat) : Out.memOk (execUnitBind core thread s) := by
  unfold execUnitBind
  grind [State.unsel_memOk, State.settleDue_memOk, State.boundLate_memOk, State.bindRec_memOk, Out.memOk]

theorem execGroupBind_memOk (r : Nat) (cores threads : List Nat) : Out.memOk (execGroupBind r cores threads s) := by
  unfold execGroupBind
  grind [State.launchDec_memOk, State.modLaunch_memOk, State.logSpace_memOk, State.dropRec_memOk, State.startUnit_memOk,
    State.modCore_memOk, foldl_memOk, State.memOk_iff, Out.memOk]

theorem execGroupReserve_memOk (r : Nat) (cores : List Nat) : Out.memOk (execGroupReserve r cores s) := by
  unfold execGroupReserve
  grind [State.modCore_memOk, foldl_memOk, Out.memOk]

theorem State.direct_memOk (k cost : Nat) : (s.direct k cost).memOk := by
  unfold State.direct
  grind [State.preempt_memOk, State.memOk_iff]

theorem State.placeGroup_memOk (q : Rec) : (s.placeGroup q).memOk := by
  unfold State.placeGroup
  grind [State.direct_memOk, State.modCore_memOk, foldl_memOk]

theorem execRecordPlacement_memOk (r : Nat) : Out.memOk (execRecordPlacement r s) := by
  unfold execRecordPlacement
  grind [State.modRec_memOk, State.direct_memOk, State.placeGroup_memOk, Out.memOk]

theorem execCoreClockGate_memOk (core : Nat) : Out.memOk (execCoreClockGate core s) := by
  unfold execCoreClockGate
  grind [State.modCore_memOk, Out.memOk]

theorem execRecordFrameRetry_memOk (core ctx : Nat) : Out.memOk (execRecordFrameRetry core ctx s) := by
  unfold execRecordFrameRetry
  grind [State.modCtx_memOk, Out.memOk]

/-! ### System instructions (Machine/System) -/

theorem State.markOpd_memOk (b : Bool) (d : Opd) : (s.markOpd b d).memOk := by
  unfold State.markOpd
  grind [State.setCx_memOk]

theorem execPclr_memOk (d : Opd) : Out.memOk (execPclr d s) :=
  control_memOk h _ fun _ _ ht => State.retire_memOk (State.markOpd_memOk ht ..) ..

theorem execPset_memOk (d : Opd) : Out.memOk (execPset d s) :=
  control_memOk h _ fun _ _ ht => State.retire_memOk (State.markOpd_memOk ht ..) ..

theorem execSig_memOk (v : BitVec 24) : Out.memOk (execSig v s) := by
  unfold execSig
  grind [control_memOk, State.sigFault_memOk, State.pm_memOk, State.setCx_memOk]

theorem execUpret_memOk : Out.memOk (execUpret s) := control_memOk h _ fun _ _ ht => State.pm_memOk (State.setCx_memOk ht ..) ..

theorem execUpmask_memOk (o : Un) : Out.memOk (execUpmask o s) := scalarE_memOk h _ _ fun _ _ ht => ht

theorem execTrap_memOk (n : BitVec 5) : Out.memOk (execTrap n s) :=
  control_memOk h _ fun _ _ ht => State.trap_memOk (State.retire_memOk ht ..) ..

theorem execTret_memOk : Out.memOk (execTret s) := control_memOk h _ fun _ _ ht => State.pm_memOk (State.setCx_memOk ht ..) ..

theorem execCsrw_memOk (a : Opd) (ta : Bool) (n : BitVec 12) : Out.memOk (execCsrw a ta n s) := by
  unfold execCsrw
  grind [drawing_memOk, control_memOk, State.retire_memOk, State.csrPut_memOk]

theorem State.invalidate_memOk (k : InvScope) : (s.invalidate k).1.memOk := State.l2Drop_memOk h ..

theorem State.startInv_memOk (waits : List Nat) : (s.startInv waits).memOk := h

theorem execTinv_memOk (d a b : Opd) (scope : BitVec 2) : Out.memOk (execTinv d a b scope s) := by
  unfold execTinv
  grind [State.waits_memOk, control_memOk, State.invalidate_memOk, State.retire_memOk, State.startInv_memOk, Out.memOk]

theorem execTsync_memOk : Out.memOk (execTsync s) := by
  unfold execTsync
  grind [State.waits_memOk, control_memOk, State.retire_memOk, Out.memOk]

theorem State.flushL2_memOk (part : Nat) (drop : Bool) : (s.flushL2 part drop).memOk := by
  unfold State.flushL2
  grind [State.l2Drop_memOk, State.stkPut_memOk, State.verify_memOk, foldl_memOk, State.memOk_iff]

theorem execL2fl_memOk (mode : Bool) : Out.memOk (execL2fl mode s) :=
  control_memOk h _ fun _ _ ht => State.retire_memOk (State.flushL2_memOk ht ..) ..

theorem execInvalidationComplete_memOk (thread ctx : Nat) : Out.memOk (execInvalidationComplete thread ctx s) := by
  unfold execInvalidationComplete
  grind [State.modCtx_memOk, State.memOk_iff, Out.memOk]

theorem execIdle_memOk : Out.memOk (execIdle s) := by
  unfold execIdle
  grind [State.waits_memOk, control_memOk, State.retire_memOk, Out.memOk]

/-! ### The host's port (Machine/HostPort) -/

theorem State.sendNotice_memOk (m : Monitor) : (s.sendNotice m).memOk := State.sendPacket_memOk h ..

theorem execMonitorFire_memOk (i : Nat) : Out.memOk (execMonitorFire i s) := by
  unfold execMonitorFire
  grind [State.notify_memOk, State.sendNotice_memOk, State.memOk_iff, Out.memOk]

theorem execPriResponse_memOk (part asid : Nat) (va : Word) (ans : PriAns) : Out.memOk (execPriResponse part asid va ans s) := by
  unfold execPriResponse
  grind [State.notify_memOk, State.priNext_memOk, State.keepHost_memOk, State.modPart_memOk, foldl_memOk, State.memOk_iff, Out.memOk]

theorem execAtsInvalidation_memOk (part asid : Nat) (va len : Word) : Out.memOk (execAtsInvalidation part asid va len s) :=
  State.invalidate_memOk h ..

theorem State.recall_memOk (a n : Nat) : (s.recall a n).memOk := State.l2Drop_memOk (State.showTables_memOk h ..) ..

theorem State.reportRead_memOk (line : Nat) : (s.reportRead line).memOk := by
  unfold State.reportRead
  grind [State.poisonReport_memOk]

theorem State.hostCome_memOk (a n : Nat) : (s.hostCome a n).memOk := State.verify_memOk (State.recall_memOk h ..) ..

theorem State.giveHost_memOk (l : List Byte) (p : Bool) : (s.giveHost l p).memOk := h

theorem State.hostDev_memOk (a n : Nat) : (s.hostDev a n).memOk := by
  unfold State.hostDev
  grind [State.hostCome_memOk, State.reportRead_memOk, State.giveHost_memOk, foldl_memOk]

theorem State.hostAlias_memOk (off n : Nat) : (s.hostAlias off n).memOk := by
  unfold State.hostAlias
  grind [State.hostCome_memOk, State.giveHost_memOk, State.reportRead_memOk, foldl_memOk]

theorem execHostMemRead_memOk (addr : HostPlace) (len : Nat) : Out.memOk (execHostMemRead addr len s) := by
  unfold execHostMemRead
  grind [State.giveHost_memOk, State.hostDev_memOk, State.hostAlias_memOk, Out.memOk]

theorem execHostMemWrite_memOk (addr : Nat) (bytes : List Byte) (poison : Bool) :
    Out.memOk (execHostMemWrite addr bytes poison s) := by
  unfold execHostMemWrite
  grind [State.recall_memOk, PMem.wf_writeRun, State.memOk_iff, State.memOk.setDev, State.memOk.dev, Out.memOk]

theorem execHostLockedRmw_memOk (addr : Nat) (op : AOp) (v : Word) :
    Out.memOk (execHostLockedRmw addr op v s) := by
  unfold execHostLockedRmw
  grind [State.giveHost_memOk, State.hostCome_memOk, State.reportRead_memOk, PMem.wf_write, State.memOk_iff, State.memOk.setDev,
    State.memOk.dev, Out.memOk]

theorem State.hostAct_memOk (a : Nat) (k : HostAct) : (s.hostAct a k).memOk := by
  unfold State.hostAct
  grind [State.memOk_iff, State.memOk.setHost, State.memOk.host, PMem.wf_write, PMem.wf_writeRun]

theorem execHostSnoop_memOk (q : Nat × HostAct) : Out.memOk (execHostSnoop q s) := by
  unfold execHostSnoop
  grind [State.hostRecall_memOk, State.hostAct_memOk, State.memOk_iff, Out.memOk]

theorem execAliasDataWrite_memOk (off : Nat) (v : Word) : Out.memOk (execAliasDataWrite off v s) := by
  unfold execAliasDataWrite
  grind [State.recall_memOk, State.wordChanged_memOk, PMem.wf_writeClean, PMem.wf_setFull, State.memOk_iff, State.memOk.setDev,
    State.memOk.dev, Out.memOk]

theorem execAliasFullEmptyWrite_memOk (off : Nat) (v : Word) :
    Out.memOk (execAliasFullEmptyWrite off v s) := by
  unfold execAliasFullEmptyWrite
  grind [State.recall_memOk, State.wordChanged_memOk, PMem.wf_setFull, State.memOk_iff, State.memOk.setDev, State.memOk.dev, Out.memOk]

theorem execNotifyProdWrite_memOk (part ring : Nat) (v : BitVec 32) : Out.memOk (execNotifyProdWrite part ring v s) := by
  unfold execNotifyProdWrite
  grind [State.ringWrite_memOk, Out.memOk]

theorem execNotifyErrClear_memOk (part ring : Nat) : Out.memOk (execNotifyErrClear part ring s) := by
  unfold execNotifyErrClear
  grind [State.ringWrite_memOk, Out.memOk]

theorem execNotifyReprioritise_memOk (part ring : Nat) (v : Word) : Out.memOk (execNotifyReprioritise part ring v s) := by
  unfold execNotifyReprioritise
  grind [State.ringWrite_memOk, Out.memOk]

theorem execWindowEnable_memOk (part w : Nat) : Out.memOk (execWindowEnable part w s) := by
  unfold execWindowEnable
  grind [State.enableWindow_memOk, Out.memOk]

theorem execWindowDisable_memOk (part w : Nat) : Out.memOk (execWindowDisable part w s) := by
  unfold execWindowDisable
  grind [State.disableWindow_memOk, Out.memOk]

theorem execPoisonReportClear_memOk (part : Nat) : Out.memOk (execPoisonReportClear part s) := by
  unfold execPoisonReportClear
  grind [State.mmioWrite_memOk, Out.memOk]

theorem State.assign_memOk (part base n : Nat) : (s.assign part base n).memOk := by
  unfold State.assign
  grind [State.modPart_memOk, State.memOk_iff]

theorem State.setAsPart_memOk (asid p : Nat) : (s.setAsPart asid p).memOk := by
  rw [State.setAsPart, State.memOk_iff]
  exact h.setDev (PMem.wf_write h.dev ..)

theorem execRegisterWrite_memOk (by_ : Writer) (r : RegName) (v : Word) : Out.memOk (execRegisterWrite by_ r v s) := by
  unfold execRegisterWrite
  grind [State.modPart_memOk, State.mmioWrite_memOk, State.ringWrite_memOk, State.setWindow_memOk, State.writeWindow_memOk,
    State.victimWrite_memOk, State.priNext_memOk, State.setAsPart_memOk, State.assign_memOk, State.memOk_iff, Out.memOk]

theorem execJobCompletion_memOk (job : Nat × HostAns) : Out.memOk (execJobCompletion job s) := by
  unfold execJobCompletion
  grind [State.modPart_memOk, State.irq_memOk, State.keepHost_memOk, State.vwrite_memOk, Out.memOk]

theorem execLogEntryWrite_memOk (part : Nat) : Out.memOk (execLogEntryWrite part s) := by
  unfold execLogEntryWrite
  grind [State.setPart_memOk, State.modPart_memOk, State.irq_memOk, PMem.wf_write, State.memOk_iff, State.memOk.setDev,
    State.memOk.dev, Out.memOk]

theorem State.dropStage_memOk (k : Nat) : (s.dropStage k).memOk := by
  unfold State.dropStage
  grind [State.modStage_memOk, State.endInstance_memOk, State.vwrite_memOk, foldl_memOk]

theorem State.flrEnd_memOk (p : Nat) : (s.flrEnd p).memOk := by
  unfold State.flrEnd
  grind [State.flushOps_memOk, State.endThread_memOk, State.respond_memOk, State.dropStage_memOk, State.setWindow_memOk,
    State.disableWindow_memOk, State.modPart_memOk, foldl_memOk, State.memOk_iff]

theorem execFunctionLevelReset_memOk (part : Nat) : Out.memOk (execFunctionLevelReset part s) := by
  unfold execFunctionLevelReset
  grind [State.modPart_memOk, State.askHalt_memOk, State.flrEnd_memOk, foldl_memOk, State.memOk_iff, Out.memOk]

/-! ### Slots, the cluster map, the victim tier and soft errors (Machine/Platform) -/

theorem execSlotWrite_memOk (c gen : Nat) (v : Slot) : Out.memOk (execSlotWrite c gen v s) := by
  have hu : ((s.logCore c).elim s s.ungive).memOk := by
    cases s.logCore c with
    | none => exact h
    | some k => exact State.ungive_memOk h k
  unfold execSlotWrite
  grind [State.putSlot_memOk, Out.memOk]

theorem State.spareAt_wf (k : Nat) : (s.spare.get .reset k).ls.wf := by
  obtain ⟨-, -, -, hs⟩ := h
  rcases Tab.get_mem Core.reset s.spare k with hr | hm
  · rw [hr]; exact PMem.wf_blank
  · exact hs _ hm

theorem State.setSpare_memOk (k : Nat) (c : Core) (hc : c.ls.wf) :
    State.memOk { s with spare := s.spare.set k c } := by
  obtain ⟨hmem, hhost, hcores, hspare⟩ := h
  refine ⟨hmem, hhost, hcores, fun e he => ?_⟩
  rcases (Tab.mem_set s.spare k c e).1 he with rfl | hm
  · exact hc
  · exact hspare e hm.1

theorem foldl_clusterCores_memOk (l : List Nat) (f : Nat → State → Nat → State)
    (hf : ∀ n t i, t.memOk → (f n t i).memOk) : (l.foldl (fun t n => (upto 64).foldl (f n) t) s).memOk :=
  foldl_memOk h l _ fun _ n ht => foldl_memOk ht _ _ fun t i ht => hf n t i ht

theorem execClusterRemap_memOk (m : List (Nat × Nat)) : Out.memOk (execClusterRemap m s) := by
  unfold execClusterRemap
  extract_lets l old from_ dest cell t0 t1 gone t2 t3
  have hcell (n i : Nat) : (cell n i).ls.wf := by
    change (Core.ls (match from_ (dest n) with
      | some k => s.coreAt (64 * k + i)
      | none => s.spare.get .reset (64 * dest n + i))).wf
    split
    · exact State.coreAt_wf h _
    · exact State.spareAt_wf h _
  have h1 : t1.memOk := foldl_clusterCores_memOk (s := t0) h l _ fun n t i ht => State.setCore_memOk ht _ _ (hcell n i)
  have h2 : t2.memOk := foldl_clusterCores_memOk h1 gone _ fun n t i ht => State.setSpare_memOk ht _ _ (State.coreAt_wf h _)
  have h3 : t3.memOk := by
    obtain ⟨hmem, hhost, hcores, hspare⟩ := h2
    exact ⟨hmem, hhost, hcores, fun e he => hspare e (List.mem_filter.1 he).1⟩
  split
  · exact h
  · exact foldl_clusterCores_memOk h3 l _ fun _ _ _ ht => ht

theorem State.loseThread_memOk (t : Nat) : (s.loseThread t).memOk := by
  unfold State.loseThread
  grind [State.log_memOk, State.discardAlone_memOk]

theorem execTltEntryLost_memOk (t : Nat) : Out.memOk (execTltEntryLost t s) := State.loseThread_memOk h ..

theorem State.setMemOf_corrupt_memOk (ln k : Nat) (l : List (Nat × Byte)) :
    (s.setMemOf ln ((s.memOf ln).corrupt k l)).memOk :=
  State.setMemOf_memOk h _ _ (PMem.wf_corrupt (State.memOf_wf h ln) ..)

theorem execL2Fill_memOk (asid : Nat) (va : Word) (noise : List (Nat × Byte)) :
    Out.memOk (execL2Fill asid va noise s) := by
  unfold execL2Fill
  grind [State.sigWalk_memOk, State.setMemOf_corrupt_memOk, State.through_memOk, State.keepTrans_memOk, State.bring_memOk,
    State.track_memOk, Out.memOk]

theorem execL2Writeback_memOk (asid : Nat) (va : Word) (noise : List (Nat × Byte)) :
    Out.memOk (execL2Writeback asid va noise s) := by
  unfold execL2Writeback
  grind [State.setMemOf_corrupt_memOk, State.l2Drop_memOk, Out.memOk]

theorem execL2ModeChange_memOk (priv : Bool) : Out.memOk (execL2ModeChange priv s) := by
  unfold execL2ModeChange
  grind [State.l2Drop_memOk, State.memOk_iff, Out.memOk]

theorem execViewLineAssemble_memOk (w n : Nat) : Out.memOk (execViewLineAssemble w n s) := by
  unfold execViewLineAssemble
  grind [State.stkPut_memOk, State.assemble_memOk, Out.memOk]

theorem execViewLineEvict_memOk (w n : Nat) : Out.memOk (execViewLineEvict w n s) := by
  unfold execViewLineEvict
  grind [State.dropView_memOk, State.memOk_iff, Out.memOk]

theorem State.frameStore_memOk (f : Nat) (page : PMem) : (s.frameStore f page).memOk := by
  unfold State.frameStore
  split
  · exact State.setLs_memOk h _ _ (PMem.wf_paste (State.coreAt_wf h _) ..)
  · exact h

theorem State.victimSend_memOk (part : Nat) (r : VReq) (v peer : Nat) : (s.victimSend part r v peer).memOk :=
  State.sendReq_memOk (State.pushReq_memOk h ..) ..

theorem State.victimDone_memOk (part : Nat) (r : VReq) (status token : Nat) :
    (s.victimDone part r status token).memOk := by
  unfold State.victimDone
  grind [State.modPart_memOk, State.walkCome_memOk, State.bring_memOk, State.keepPart_memOk, State.dirtyView_memOk,
    State.wordChanged_memOk, State.victimSend_memOk, PMem.wf_write, PMem.wf_setFull, State.memOk_iff, State.memOk.setDev, State.memOk.dev]

theorem execVictimEvict_memOk (part frame : Nat) : Out.memOk (execVictimEvict part frame s) := by
  unfold execVictimEvict
  split
  · exact h
  next r l hr =>
  extract_lets op
  split
  · exact h
  split
  · exact State.victimDone_memOk h ..
  split
  · exact State.victimDone_memOk h ..
  extract_lets s1 page t s2
  have h1 : s1.memOk := State.verifyRun_memOk (State.recall_memOk h ..) ..
  have h2 : s2.memOk := by
    clear_value s1 page t
    exact h1
  split
  · exact State.victimDone_memOk h ..
  split
  · exact h
  · exact State.victimDone_memOk (State.frameStore_memOk h2 ..) ..

theorem execVictimRecall_memOk (part : Nat) : Out.memOk (execVictimRecall part s) := by
  unfold execVictimRecall
  split
  · exact h
  next r l hr =>
  extract_lets token
  split
  · exact h
  split
  · exact State.victimDone_memOk h ..
  split
  · exact State.victimDone_memOk h ..
  extract_lets s1 s2
  have h1 : s1.memOk := State.recall_memOk h ..
  have h2 : s2.memOk := (State.memOk_iff s2).2 (h1.setDev (PMem.wf_paste h1.dev ..))
  exact State.victimDone_memOk (State.verifyRun_memOk h2 ..) ..

theorem execVictimMigrate_memOk (token frame : Nat) : Out.memOk (execVictimMigrate token frame s) := by
  unfold execVictimMigrate
  grind [State.frameStore_memOk, State.memOk_iff, Out.memOk]

theorem execIslandWake_memOk (core : Nat) : Out.memOk (execIslandWake core s) := by
  unfold execIslandWake
  grind [State.modCore_memOk, State.irq_memOk, State.log_memOk, foldl_memOk, State.memOk_iff, Out.memOk]

theorem execIslandPowerGating_memOk (island : Nat) (off : Bool) : Out.memOk (execIslandPowerGating island off s) := by
  unfold execIslandPowerGating
  grind [State.memOk_iff, Out.memOk]

theorem execCarveOutChange_memOk (steps : Nat) : Out.memOk (execCarveOutChange steps s) := by
  unfold execCarveOutChange
  grind [State.memOk_iff, Out.memOk]

theorem State.loseStage_memOk (asid stage table : Nat) : (s.loseStage asid stage table).memOk := by
  unfold State.loseStage
  grind [State.logTable_memOk, State.stopStage_memOk, State.modStage_memOk]

theorem State.strikeLs_memOk (k g : Nat) (v : Word) : (s.strikeLs k g v).memOk := by
  unfold State.strikeLs
  extract_lets ph f x s1
  have h1 : s1.memOk := State.setLs_memOk h _ _ (PMem.wf_setPoison (PMem.wf_write (State.coreAt_wf h _) ..) ..)
  split
  · exact h1
  · exact h1

theorem State.strikeMarks_memOk (k line : Nat) : (s.strikeMarks k line).memOk := by
  unfold State.strikeMarks
  extract_lets ph f s1
  have h1 : s1.memOk := State.setLs_memOk h _ _ (PMem.wf_poisonLine (State.coreAt_wf h _) _)
  split
  · exact h1
  · exact h1

theorem execSoftError_memOk (loc : ErrLoc) (v : Word) : Out.memOk (execSoftError loc v s) := by
  unfold execSoftError
  cases loc with
  | lsGranule k g => grind [State.strikeLs_memOk, Out.memOk]
  | memGranule g => grind [State.setMemOf_memOk, State.memOf_wf, PMem.wf_corrupt, PMem.wf_setPoison, Out.memOk]
  | memMarks ln => grind [State.setMemOf_memOk, State.memOf_wf, PMem.wf_poisonLine, Out.memOk]
  | lsMarks k line => grind [State.strikeMarks_memOk, Out.memOk]
  | tltEntry t => exact State.logTable_memOk (State.loseThread_memOk h _) ..
  | slotEntry c => exact State.logTable_memOk (State.putSlot_memOk h ..) ..
  | bufDesc k i => grind [State.logTable_memOk, State.modUnit_memOk, Out.memOk]
  | window w => exact State.logTable_memOk (State.setWindow_memOk (State.disableWindow_memOk h _) ..) ..
  | clusterMirror c => exact foldl_memOk h _ _ fun _ _ ht => State.logTable_memOk ht ..
  | krtEntry a st => exact State.loseStage_memOk h ..
  | stageEntry a st => exact State.loseStage_memOk h ..
  | trvSram => grind [State.memOk_iff, Out.memOk]

theorem execDeviceErrorReport_memOk (line : Nat) : Out.memOk (execDeviceErrorReport line s) := by
  unfold execDeviceErrorReport
  exact (State.memOk_iff _).2 (h.setDev (PMem.wf_poisonLine h.dev _))

/-! ### Bring-up (Machine/Boot) -/

theorem execPowerOnReset_memOk : Out.memOk (execPowerOnReset s) :=
  (State.memOk_iff _).2 ⟨PMem.wf_blank, h.host, by simp [State.reset], by simp [State.reset]⟩

theorem State.setUp_memOk (inp : BootIn) : (s.setUp inp).memOk := by
  obtain ⟨hmem, hhost, -, hspare⟩ := h
  refine ⟨hmem, hhost, fun e he => ?_, hspare⟩
  obtain ⟨k, -, rfl⟩ := List.mem_map.1 he
  exact PMem.wf_blank

theorem State.linkUp_memOk (inp : BootIn) : (s.linkUp inp).memOk := by
  unfold State.linkUp
  grind [foldl_memOk, State.memOk_iff]

theorem execBootStep_memOk (inp : BootIn) : Out.memOk (execBootStep inp s) := by
  have hb : MemsOk .blank s.hostMem s.cores s.spare := h.setDev PMem.wf_blank
  unfold execBootStep
  grind [State.setUp_memOk, State.linkUp_memOk, State.memOk_iff, Out.memOk]

theorem execBootstCommit_memOk : Out.memOk (execBootstCommit s) := by
  unfold execBootstCommit
  grind [State.memOk_iff, Out.memOk]

theorem State.restartTrv_memOk (inp : BootIn) : (s.restartTrv inp).memOk := by
  unfold State.restartTrv
  grind [State.log_memOk, foldl_memOk, State.memOk_iff]

theorem execTreleveberRestart_memOk (digest : BootIn) : Out.memOk (execTreleveberRestart digest s) := State.restartTrv_memOk h ..

theorem execPolicyFirmwareLoad_memOk (digest : Nat) : Out.memOk (execPolicyFirmwareLoad digest s) := by
  unfold execPolicyFirmwareLoad
  grind [State.memOk_iff, Out.memOk]

theorem execSpdmRequest_memOk (r : SpdmReq) : Out.memOk (execSpdmRequest r s) := by
  unfold execSpdmRequest
  grind [State.memOk_iff, Out.memOk]

theorem State.setIsland_memOk (i : Nat) (e : Island) : (s.setIsland i e).memOk := h

theorem execDvfsChange_memOk (island : Nat) (p : OpPoint) : Out.memOk (execDvfsChange island p s) := by
  unfold execDvfsChange
  grind [State.setIsland_memOk, Out.memOk]

theorem execModuleCapWrite_memOk (v : Word) : Out.memOk (execModuleCapWrite v s) := by
  unfold execModuleCapWrite
  grind [State.memOk_iff, Out.memOk]

theorem State.measured_memOk (draw : Nat) (draws : List (Nat × Nat)) : (s.measured draw draws).memOk := by
  unfold State.measured
  grind [State.setIsland_memOk, foldl_memOk, State.memOk_iff]

theorem State.slower_memOk (i : Nat) : (s.slower i).memOk := by
  unfold State.slower
  grind [State.setIsland_memOk]

theorem execPowerCapRegulate_memOk (draw : Nat × List (Nat × Nat)) : Out.memOk (execPowerCapRegulate draw s) := by
  unfold execPowerCapRegulate
  grind [State.measured_memOk, State.slower_memOk, foldl_memOk, Out.memOk]

/-! ### All instructions and events (Machine/Dispatch) -/

theorem exec_memOk (i : Instr) : Out.memOk (exec i s) := by
  unfold exec
  cases i
  case iadd | isub | imul | imulh | idiv | irem | imin | imax | and | or | xor | andn | shl | shr | sra | rol | cmp | mramk =>
    exact bin_memOk h ..
  case iabs | clz | ctz | popc | bswap | fabs | fneg | fclass =>
    exact una_memOk h ..
  case bfx | iext | adda | cvu =>
    exact binChk_memOk h ..
  case bfi | sel =>
    exact bin3_memOk h ..
  case ldi | ldk | self | probe | qocc | tlread | tbstat | lcnt | pchk | csrr =>
    exact scalar_memOk h ..
  case bz | bnz =>
    exact condBr_memOk h ..
  case st | stc =>
    exact store_memOk h ..
  case pref | resid | evict =>
    exact hint_memOk h ..
  case ldx | stx | amox =>
    exact shardGo_memOk h ..
  case vadd | vsub | vmul | vfma | vmin | vmax | vabs | vneg | vand | vor | vxor | vshl | vshr | vcmp | vsel | vcvt | vcopy | vbcst
    | vgath | vscat | vsum | vrmax | vsfu | vqnt | vdq | vpclr =>
    exact vecIssue_memOk h ..
  case fadd | fsub | fmul | ffma =>
    exact floatOp_memOk h ..
  case fmin | fmax | fcmp =>
    exact fbin_memOk h ..
  case fexp2 | flog2 | frcp | frsq | fsqrt | fsin | fcos | ftanh =>
    exact sfuOp_memOk h ..
  case mma | mmb | mms | mcmp | mdrn | mrsum | mcsum =>
    exact matIssue_memOk h ..
  case enq | enqw =>
    exact enqueue_memOk h ..
  case br => exact execBr_memOk h ..
  case bcmp => exact execBcmp_memOk h ..
  case jmp => exact execJmp_memOk h ..
  case call => exact execCall_memOk h ..
  case loop => exact execLoop_memOk h ..
  case nop => exact execNop_memOk h ..
  case empty => exact execEmpty_memOk h ..
  case markf => exact execMarkf_memOk h ..
  case waitf => exact execWaitf_memOk h ..
  case qcfg => exact execQcfg_memOk h ..
  case qrst => exact execQrst_memOk h ..
  case ld => exact execLd_memOk h ..
  case fence => exact execFence_memOk h ..
  case ldl => exact execLdl_memOk h ..
  case rsend => exact execRsend_memOk h ..
  case smfrz => exact execSmfrz_memOk h ..
  case smrel => exact execSmrel_memOk h ..
  case amo => exact execAmo_memOk h ..
  case cas => exact execCas_memOk h ..
  case flagf => exact execFlagf_memOk h ..
  case shld => exact execShld_memOk h ..
  case shst => exact execShst_memOk h ..
  case shset => exact execShset_memOk h ..
  case shadv => exact execShadv_memOk h ..
  case shrd => exact execShrd_memOk h ..
  case fcvt => exact execFcvt_memOk h ..
  case cvp => exact execCvp_memOk h ..
  case mzero => exact execMzero_memOk h ..
  case mlda => exact execMlda_memOk h ..
  case msta => exact execMsta_memOk h ..
  case mtbl => exact execMtbl_memOk h ..
  case mstat => exact execMstat_memOk h ..
  case cpy => exact execCpy_memOk h ..
  case gath => exact execGath_memOk h ..
  case scat => exact execScat_memOk h ..
  case coll => exact execColl_memOk h ..
  case tlwait => exact execTlwait_memOk h ..
  case tlnote => exact execTlnote_memOk h ..
  case fqprst => exact execFqprst_memOk h ..
  case start => exact execStart_memOk h ..
  case hjoin => exact execHjoin_memOk h ..
  case hexit => exact execHexit_memOk h ..
  case post => exact execPost_memOk h ..
  case susp => exact execSusp_memOk h ..
  case yield => exact execYield_memOk h ..
  case uexit => exact execUexit_memOk h ..
  case deq => exact execDeq_memOk h ..
  case recdone => exact execRecdone_memOk h ..
  case splitok => exact execSplitok_memOk h ..
  case mergeok => exact execMergeok_memOk h ..
  case tballoc => exact execTballoc_memOk h ..
  case tbfree => exact execTbfree_memOk h ..
  case tbset => exact execTbset_memOk h ..
  case spanx => exact execSpanx_memOk h ..
  case spanc => exact execSpanc_memOk h ..
  case gbar => exact execGbar_memOk h ..
  case cancel => exact execCancel_memOk h ..
  case pclr => exact execPclr_memOk h ..
  case pset => exact execPset_memOk h ..
  case sig => exact execSig_memOk h ..
  case upret => exact execUpret_memOk h ..
  case upmask => exact execUpmask_memOk h ..
  case trap => exact execTrap_memOk h ..
  case tret => exact execTret_memOk h ..
  case csrw => exact execCsrw_memOk h ..
  case tinv => exact execTinv_memOk h ..
  case tsync => exact execTsync_memOk h ..
  case l2fl => exact execL2fl_memOk h ..
  case idle => exact execIdle_memOk h ..
  case fetchFault => exact execFetchFault_memOk h ..
  case decodeTrap => exact execDecodeTrap_memOk h ..
  case trapEntry => exact execTrapEntry_memOk h ..
  case upcallEntry => exact execUpcallEntry_memOk h ..
  case noticeDelivery => exact execNoticeDelivery_memOk h ..
  case noticeArrival => exact execNoticeArrival_memOk h ..
  case noticeRetry => exact execNoticeRetry_memOk h ..
  case landingDelivery => exact execLandingDelivery_memOk h ..
  case landingRetry => exact execLandingRetry_memOk h ..
  case landingBounce => exact execLandingBounce_memOk h ..
  case sfuResult => exact execSfuResult_memOk h ..
  case accessAccept => exact execAccessAccept_memOk h ..
  case loadDataReturn => exact execLoadDataReturn_memOk h ..
  case accessPerform => exact execAccessPerform_memOk h ..
  case retryListWalk => exact execRetryListWalk_memOk h ..
  case requestRetry => exact execRequestRetry_memOk h ..
  case accessFailAtHome => exact execAccessFailAtHome_memOk h ..
  case smfrzDrain => exact execSmfrzDrain_memOk h ..
  case flagfWrite => exact execFlagfWrite_memOk h ..
  case vectorChunk => exact execVectorChunk_memOk h ..
  case matrixStep => exact execMatrixStep_memOk h ..
  case matrixGlobalRead => exact execMatrixGlobalRead_memOk h ..
  case engineOpComplete => exact execEngineOpComplete_memOk h ..
  case engineAccess => exact execEngineAccess_memOk h ..
  case collMatch => exact execCollMatch_memOk h ..
  case tlnoteLand => exact execTlnoteLand_memOk h ..
  case preemptRequest => exact execPreemptRequest_memOk h ..
  case timeSliceExpiry => exact execTimeSliceExpiry_memOk h ..
  case spinDeschedule => exact execSpinDeschedule_memOk h ..
  case unitHalt => exact execUnitHalt_memOk h ..
  case unitSave => exact execUnitSave_memOk h ..
  case saveComplete => exact execSaveComplete_memOk h ..
  case restoreBegin => exact execRestoreBegin_memOk h ..
  case restoreComplete => exact execRestoreComplete_memOk h ..
  case unitDiscard => exact execUnitDiscard_memOk h ..
  case dispatchSelect => exact execDispatchSelect_memOk h ..
  case unitBind => exact execUnitBind_memOk h ..
  case recordPlacement => exact execRecordPlacement_memOk h ..
  case groupBind => exact execGroupBind_memOk h ..
  case groupReserve => exact execGroupReserve_memOk h ..
  case recordAgeing => exact execRecordAgeing_memOk h ..
  case recordEligible => exact execRecordEligible_memOk h ..
  case admitLaunchRecord => exact execAdmitLaunchRecord_memOk h ..
  case recordFrameRetry => exact execRecordFrameRetry_memOk h ..
  case unitEndRelease => exact execUnitEndRelease_memOk h ..
  case jobCompletion => exact execJobCompletion_memOk h ..
  case coreClockGate => exact execCoreClockGate_memOk h ..
  case islandWake => exact execIslandWake_memOk h ..
  case gbarComplete => exact execGbarComplete_memOk h ..
  case gangRollback => exact execGangRollback_memOk h ..
  case monitorFire => exact execMonitorFire_memOk h ..
  case invalidationComplete => exact execInvalidationComplete_memOk h ..
  case victimEvict => exact execVictimEvict_memOk h ..
  case victimRecall => exact execVictimRecall_memOk h ..
  case stageInstall => exact execStageInstall_memOk h ..
  case stageUninstall => exact execStageUninstall_memOk h ..
  case instanceStart => exact execInstanceStart_memOk h ..
  case governorSample => exact execGovernorSample_memOk h ..
  case splitRoutineEntry => exact execSplitRoutineEntry_memOk h ..
  case twinStart => exact execTwinStart_memOk h ..
  case brimMove => exact execBrimMove_memOk h ..
  case recordDelivery => exact execRecordDelivery_memOk h ..
  case twinQuiesce => exact execTwinQuiesce_memOk h ..
  case mergeRoutineEntry => exact execMergeRoutineEntry_memOk h ..
  case stageStop => exact execStageStop_memOk h ..
  case gauntletRequest => exact execGauntletRequest_memOk h ..
  case responseReceived => exact execResponseReceived_memOk h ..
  case functionLevelReset => exact execFunctionLevelReset_memOk h ..
  case logEntryWrite => exact execLogEntryWrite_memOk h ..
  case packetReceive => exact execPacketReceive_memOk h ..
  case linkReplay => exact execLinkReplay_memOk h ..
  case linkDown => exact execLinkDown_memOk h ..
  case routeChange => exact execRouteChange_memOk h ..
  case peerFailed => exact execPeerFailed_memOk h ..
  case hostMemRead => exact execHostMemRead_memOk h ..
  case hostMemWrite => exact execHostMemWrite_memOk h ..
  case hostLockedRmw => exact execHostLockedRmw_memOk h ..
  case hostSnoop => exact execHostSnoop_memOk h ..
  case aliasDataWrite => exact execAliasDataWrite_memOk h ..
  case aliasFullEmptyWrite => exact execAliasFullEmptyWrite_memOk h ..
  case notifyProdWrite => exact execNotifyProdWrite_memOk h ..
  case notifyErrClear => exact execNotifyErrClear_memOk h ..
  case notifyReprioritise => exact execNotifyReprioritise_memOk h ..
  case windowEnable => exact execWindowEnable_memOk h ..
  case windowDisable => exact execWindowDisable_memOk h ..
  case poisonReportClear => exact execPoisonReportClear_memOk h ..
  case bootstCommit => exact execBootstCommit_memOk h ..
  case moduleCapWrite => exact execModuleCapWrite_memOk h ..
  case registerWrite => exact execRegisterWrite_memOk h ..
  case powerOnReset => exact execPowerOnReset_memOk h ..
  case bootStep => exact execBootStep_memOk h ..
  case treleveberRestart => exact execTreleveberRestart_memOk h ..
  case spdmRequest => exact execSpdmRequest_memOk h ..
  case dvfsChange => exact execDvfsChange_memOk h ..
  case powerCapRegulate => exact execPowerCapRegulate_memOk h ..
  case softError => exact execSoftError_memOk h ..
  case deviceErrorReport => exact execDeviceErrorReport_memOk h ..
  case peerSetPresent => exact execPeerSetPresent_memOk h ..
  case carveOutChange => exact execCarveOutChange_memOk h ..
  case islandPowerGating => exact execIslandPowerGating_memOk h ..
  case policyFirmwareLoad => exact execPolicyFirmwareLoad_memOk h ..
  case slotWrite => exact execSlotWrite_memOk h ..
  case clusterRemap => exact execClusterRemap_memOk h ..
  case tltEntryLost => exact execTltEntryLost_memOk h ..
  case priResponse => exact execPriResponse_memOk h ..
  case atsInvalidation => exact execAtsInvalidation_memOk h ..
  case l2Fill => exact execL2Fill_memOk h ..
  case l2Writeback => exact execL2Writeback_memOk h ..
  case l2ModeChange => exact execL2ModeChange_memOk h ..
  case viewLineAssemble => exact execViewLineAssemble_memOk h ..
  case viewLineEvict => exact execViewLineEvict_memOk h ..
  case victimMigrate => exact execVictimMigrate_memOk h ..

/-! ### One step (Machine/Due) -/

theorem State.skipPad_memOk : s.skipPad.memOk := h

omit h in
theorem noteIssue_memOk {o : Out} (ho : Out.memOk o) (k c : Nat) : Out.memOk (noteIssue k c o) := by
  unfold noteIssue
  grind [State.modCore_memOk, State.memOk_iff, Out.memOk]

theorem State.issue_memOk : Out.memOk (State.issue s) := by
  unfold State.issue
  grind [State.fetchAt_memOk, execFetchFault_memOk, execDecodeTrap_memOk, execNoticeDelivery_memOk, State.skipPad_memOk, noteIssue_memOk,
    exec_memOk, State.memOk_iff, Out.memOk]

theorem State.pmPass_memOk (d : Nat) : (s.pmPass d).memOk := by
  unfold State.pmPass
  grind [State.modUnit_memOk, foldl_memOk]

theorem State.lookFresh_memOk : s.lookFresh.memOk := by
  unfold State.lookFresh
  extract_lets dev host changed seen
  split
  · exact h
  · exact h

theorem State.tick_memOk : s.tick.memOk := by
  unfold State.tick
  grind [State.lookFresh_memOk, State.pmPass_memOk, State.restartTrv_memOk, State.memOk_iff]

theorem State.freeStep_memOk : Out.memOk (State.freeStep s) := by
  unfold State.freeStep
  grind [exec_memOk, State.issue_memOk, State.memOk_iff, Out.memOk]

theorem State.afterTick_memOk : Out.memOk (State.afterTick s) := by
  unfold State.afterTick
  grind [exec_memOk, State.freeStep_memOk, State.memOk_iff, Out.memOk]

theorem step_memOk : Out.memOk (step s) := State.afterTick_memOk (State.tick_memOk h)

end

end Sys2Proof.Machine

open Sys2Proof Sys2Proof.Machine

/-- Settles O59: every operation of the model keeps the form, so a step does. -/
theorem stepKeepsMemoryCanonical : Obligations.StepKeepsMemoryCanonical := by
  intro s t h ht
  have hs : Out.memOk (step s) := step_memOk h
  rwa [ht] at hs

end

section

/-! What a write leaves on each granule, and that a canonical list of bytes is determined by what it reads as. -/

namespace Sys2Proof.Machine

@[simp] theorem mem_upto (n x : Nat) : x ∈ upto n ↔ x < n := List.mem_range

/-- The granules that a run of bytes touches (R180). -/
theorem mem_granules (a n g : Nat) : g ∈ granules a n ↔ 0 < n ∧ a < 8 * g + 8 ∧ 8 * g < a + n := by
  unfold granules
  split
  · simp; omega
  · simp only [List.mem_map, mem_upto]
    constructor
    · rintro ⟨i, hi, rfl⟩; omega
    · exact fun hg => ⟨g - a / 8, by omega, by omega⟩

theorem covers_iff (a n g : Nat) : covers a n g = true ↔ a ≤ 8 * g ∧ 8 * g + 8 ≤ a + n := by simp [covers]

theorem PMem.poisoned_write_apart (m : PMem) {a n g : Nat} (v : Nat) (p : Bool) (h : 8 * g + 8 ≤ a ∨ a + n ≤ 8 * g) :
    (m.write a n v p).poisoned g = m.poisoned g := by
  rw [PMem.poisoned_write, if_neg (by rw [mem_granules]; omega)]

theorem PMem.poisoned_write_covered (m : PMem) {a n g : Nat} (v : Nat) (p : Bool) (h : a ≤ 8 * g) (h' : 8 * g + 8 ≤ a + n) :
    (m.write a n v p).poisoned g = p := by
  rw [PMem.poisoned_write, if_pos ((mem_granules a n g).2 (by omega)), PMem.markAfter, if_pos ((covers_iff a n g).2 ⟨h, h'⟩)]

theorem PMem.poisoned_write_partial (m : PMem) {a n g : Nat} (v : Nat) (p : Bool) (hg : g ∈ granules a n)
    (hc : ¬(a ≤ 8 * g ∧ 8 * g + 8 ≤ a + n)) : (m.write a n v p).poisoned g = (p || m.poisoned g) := by
  rw [PMem.poisoned_write, if_pos hg, PMem.markAfter, if_neg (mt (covers_iff a n g).1 hc), Bool.or_comm]

@[simp] theorem PMem.isFull_write (m : PMem) (a n v w : Nat) (p : Bool) : (m.write a n v p).isFull w = m.isFull w := rfl

/-- In a table with rising keys an entry is what its key reads as. -/
theorem Tab.Rising.get_of_mem {α : Type} (d : α) {t : Tab α} (h : t.Rising) {e : Nat × α} (he : e ∈ t) : t.get d e.1 = e.2 := by
  induction t with
  | nil => cases he
  | cons x t ih =>
    obtain ⟨hx, ht⟩ := List.pairwise_cons.1 h
    rcases List.mem_cons.1 he with rfl | he
    · exact if_pos rfl
    · exact (if_neg (Nat.ne_of_lt (hx e he))).trans (ih ht he)

/-- Two tables with rising keys and the same entries are the same list. -/
theorem Tab.Rising.eq_of_mem_iff {α : Type} {l m : Tab α} (hl : l.Rising) (hm : m.Rising) (h : ∀ e, e ∈ l ↔ e ∈ m) : l = m := by
  induction l generalizing m with
  | nil => exact (List.eq_nil_iff_forall_not_mem.2 fun e he => List.not_mem_nil ((h e).2 he)).symm
  | cons x l ih =>
    cases m with
    | nil => exact absurd ((h x).1 List.mem_cons_self) List.not_mem_nil
    | cons y m =>
      obtain ⟨hx, hl⟩ := List.pairwise_cons.1 hl
      obtain ⟨hy, hm'⟩ := List.pairwise_cons.1 hm
      have hxy : x = y := by
        rcases List.mem_cons.1 ((h x).1 List.mem_cons_self) with he | hxm
        · exact he
        · rcases List.mem_cons.1 ((h y).2 List.mem_cons_self) with he | hyl
          · exact he.symm
          · exact absurd (hx y hyl) (Nat.lt_asymm (hy x hxm))
      subst hxy
      refine congrArg (x :: ·) (ih hl hm' fun e => ⟨fun he => ?_, fun he => ?_⟩)
      · exact (List.mem_cons.1 ((h e).1 (List.mem_cons_of_mem _ he))).resolve_left
          fun hex => Nat.lt_irrefl _ (hex ▸ hx e he)
      · exact (List.mem_cons.1 ((h e).2 (List.mem_cons_of_mem _ he))).resolve_left
          fun hex => Nat.lt_irrefl _ (hex ▸ hy e he)

/-- The entries of a canonical list are the bytes that do not read as blank. -/
theorem Memory.mem_iff_of_wf {m : List Host.Cell} (h : Memory.wf m = true) (c : Host.Cell) :
    c ∈ m ↔ Memory.byte m c.1 = c.2 ∧ c.2 ≠ Memory.blankByte := by
  obtain ⟨hr, hb⟩ := (Memory.wf_iff m).1 h
  refine ⟨fun hc => ⟨hr.get_of_mem _ hc, hb c hc⟩, fun ⟨hc, hn⟩ => ?_⟩
  rcases Tab.get_mem Memory.blankByte m c.1 with hd | hm
  · exact absurd (hc.symm.trans hd) hn
  · rwa [show Tab.get Memory.blankByte m c.1 = c.2 from hc] at hm

theorem Memory.eq_of_byte_eq {l m : List Host.Cell} (hl : Memory.wf l = true) (hm : Memory.wf m = true)
    (h : ∀ a, Memory.byte l a = Memory.byte m a) : l = m := by
  obtain ⟨hrl, -⟩ := (Memory.wf_iff l).1 hl
  obtain ⟨hrm, -⟩ := (Memory.wf_iff m).1 hm
  exact hrl.eq_of_mem_iff hrm fun c => by rw [Memory.mem_iff_of_wf hl, Memory.mem_iff_of_wf hm, h]

end Sys2Proof.Machine

open Sys2Proof Sys2Proof.Machine

/-- Settles O58: the laws of a write, one granule at a time, and the uniqueness of the canonical list. -/
theorem memoryIsReadBack : Obligations.MemoryIsReadBack := by
  refine ⟨fun m a n v p => ⟨m.read_write a n v p, fun b => m.byte_write_other a n v b p, fun g => m.poisoned_write_apart v p,
    fun g => m.poisoned_write_covered v p, fun g h h' hc hn => m.poisoned_write_partial v p ((mem_granules a n g).2 ⟨hn, h, h'⟩) hc,
    fun w => rfl, m.isFull_setFull, fun hm => ?_⟩, fun l m => Memory.eq_of_byte_eq⟩
  exact ⟨PMem.wf_write hm .., PMem.wf_writeClean hm .., PMem.wf_clear hm .., PMem.wf_writeRun hm a, PMem.wf_corrupt hm a⟩

end

section

/-! What performing an access does to a memory, kind by kind. -/

namespace Sys2Proof.Machine

/-! ### Reads and writes of n bytes -/

theorem Memory.readLE_lt (m : List Host.Cell) (a n : Nat) : Memory.readLE m a n < 256 ^ n := by
  induction n generalizing a with
  | zero => simp [Memory.readLE]
  | succ n ih =>
    have hb := (Memory.byte m a).isLt
    have hr := ih (a + 1)
    rw [Memory.readLE, Nat.pow_succ]
    omega

theorem Memory.byte_writeLE_eq (m : List Host.Cell) (a n v x : Nat) : Memory.byte (Memory.writeLE m a n v) x =
    if a ≤ x ∧ x < a + n then BitVec.ofNat 8 (v / 256 ^ (x - a)) else Memory.byte m x := by
  split
  next h =>
    have hx := Memory.byte_writeLE m a n v (x - a) (by omega)
    rwa [Nat.add_sub_cancel' h.1] at hx
  next h => exact Memory.byte_writeLE_other m a n v x (by omega)

theorem PMem.poisoned_writeClean (m : PMem) (a n v g : Nat) :
    (m.writeClean a n v).poisoned g = if g ∈ granules a n then false else m.poisoned g :=
  contains_foldPut (fun _ => false) (granules a n) m.poison g

theorem PMem.anyPoison_writeClean (m : PMem) (a n v : Nat) : (m.writeClean a n v).anyPoison a n = false := by
  simp only [PMem.anyPoison, List.any_eq_false, PMem.poisoned_writeClean]
  intro g hg
  simp [hg]

theorem szBytes_le (z : Sz) : szBytes z ≤ 8 := by cases z <;> decide

/-- What an access of one size reads fits a word. -/
theorem Memory.toNat_readLE (m : List Host.Cell) (a : Nat) (z : Sz) :
    (BitVec.ofNat 64 (Memory.readLE m a (szBytes z))).toNat = Memory.readLE m a (szBytes z) := by
  rw [BitVec.toNat_ofNat]
  have hz : 256 ^ szBytes z ≤ 256 ^ 8 := Nat.pow_le_pow_right (by omega) (szBytes_le z)
  exact Nat.mod_eq_of_lt (Nat.lt_of_lt_of_le (Memory.readLE_lt m a _) hz)

/-! ### Atomics -/

theorem intOf_signed_eq_bmod {w : Nat} (hw : 0 < w) (v : Nat) : intOf w true v = Int.bmod v (2 ^ w) := by
  obtain ⟨k, rfl⟩ := Nat.exists_eq_succ_of_ne_zero (Nat.ne_of_gt hw)
  have hp : 2 ^ (k + 1) = 2 * 2 ^ k := Nat.pow_succ'
  have hi : (2 : Int) ^ (k + 1) = ((2 ^ (k + 1) : Nat) : Int) := by push_cast; rfl
  simp only [intOf, Int.bmod, Nat.succ_eq_add_one, Nat.add_sub_cancel, Bool.true_and, decide_eq_true_eq, ← Int.natCast_emod]
  rw [hi]
  split <;> split <;> omega

/-- The model's new value of an atomic is R186's. -/
theorem atomicNew_eq (op : AOp) {n : Nat} (hn : 0 < n) (o d : Nat) : atomicNew op n o d = Claims.newValue op (8 * n) o d := by
  have hw : 0 < 8 * n := by omega
  cases op with
  | add | fadd | and | or | xor | swap => rfl
  | min => simp [atomicNew, Claims.newValue, intOf_signed_eq_bmod hw]
  | max => simp [atomicNew, Claims.newValue, intOf_signed_eq_bmod hw]
  | umin => simp [atomicNew, Claims.newValue, Nat.min_def]
  | umax =>
    simp only [atomicNew, Claims.newValue, decide_eq_true_eq]
    split <;> omega

/-! ### One access -/

theorem holds_write (m : PMem) (a n v : Nat) (p : Bool) : Claims.holds m (m.write a n v p) a n v :=
  Memory.byte_writeLE_eq m.bytes a n v

/-- The memory that a store's data makes: STC leaves the granules clean (R284). The mode's full/empty bit is not in it. -/
def PMem.stored (m : PMem) (k : AKind) (a n v : Nat) (p : Bool) : PMem := if k = .stc then m.writeClean a n v else m.write a n v p

theorem PMem.holds_stored (m : PMem) (k : AKind) (a n v : Nat) (p : Bool) : Claims.holds m (m.stored k a n v p) a n v := by
  unfold PMem.stored
  split
  · exact Memory.byte_writeLE_eq m.bytes a n v
  · exact holds_write _ _ _ _ _

theorem PMem.isFull_stored (m : PMem) (k : AKind) (a n v w : Nat) (p : Bool) : (m.stored k a n v p).isFull w = m.isFull w := by
  unfold PMem.stored
  split <;> rfl

theorem PMem.poisoned_stored_apart (m : PMem) (k : AKind) {a n g : Nat} (v : Nat) (p : Bool) (h : 8 * g + 8 ≤ a ∨ a + n ≤ 8 * g) :
    (m.stored k a n v p).poisoned g = m.poisoned g := by
  unfold PMem.stored
  split
  · rw [PMem.poisoned_writeClean, if_neg (by rw [mem_granules]; omega)]
  · exact m.poisoned_write_apart v p h

theorem PMem.poisoned_stored_covered (m : PMem) (k : AKind) {a n g : Nat} (v : Nat) (p : Bool) (h : a ≤ 8 * g)
    (h' : 8 * g + 8 ≤ a + n) : (m.stored k a n v p).poisoned g = (k != .stc && p) := by
  unfold PMem.stored
  split
  next hk => rw [PMem.poisoned_writeClean, if_pos ((mem_granules a n g).2 (by omega)), hk]; rfl
  next hk => rw [m.poisoned_write_covered v p h h', bne_iff_ne.2 hk, Bool.true_and]

/-- A store's data in a memory. -/
def Req.stored (r : Req) (m : PMem) (a : Nat) : PMem :=
  m.stored r.k a (szBytes r.sz) (r.d.v.toNat % 2 ^ (8 * szBytes r.sz)) r.d.p

theorem Req.onMem_load {r : Req} (hk : r.k = .ld ∨ r.k = .ldl) (m : PMem) (a : Nat) : r.onMem m a =
    if r.sm.waits && !m.isFull (a / 8) then none
    else some ⟨if r.sm = .tk then m.setFull (a / 8) false else m, (m.load a (szBytes r.sz) r.et).1, (m.load a (szBytes r.sz) r.et).2⟩ := by
  rcases hk with hk | hk <;> simp only [Req.onMem, Req.bytes, hk]

/-- What a store's mode does to the full/empty bit of word w (R178). -/
def Sm.mark (sm : Sm) (m : PMem) (w : Nat) : PMem :=
  match sm with
  | .we | .wf => m.setFull w true
  | .wz => m.setFull w false
  | .plain | .rf | .tk => m

theorem Req.onMem_store {r : Req} (hk : r.k = .st ∨ r.k = .stc) (m : PMem) (a : Nat) : r.onMem m a =
    if r.sm = .we && m.isFull (a / 8) then none else some ⟨Sm.mark r.sm (r.stored m a) (a / 8), .zero, false⟩ := by
  rcases hk with hk | hk <;> cases hm : r.sm <;> simp [Req.onMem, Req.bytes, Req.stored, PMem.stored, Sm.mark, hk, hm]

theorem Req.onMem_waits {r : Req} (hk : r.k = .ld ∨ r.k = .ldl) (hm : r.sm = .rf ∨ r.sm = .tk) {m : PMem} {a : Nat}
    (hf : m.isFull (a / 8) = false) : r.onMem m a = none := by
  rcases hm with hm | hm <;> simp [Req.onMem_load hk, hm, Sm.waits, hf]

theorem Req.onMem_load_some {r : Req} (hk : r.k = .ld ∨ r.k = .ldl) (hs : r.sm = .plain ∨ r.sm = .rf ∨ r.sm = .tk) {m : PMem}
    {a : Nat} (hf : r.sm = .rf ∨ r.sm = .tk → m.isFull (a / 8) = true) : r.onMem m a =
      some ⟨if r.sm = .tk then m.setFull (a / 8) false else m, (m.load a (szBytes r.sz) r.et).1, (m.load a (szBytes r.sz) r.et).2⟩ := by
  rw [Req.onMem_load hk, if_neg]
  rcases hs with hs | hs | hs <;> simp [hs, Sm.waits] <;> exact hf (by simp [hs])

theorem PMem.load_clean {m : PMem} {a n : Nat} {et : Bool} (h : (et && m.anyPoison a n) = false) :
    m.load a n et = (⟨BitVec.ofNat 64 (m.read a n), m.anyPoison a n⟩, false) := by simp [PMem.load, h]

theorem PMem.load_substituted {m : PMem} {a n : Nat} {et : Bool} (h : (et && m.anyPoison a n) = true) :
    m.load a n et = (⟨BitVec.ofNat 64 (m.substituted a n), false⟩, true) := by simp [PMem.load, h]

/-- A store's mode sets the full/empty bit of its word and nothing else (R178). -/
theorem Req.onMem_store_some {r : Req} (hk : r.k = .st ∨ r.k = .stc) {m : PMem} {a : Nat}
    (hf : r.sm = .we → m.isFull (a / 8) = false) : ∃ p, r.onMem m a = some p ∧ p.mem.bytes = (r.stored m a).bytes ∧
      p.mem.poison = (r.stored m a).poison ∧ ∀ w, p.mem.isFull w = if w = a / 8 then
        (match r.sm with | .we | .wf => true | .wz => false | .plain | .rf | .tk => m.isFull (a / 8)) else m.isFull w := by
  rw [Req.onMem_store hk, if_neg (by simpa using hf)]
  refine ⟨_, rfl, ?_⟩
  cases r.sm with
  | we | wf | wz => exact ⟨rfl, rfl, fun w => by simp [Sm.mark, Req.stored, PMem.isFull_stored]⟩
  | plain | rf | tk =>
    refine ⟨rfl, rfl, fun w => (m.isFull_stored ..).trans ?_⟩
    split
    next h => rw [h]
    next => rfl

/-- An atomic's access: the old value is returned and the new one of R186 is written. -/
theorem Req.onMem_amo {r : Req} {op : AOp} (hk : r.k = .amo op ∨ r.k = .amol op) (m : PMem) (a : Nat) :
    ∃ mark, r.onMem m a = some ⟨m.write a (szBytes r.sz) (Claims.newValue op (8 * szBytes r.sz) (m.read a (szBytes r.sz))
        (r.d.v.toNat % 2 ^ (8 * szBytes r.sz))) mark,
      ⟨BitVec.ofNat 64 (m.read a (szBytes r.sz)), m.anyPoison a (szBytes r.sz)⟩, false⟩ := by
  have hn : 0 < szBytes r.sz := by cases r.sz <;> decide
  rw [← atomicNew_eq op hn]
  have hr : (BitVec.ofNat 64 (m.read a (szBytes r.sz))).toNat = m.read a (szBytes r.sz) := Memory.toNat_readLE ..
  rcases hk with hk | hk <;> simp only [Req.onMem, Req.bytes, hk, hr] <;> exact ⟨_, rfl⟩

theorem Req.onMem_cas {r : Req} (hk : r.k = .cas) (m : PMem) (a : Nat) : r.onMem m a =
    some (if m.read a (szBytes r.sz) = r.d.v.toNat % 2 ^ (8 * szBytes r.sz) then
      ⟨m.write a (szBytes r.sz) (r.n.v.toNat % 2 ^ (8 * szBytes r.sz)) r.n.p,
        ⟨BitVec.ofNat 64 (m.read a (szBytes r.sz)), m.anyPoison a (szBytes r.sz)⟩, false⟩
    else ⟨m, ⟨BitVec.ofNat 64 (m.read a (szBytes r.sz)), m.anyPoison a (szBytes r.sz)⟩, false⟩) := by
  have hr : (BitVec.ofNat 64 (m.read a (szBytes r.sz))).toNat = m.read a (szBytes r.sz) := Memory.toNat_readLE ..
  simp only [Req.onMem, Req.bytes, hk, hr]

end Sys2Proof.Machine

open Sys2Proof Sys2Proof.Machine

/-- Settles O18, one kind of access at a time. -/
theorem performedAccessesActOnTheirBytes : Obligations.PerformedAccessesActOnTheirBytes := by
  intro r m a n d old word full pois
  refine ⟨fun hk hs => ⟨fun hm hf => Req.onMem_waits hk hm hf, fun hf => ?_⟩,
    fun hk => ⟨fun hm hf => ?_, fun hf => ?_⟩, fun op hk => ?_, fun hk => ?_⟩
  case refine_1 =>
    refine ⟨_, Req.onMem_load_some hk hs hf, ?_, ?_, fun ht => ?_, fun ht => ?_, fun hp => ?_, fun hp => ?_⟩
    · dsimp only; split <;> rfl
    · dsimp only; split <;> rfl
    · simp [ht, word]
    · simp [ht]
    · rw [PMem.load_clean hp]; exact ⟨rfl, rfl⟩
    · rw [PMem.load_substituted hp]; exact ⟨rfl, rfl⟩
  case refine_2 => rw [Req.onMem_store hk, if_pos (by simp [hm]; exact hf)]
  case refine_3 =>
    obtain ⟨p, hp, hb, hpo, hfull⟩ := Req.onMem_store_some hk hf
    have hpg (g : Nat) : p.mem.poisoned g = (r.stored m a).poisoned g := congrArg (·.contains g) hpo
    refine ⟨p, hp, fun x => ?_, ?_, fun w hw => ?_, fun g hg => ?_, fun hc => ?_, fun hc g hg hg' => ?_⟩
    · rw [hb]; exact m.holds_stored _ _ _ _ _ x
    · refine (hfull _).trans ((if_pos rfl).trans ?_)
      cases r.sm <;> rfl
    · rw [hfull, if_neg hw]
    · rw [hpg]; exact m.poisoned_stored_apart _ _ _ hg
    · rw [show p.mem.anyPoison a n = (r.stored m a).anyPoison a n from congrArg _ (funext hpg), Req.stored, PMem.stored, if_pos hc]
      exact m.anyPoison_writeClean ..
    · rw [hpg, Req.stored, m.poisoned_stored_covered _ _ _ hg hg', hc]; rfl
  case refine_4 =>
    obtain ⟨mark, h⟩ := Req.onMem_amo hk m a
    exact ⟨_, h, rfl, rfl, rfl, fun _ => holds_write _ _ _ _ _⟩
  case refine_5 =>
    rw [Req.onMem_cas hk m a]
    by_cases h : m.read a (szBytes r.sz) = r.d.v.toNat % 2 ^ (8 * szBytes r.sz)
    · rw [if_pos h]
      exact ⟨_, rfl, rfl, fun _ => holds_write _ _ _ _ _, fun h' => absurd h h'⟩
    · rw [if_neg h]
      exact ⟨_, rfl, rfl, fun h' => absurd h' h, fun _ => rfl⟩

end

section

/-! Loads from and stores to local stores: the checks that let one go on, and that retiring and the landings a core holds leave every
memory alone. -/

namespace Sys2Proof.Machine

/-! ### What retiring and held landings leave alone -/

/-- t has the memories, the local stores and the accesses of s. -/
structure SameData (s t : State) : Prop where
  mem : t.mem = s.mem
  hostMem : t.hostMem = s.hostMem
  reqs : t.reqs = s.reqs
  ls : ∀ k, (t.coreAt k).ls = (s.coreAt k).ls

theorem SameData.trans {s t u : State} (h : SameData s t) (h' : SameData t u) : SameData s u where
  mem := h'.mem.trans h.mem
  hostMem := h'.hostMem.trans h.hostMem
  reqs := h'.reqs.trans h.reqs
  ls k := (h'.ls k).trans (h.ls k)

theorem Own.sameData {s t : State} {regs xs : Nat → Prop} {links : Nat → Nat → Prop} (h : Own s t regs xs links) : SameData s t := by
  obtain ⟨us, cs, e⟩ := h.rest
  refine ⟨by rw [e], by rw [e], by rw [e], fun k => ?_⟩
  obtain ⟨l, hl⟩ := h.cores k
  rw [hl]

theorem State.setCx_sameData (s : State) (c : Ctx) : SameData s (s.setCx c) := ⟨rfl, rfl, rfl, fun _ => rfl⟩

theorem State.retireMem_sameData (s : State) (l : List SrcOp) : SameData s (s.retireMem l) := by
  have h1 : SameData s (s.takeAll l) :=
    (State.takeAll_own (regs := fun _ => True) (xs := fun _ => True) (links := fun _ _ => True) l
      (fun _ _ => trivial) (fun _ _ _ => trivial)).sameData
  have h3 (t : State) : SameData t t.retire :=
    (State.retireTo_own (regs := fun _ => True) (xs := fun _ => True) (links := fun _ _ => True) t.nextPc).sameData
  exact (h1.trans (State.setCx_sameData _ _)).trans (h3 _)

theorem State.drain_sameData (s : State) (k : Nat) : SameData s (s.drain k) := by
  have h := s.drain_met k
  obtain ⟨us, cs, th, ps, lh, e⟩ := h.frame
  refine ⟨by rw [e], by rw [e], by rw [e], fun j => ?_⟩
  obtain ⟨b, hb⟩ := h.core j
  rw [hb]

/-! ### The checks of an address -/

theorem firstExc_eq_none {l : List (Bool × Exc)} : firstExc l = none ↔ ∀ e ∈ l, e.1 = false := by
  induction l with
  | nil => simp [firstExc]
  | cons e l ih =>
    obtain ⟨b, e⟩ := e
    cases b <;> simp [firstExc, ih]

/-- An address without a fault of R197 passes the model's checks. -/
theorem checks_pass {s : State} {m : MemOp} {ea : Word} {n : Nat} {strict write : Bool}
    (h : Claims.addressFault s m ea n strict write = none) {c : Bool} (hc : c = false) (e : Exc) :
    firstExc ((c, e) :: s.rangeChk m.sp ea ++ s.placeChk m.sp ea n strict write) = none := by
  unfold Claims.addressFault at h
  dsimp only at h
  split at h
  · cases h
  split at h
  · cases h
  split at h
  · cases h
  split at h
  · cases h
  split at h
  · cases h
  split at h
  · cases h
  split at h
  · cases h
  next h1 h2 h3 h4 h5 h6 h7 =>
    rw [firstExc_eq_none]
    simp only [State.rangeChk, State.placeChk, State.inCompute, List.cons_append, List.nil_append, List.forall_mem_cons]
    refine ⟨hc, ?_, ?_, ?_, ?_, ?_, ?_, ?_, by simp⟩
    · simpa using h1
    · simpa using h2
    · simpa using h3
    · simpa using h4
    · simpa using h5
    · simpa using h6
    · simpa using h7

theorem State.lsTarget_local (s : State) {sp : Space} (h : sp ≠ .glob) (ea : Word) : s.lsTarget sp ea =
    (if sp = .cl then s.core / 64 * 64 + ea.toNat / 2 ^ 18 % 64 else s.core, if sp = .cl then ea.toNat % 2 ^ 18 else ea.toNat) := by
  cases sp with
  | ls => rfl
  | cl => rfl
  | glob => exact absurd rfl h

theorem State.inOrder_of {s : State} (hh : s.cx.hold = false) (ho : s.owes = false) : s.inOrder = true := by
  simp [State.inOrder, hh, ho]

/-! ### The state a local access leads to -/

theorem execLd_local {s : State} {sz : Sz} {sm : Sm} {pol : Policy} {m : MemOp} {b x : Val} (hsp : m.sp ≠ .glob)
    (hp : (b.p || x.p) = false) (hr : Claims.MemReady s 0 [(m.base, false), (m.index, false)] [b, x])
    (hf : Claims.addressFault s m (memEa m b x) (szBytes sz) (sm != .plain) false = none) :
    let t := s.lsTarget m.sp (memEa m b x)
    execLd sz sm pol m s = .next ((s.returnVal m.v ((s.lsOf t.1).load t.2 (szBytes sz) false).1 []).drain s.core) := by
  obtain ⟨hrun, hhold, howes, hv⟩ := hr
  rw [execLd, memory_ready hrun (State.inOrder_of hhold howes) hv]
  · simp [hsp, vat]
  · exact checks_pass hf (show anyP [b, x] = false by simpa [anyP] using hp) _

/-- A unit that is not of a gang logs nothing, so a write to a local store succeeds (R401). -/
theorem State.lsWrite_of_not_gang {s : State} {k : Nat} (h : (s.unitAt (s.coreAt k).thread).gang = false) (a n : Nat) (f : PMem → PMem) :
    s.lsWrite k a n f = some (s.setLs k (f (s.lsOf k))) := by simp [State.lsWrite, State.snapLog, h]

theorem store_local {s : State} {kd : AKind} {sz : Sz} {sm : Sm} {pol : Policy} {m : MemOp} {b x v : Val} (hsp : m.sp ≠ .glob)
    (hp : (b.p || x.p) = false) (hr : Claims.MemReady s 0 (Claims.memSrcs m) [b, x, v])
    (hf : Claims.addressFault s m (memEa m b x) (szBytes sz) (sm != .plain) true = none)
    (hg : (s.unitAt (s.coreAt (s.lsTarget m.sp (memEa m b x)).1).thread).gang = false) :
    let t := s.lsTarget m.sp (memEa m b x)
    store kd sz sm pol m s = .next (((s.setLs t.1 ((s.lsOf t.1).stored kd t.2 (szBytes sz) (v.v.toNat % 2 ^ (8 * szBytes sz)) v.p)).retireMem
      (Claims.memSrcs m)).drain s.core) := by
  obtain ⟨hrun, hhold, howes, hv⟩ := hr
  rw [store, memory_ready hrun (State.inOrder_of hhold howes) hv]
  · simp [hsp, vat, State.lsWrite_of_not_gang hg]
    rfl
  · exact checks_pass hf hp _

/-! ### What local stores hold after it -/

theorem State.lsOf_setLs (s : State) (k j : Nat) (l : PMem) :
    ((s.setLs k l).coreAt j).ls = if j = k then { l with fresh := [] } else (s.coreAt j).ls := by
  unfold State.setLs State.modCore
  rw [State.coreAt_setCore]
  split <;> rfl

theorem State.setLs_lsOf (s : State) (k : Nat) (l : PMem) : ((s.setLs k l).coreAt k).ls = { l with fresh := [] } := by
  rw [State.lsOf_setLs, if_pos rfl]

/-- The low bytes of a value are those of the value cut to n bytes. -/
theorem byte_mod (v : Nat) {i n : Nat} (h : i < n) : BitVec.ofNat 8 (v % 2 ^ (8 * n) / 256 ^ i) = BitVec.ofNat 8 (v / 256 ^ i) := by
  apply BitVec.eq_of_toNat_eq
  have hn : 2 ^ (8 * n) = 256 ^ i * 256 ^ (n - i) := by
    rw [← Nat.pow_add, Nat.add_sub_cancel' (Nat.le_of_lt h), Nat.pow_mul]
  have hd : 2 ^ 8 ∣ 256 ^ (n - i) := Nat.dvd_trans (by decide : 2 ^ 8 ∣ 256 ^ 1) (Nat.pow_dvd_pow 256 (Nat.sub_pos_of_lt h))
  rw [BitVec.toNat_ofNat, BitVec.toNat_ofNat, hn, Nat.mod_mul_right_div_self, Nat.mod_mod_of_dvd _ hd]

/-- A local store's bytes stand at its target, and no other byte or memory has changed (R181, R284, R318). -/
theorem store_local_effect {s : State} {kd : AKind} {sz : Sz} {sm : Sm} {pol : Policy} {m : MemOp} {b x v : Val} (hsp : m.sp ≠ .glob)
    (hp : (b.p || x.p) = false) (hr : Claims.MemReady s 0 (Claims.memSrcs m) [b, x, v])
    (hf : Claims.addressFault s m (memEa m b x) (szBytes sz) (sm != .plain) true = none) {k off : Nat}
    (ht : s.lsTarget m.sp (memEa m b x) = (k, off)) (hg : (s.unitAt (s.coreAt k).thread).gang = false) :
    ∃ t, store kd sz sm pol m s = .next t ∧ t.mem = s.mem ∧ t.hostMem = s.hostMem ∧ (∀ j, j ≠ k → (t.coreAt j).ls = (s.coreAt j).ls) ∧
      (t.coreAt k).ls =
        { (s.coreAt k).ls.stored kd off (szBytes sz) (v.v.toNat % 2 ^ (8 * szBytes sz)) v.p with fresh := [] } := by
  have he := store_local (kd := kd) (pol := pol) hsp hp hr hf (by rw [ht]; exact hg)
  rw [ht] at he
  obtain ⟨hm, hh, -, hl⟩ := (State.retireMem_sameData _ (Claims.memSrcs m)).trans (State.drain_sameData _ s.core)
  refine ⟨_, he, hm, hh, fun j hj => ?_, ?_⟩
  · rw [hl, State.lsOf_setLs, if_neg hj]
  · rw [hl, State.setLs_lsOf]; rfl

/-- A local load into a general register leaves every memory and puts the value on its way (R177, R181). -/
theorem ld_local_effect {s : State} {sz : Sz} {sm : Sm} {pol : Policy} {m : MemOp} {b x : Val} (hsp : m.sp ≠ .glob)
    (hp : (b.p || x.p) = false) (hr : Claims.MemReady s 0 [(m.base, false), (m.index, false)] [b, x])
    (hf : Claims.addressFault s m (memEa m b x) (szBytes sz) (sm != .plain) false = none) {k off : Nat}
    (ht : s.lsTarget m.sp (memEa m b x) = (k, off)) {d : BitVec 5} (hd : m.v = .g d) (h0 : d ≠ 0) :
    ∃ t, execLd sz sm pol m s = .next t ∧ t.mem = s.mem ∧ t.hostMem = s.hostMem ∧ (∀ j, (t.coreAt j).ls = (s.coreAt j).ls) ∧
      t.reqs = s.reqs ++ [{ s.newReq .ld 0 .d .plain with
        dst := .g d, phase := .performed, res := ((s.lsOf k).load off (szBytes sz) false).1 }] := by
  have he := execLd_local (pol := pol) hsp hp hr hf
  rw [ht, hd] at he
  simp only [State.returnVal, h0, if_false] at he
  obtain ⟨hm, hh, hq, hl⟩ := State.retireMem_sameData s []
  obtain ⟨hm', hh', hq', hl'⟩ := State.drain_sameData ((s.retireMem []).pushReq { s.newReq .ld 0 .d .plain with
    dst := .g d, phase := .performed, res := ((s.lsOf k).load off (szBytes sz) false).1 }) s.core
  refine ⟨_, he, hm'.trans hm, hh'.trans hh, fun j => (hl' j).trans (hl j), hq'.trans ?_⟩
  rw [State.pushReq, hq]

end Sys2Proof.Machine

open Sys2Proof Sys2Proof.Machine

/-- Settles O16: the target is R318's, and the store's memory is the one PMem.stored makes. -/
theorem localLoadsAndStores : Obligations.LocalLoadsAndStores := by
  intro s sz sm pol m b x v hsp hp n ea k off
  have ht : s.lsTarget m.sp ea = (k, off) := s.lsTarget_local hsp ea
  refine ⟨fun hr hf hg st => ?_, fun hr hf d hd h0 => ?_⟩
  · have hx : exec (if st then .st sz sm pol m else .stc sz sm pol m) s = store (if st then .st else .stc) sz sm pol m s := by
      cases st <;> rfl
    obtain ⟨t, he, hm, hh, ho, hl⟩ := store_local_effect (kd := if st then .st else .stc) (pol := pol) hsp hp hr hf ht hg
    have hgr (g : Nat) : (t.coreAt k).ls.poisoned g = ((s.coreAt k).ls.stored (if st then .st else .stc) off n
        (v.v.toNat % 2 ^ (8 * n)) v.p).poisoned g := by rw [hl]; rfl
    refine ⟨t, hx.trans he, fun a => ?_, fun j a hj => ?_, hm, hh, fun g h h' => ?_, fun g hg => ?_⟩
    · have hs := (s.coreAt k).ls.holds_stored (if st then .st else .stc) off n (v.v.toNat % 2 ^ (8 * n)) v.p a
      rw [Claims.lsByte, hl]
      refine hs.trans ?_
      split
      next ha => exact byte_mod _ (by omega)
      next => rfl
    · rw [Claims.lsByte, ho j hj]; rfl
    · rw [hgr, PMem.poisoned_stored_covered _ _ _ _ h h']; cases st <;> rfl
    · rw [hgr, PMem.poisoned_stored_apart _ _ _ _ hg]
  · obtain ⟨t, he, hm, hh, hl, hq⟩ := ld_local_effect (pol := pol) hsp hp hr hf ht hd h0
    have hv := PMem.load_clean (m := s.lsOf k) (a := off) (n := n) (et := false) (Bool.false_and _)
    exact ⟨t, _, he, hm, hh, fun j a => by rw [Claims.lsByte, hl]; rfl, hq, rfl, rfl, rfl, rfl, rfl,
      congrArg (·.1.v) hv, congrArg (·.1.p) hv⟩

end

section

/-! Registers, queues, shadow registers and mesh links as operands: what each read gives and what each take and write leaves. -/

namespace Sys2Proof.Machine

/-! ### Registers of the acting context -/

@[simp] theorem Ctx.reg_zero (c : Ctx) : c.reg 0 = .zeroReg := rfl

theorem Ctx.reg_setReg_same (c : Ctx) {n : Nat} (h : n ≠ 0) (r : GReg) : (c.setReg n r).reg n = r := by
  simp [Ctx.setReg, Ctx.reg, h]

@[simp] theorem Ctx.xreg_setX (c : Ctx) (k : Nat) (v : Val) : (c.setX k v).xreg k = v := by simp [Ctx.setX, Ctx.xreg]

theorem toNat_ne_zero {w : Nat} {n : BitVec w} (h : n ≠ 0) : n.toNat ≠ 0 := fun e => h (BitVec.eq_of_toNat_eq (by simpa using e))

theorem State.srcVal_g (s : State) (imm : Word) (n : BitVec 5) (take : Bool) :
    s.srcVal imm [] (.g n, take) = (s.cx.reg n.toNat).head := by
  simp only [State.srcVal, takesOf, List.filter_nil, List.length_nil]
  split
  next h =>
    have hd : (s.cx.reg n.toNat).depth ≠ 0 := by simp at h; exact h.2
    rw [GReg.head, if_neg hd, List.head?_eq_getElem?]
  next => rfl

theorem State.cx_takeSrc_g (s : State) (n : BitVec 5) :
    (s.takeSrc (.g n, true)).cx = s.cx.setReg n.toNat (s.cx.reg n.toNat).take := by simp [State.takeSrc]

theorem State.cx_writeDst_g (s : State) (v : Val) (n : BitVec 5) :
    (s.writeDst v (.g n)).cx = s.cx.setReg n.toNat ((s.cx.reg n.toNat).write v) := by simp [State.writeDst]

theorem State.room_g (s : State) (n : BitVec 5) : s.room [] (.g n) = true ↔
    (s.cx.reg n.toNat).depth = 0 ∨ (s.cx.reg n.toNat).q.length < (s.cx.reg n.toNat).depth := by
  have hr : s.room [] (.g n) =
      ((s.cx.reg n.toNat).depth == 0 || decide ((s.cx.reg n.toNat).q.length - 0 < (s.cx.reg n.toNat).depth)) := rfl
  rw [hr, Bool.or_eq_true, beq_iff_eq, decide_eq_true_eq, Nat.sub_zero]

theorem operandsReadTakeAndWrite : Claims.OperandsReadTakeAndWrite := by
  intro s imm n k take v r
  have h0 (h : n ≠ 0) : n.toNat ≠ 0 := toNat_ne_zero h
  refine ⟨⟨s.srcVal_g .., ?_, ?_⟩, fun _ hd hf => ?_, fun _ hd hf => ?_, fun _ hd => ?_, rfl, fun hn => ?_, fun hn => ?_, ?_, rfl, rfl,
    ?_, rfl, rfl, fun m hm => ⟨?_, ?_⟩⟩
  · rw [State.cx_takeSrc_g]; rfl
  · rw [State.cx_writeDst_g]; rfl
  · rw [State.srcVal_g, GReg.head, if_pos hd, if_pos hf]
  · rw [State.srcVal_g, GReg.head, if_pos hd, if_neg (by rw [hf]; exact Bool.false_ne_true)]
  · rw [State.srcVal_g, GReg.head, if_neg hd]
  · rw [State.cx_takeSrc_g, Ctx.reg_setReg_same _ (h0 hn)]; rfl
  · rw [State.cx_writeDst_g, Ctx.reg_setReg_same _ (h0 hn)]; rfl
  · rw [State.room_g]
    exact ⟨.inr, Or.rec (fun h => .inl (by subst h; rfl)) id⟩
  · simp [State.writeDst]
  · rw [State.cx_takeSrc_g, Ctx.reg_setReg_other _ _ _ _ hm]
  · rw [State.cx_writeDst_g, Ctx.reg_setReg_other _ _ _ _ hm]

/-! ### Mesh links -/

theorem State.linkBuf_setLink (s : State) (k d j c : Nat) (l : List Val) :
    (s.setLink k d l).linkBuf j c = if j = k ∧ c = d then l else s.linkBuf j c := by
  unfold State.setLink State.linkBuf State.modCore
  rw [State.coreAt_setCore]
  by_cases hj : j = k
  · subst hj
    simp [Tab.get_set]
  · simp [hj]

theorem meshLinksJoinNeighbours : Claims.MeshLinksJoinNeighbours := by
  refine ⟨fun k => ⟨rfl, rfl, rfl, rfl⟩, ?_⟩
  intro s imm d take v b
  refine ⟨List.head?_eq_getElem?.symm, (s.linkBuf_setLink ..).trans (if_pos ⟨rfl, rfl⟩), ?_⟩
  intro k hk e
  have hw : s.writeDst v (.link d) = s.setLink k e (s.linkBuf k e ++ [v]) := by simp only [State.writeDst, hk, e]
  rw [hw]
  refine ⟨by simp [State.room, hk, e], ?_, fun j c hjc => ?_⟩
  · rw [State.linkBuf_setLink, if_pos ⟨rfl, rfl⟩]
  · rw [State.linkBuf_setLink, if_neg hjc]

end Sys2Proof.Machine

open Sys2Proof Sys2Proof.Machine

/-- Settles O10: registers and links, each from its own rules. -/
theorem operandsAndMeshLinks : Obligations.OperandsAndMeshLinks :=
  ⟨operandsReadTakeAndWrite, meshLinksJoinNeighbours⟩

end

section

/-! The registers of the host's and the partitions' pages: what one write leaves in its register. -/

namespace Sys2Proof.Machine

/-! ### Reads after updates -/

@[simp] theorem State.part_modPart (s : State) (p j : Nat) (f : Part → Part) :
    (s.modPart p f).part j = if j = p then f (s.part p) else s.part j := s.part_setPart ..

@[simp] theorem State.window_setWindow (s : State) (w j : Nat) (e : Window) :
    (s.setWindow w e).window j = if j = w then e else s.window j := Tab.get_set ..

/-! ### Notify pages -/

section ring
variable {s : State} {p : Nat} (hr : (s.part p).inReset = false) (r v : Nat)
include hr

theorem State.ringWrite_prod : s.ringWrite p r 0x000 v = s.modRing p r (fun e => { e with prod := v % 2 ^ 32 }) := by
  rw [State.ringWrite, if_neg (by simp [hr])]; rfl

theorem State.ringWrite_err : s.ringWrite p r 0x010 (2 ^ 63) = s.modRing p r (fun e => { e with err := false }) := by
  rw [State.ringWrite, if_neg (by simp [hr])]
  exact if_pos Nat.testBit_two_pow_self

theorem State.ringWrite_nprio : s.ringWrite p r 0x018 v = s.reprioritise p (v % 2 ^ 32) (fieldOf v 32 7) := by
  simp [State.ringWrite, hr]

end ring

@[simp] theorem State.ring_modRing (s : State) (p r : Nat) (f : Ring → Ring) :
    ((s.modRing p r f).part p).ring r = f ((s.part p).ring r) := by
  simp [State.modRing, Part.ring]

/-! ### The MMIO page and the victim page -/

section mmio
variable {s : State} {p : Nat} (hr : (s.part p).inReset = false) (v : Nat)
include hr

theorem State.mmioWrite_report : s.mmioWrite p 0x0C0 (2 ^ 63) = s.setPart p { s.part p with pcount := 0, pfirst := 0 } := by
  rw [State.mmioWrite, if_neg (by simp [hr])]
  exact if_pos Nat.testBit_two_pow_self

theorem State.mmioWrite_sched : s.mmioWrite p 0x380 v = s.setPart p ((s.part p).writeSched v) := by
  simp [State.mmioWrite, hr]

theorem State.mmioWrite_stageCmd : s.mmioWrite p 0x390 v =
    s.setPart p { s.part p with stBusy := true, stCmd := some (BitVec.ofNat 64 v) } := by
  simp [State.mmioWrite, hr]

theorem State.victimWrite_lo (asid : Nat) : s.victimWrite p asid 0 v = s.setPart p { s.part p with vlo := BitVec.ofNat 64 v } := by
  simp [State.victimWrite, hr]

theorem State.victimWrite_hi (asid : Nat) : s.victimWrite p asid 8 v =
    s.setPart p { s.part p with vreqs := (s.part p).vreqs ++ [⟨asid, (s.part p).vlo, BitVec.ofNat 64 v⟩] } := by
  simp [State.victimWrite, hr]

end mmio

/-! ### Windows -/

theorem State.enableWindow_good {s : State} {w : Nat} (he : (s.window w).en = false) (hb : s.windowBad w (s.window w) = false) :
    s.enableWindow w = s.setWindow w { s.window w with en := true, err := false } := by simp [State.enableWindow, he, hb]

theorem State.enableWindow_bad {s : State} {w : Nat} (he : (s.window w).en = false) (hb : s.windowBad w (s.window w) = true) :
    s.enableWindow w = s.setWindow w { s.window w with err := true } := by simp [State.enableWindow, he, hb]

theorem State.en_disableWindow {s : State} {w : Nat} (he : (s.window w).en = true) : ((s.disableWindow w).window w).en = false := by
  simp [State.disableWindow, he]

theorem State.ownsWindow_of {s : State} {p w : Nat} (hw : w < 64) (hp : (s.window w).part = p) (hr : (s.part p).inReset = false) :
    s.ownsWindow p w = true := by simp [State.ownsWindow, hw, hp, hr]

/-! ### Registers of the host and of Treleveber -/

@[simp] theorem State.part_priNext (s : State) (p j : Nat) : (s.priNext p).part j = s.part j := by
  unfold State.priNext
  split
  · rfl
  · split <;> rfl

theorem State.mem_owned_assign (s : State) (p base : Nat) {n : Nat} (hn : n ≠ 0) : (base, n) ∈ ((s.assign p base n).part p).owned := by
  simp [State.assign, hn]

theorem fieldOf_setField_low {x : Nat} (hx : x < 256) (r p : Nat) : fieldOf (setField x 1 4 p % 256 + 256 * r) 1 4 = p % 16 := by
  simp only [fieldOf, setField]
  omega

/-- PART of an address-space entry reads as it was written (R337). -/
theorem State.asPart_setAsPart (s : State) (asid p : Nat) : (s.setAsPart asid p).asPart (asid % 65536) = p % 16 := by
  generalize ha : s.asBase + 64 * (asid % 65536) = a
  have hx : s.mem.read a 1 < 256 := Memory.readLE_lt s.mem.bytes a 1
  have hb : Memory.byte (s.setAsPart asid p).mem.bytes a = BitVec.ofNat 8 (setField (s.mem.read a 1) 1 4 p) := by
    subst ha
    exact (Memory.byte_writeLE _ _ 1 _ 0 (by omega)).trans (by rw [Nat.pow_zero, Nat.div_one])
  have hr : (s.setAsPart asid p).asEntry (asid % 65536) =
      setField (s.mem.read a 1) 1 4 p % 256 + 256 * Memory.readLE (s.setAsPart asid p).mem.bytes (a + 1) 63 := by
    rw [State.asEntry, PMem.read, show (s.setAsPart asid p).asBase + 64 * (asid % 65536) = a from ha, Memory.readLE, hb,
      BitVec.toNat_ofNat]
  rw [State.asPart, hr, fieldOf_setField_low hx]

/-! ### Who may write what -/

/-- From the end of bring-up's first step every writer is heard (R433). -/
theorem State.heard {s : State} (h : 1 ≤ s.boot.stage) : s.boot.stage ≠ 0 := by omega

/-- A supervisor's writes to the registers of its own partition. -/
theorem supervisorWrites (s : State) (part ring w k off : Nat) (v : Word) (h1 : 1 ≤ s.boot.stage) (hp : part < 16)
    (hr : (s.part part).inReset = false) :
    let wr (r : RegName) : Out := exec (.registerWrite (.supervisor part) r v) s
    wr (.sched part) = .next (s.setPart part ((s.part part).writeSched v.toNat)) ∧
    wr (.stageCmd part) = .next (s.setPart part { s.part part with stBusy := true, stCmd := some v }) ∧
    wr (.victimReq part true) =
      .next (s.setPart part { s.part part with vreqs := (s.part part).vreqs ++ [⟨s.un.asid, (s.part part).vlo, v⟩] }) ∧
    wr (.victimReq part false) = .next (s.setPart part { s.part part with vlo := v }) ∧
    (0x100 ≤ off → off ≤ 0x120 → wr (.logReg part off) = .next (s.mmioWrite part off v.toNat)) ∧
    (0x200 ≤ off → off ≤ 0x218 → wr (.complReg part off) = .next (s.mmioWrite part off v.toNat)) ∧
    (ring < 254 → wr (.ring part ring off) = .next (s.ringWrite part ring off v.toNat)) ∧
    (w < 64 → (s.window w).part = part → k < 5 → wr (.winReg w k) = .next (s.writeWindow w k v.toNat)) ∧
    (w < 64 → (s.window w).part = part →
      wr (.fold w) = .next (s.setWindow w { s.window w with fold := v.toNat % 2 ^ 48 })) := by
  have h0 := State.heard h1
  refine ⟨?_, ?_, ?_, ?_, fun h h' => ?_, fun h h' => ?_, fun h => ?_, fun hw hx h => ?_, fun hw hx => ?_⟩
  · simp [execRegisterWrite, h0, hp, State.mmioWrite_sched hr]
  · simp [execRegisterWrite, h0, hp, State.mmioWrite_stageCmd hr]
  · simp [execRegisterWrite, h0, hp, State.victimWrite_hi hr]
  · simp [execRegisterWrite, h0, hp, State.victimWrite_lo hr]
  · simp [execRegisterWrite, h0, hp, h, h']
  · simp [execRegisterWrite, h0, hp, h, h']
  · simp [execRegisterWrite, h0, hp, h]
  · simp [execRegisterWrite, h0, State.ownsWindow_of hw hx hr, h]
  · simp [execRegisterWrite, h0, State.ownsWindow_of hw hx hr]

/-- Treleveber's writes to the registers of a partition, of a window and of an island, which it may make at any stage. -/
theorem treleveberWrites (s : State) (v : Word) :
    let wr (r : RegName) : Out := exec (.registerWrite .treleveber r v) s
    (∀ p, p < 16 → wr (.sched p) = .next (s.modPart p (·.ownSched v.toNat)) ∧
      wr (.tenant p) = .next (s.modPart p (fun e => { e with tenant := v.toNat % 65536 })) ∧
      wr (.share p) = .next (s.modPart p (fun e => { e with share := BitVec.ofNat 64 (shareWord v.toNat) })) ∧
      ∀ peer, peer < 1024 →
        wr (.reach p peer) = .next (s.modPart p (fun e => { e with reach := setPut (v.toNat.testBit 0) peer e.reach }))) ∧
    (∀ a, wr (.asPart a) = .next (s.setAsPart a v.toNat)) ∧
    (∀ w, w < 64 → (s.window w).en = false →
      wr (.winReg w 0) = .next (s.setWindow w { s.window w with part := fieldOf v.toNat 52 4, fold := 0 })) ∧
    (∀ i, i < 288 → wr (.islandCap i) =
      .next { s with islands := s.islands.set i { s.islands.get .reset i with cap := v.toNat % 65536 } }) ∧
    ∀ p, wr (.stageCmd p) = .next s := by
  refine ⟨fun p hp => ⟨?_, ?_, ?_, fun peer h => ?_⟩, fun a => ?_, fun w hw he => ?_, fun i hi => ?_, fun p => ?_⟩
  · simp [execRegisterWrite, hp]
  · simp [execRegisterWrite, hp]
  · simp [execRegisterWrite, hp]
  · simp [execRegisterWrite, hp, h]
  · simp [execRegisterWrite]
  · simp [execRegisterWrite, he, Nat.not_le.2 hw]
  · simp [execRegisterWrite, hi]
  · simp [execRegisterWrite]

/-- The writes of the physical function's driver and of the host. -/
theorem hostWrites (s : State) (v : Word) (h1 : 1 ≤ s.boot.stage) :
    let wr (by_ : Writer) (r : RegName) : Out := exec (.registerWrite by_ r v) s
    wr .physFunction .awin = .next { s with awin := fieldOf v.toNat 16 32 * 65536 } ∧
    wr .host .hdmBase = .next { s with hdmBase := v.toNat } ∧
    ∀ p, p < 16 →
      (∀ base, wr .physFunction (.memRange p base) = .next (s.assign p base v.toNat)) ∧
      (v.toNat.testBit 0 = true → wr .host (.priEnable p) = .next (s.modPart p (fun e => { e with priFail := false }))) ∧
      wr .host (.priAlloc p) = .next ((s.modPart p (fun e => { e with priAlloc := v.toNat % 2 ^ 32 })).priNext p) ∧
      ∀ k, k < 6 → wr .host (.msix p k) = .next (s.modPart p (fun e => { e with msix := e.msix.set k v })) := by
  have h0 := State.heard h1
  refine ⟨?_, ?_, fun p hp => ⟨fun base => ?_, fun hb => ?_, ?_, fun k hk => ?_⟩⟩
  · simp [execRegisterWrite, h0]
  · simp [execRegisterWrite, h0]
  · simp [execRegisterWrite, h0, hp]
  · simp [execRegisterWrite, h0, hp, hb]
  · simp [execRegisterWrite, h0, hp]
  · simp [execRegisterWrite, h0, hp, hk]

/-- A supervisor changes no register of another partition, and none that is Treleveber's, the physical function's or the host's. -/
theorem supervisorRefused (s : State) (p part off : Nat) (v : Word) :
    let wr (r : RegName) : Out := exec (.registerWrite (.supervisor p) r v) s
    (p ≠ part → wr (.sched part) = .next s ∧ wr (.stageCmd part) = .next s ∧ wr (.logReg part off) = .next s) ∧
    wr (.tenant part) = .next s ∧ wr .awin = .next s ∧ wr (.asPart off) = .next s ∧ wr .hdmBase = .next s := by
  refine ⟨fun h => ⟨?_, ?_, ?_⟩, ?_, ?_, ?_, ?_⟩
  · simp [execRegisterWrite, h]
  · simp [execRegisterWrite, h]
  · simp [execRegisterWrite, h]
  · simp [execRegisterWrite]
  · simp [execRegisterWrite]
  · simp [execRegisterWrite]
  · simp [execRegisterWrite]

/-- Before the end of bring-up's first step Treleveber alone is heard (R433). -/
theorem registerWrite_unheard {s : State} (h : s.boot.stage = 0) {by_ : Writer} (hb : by_ ≠ .treleveber) (r : RegName) (v : Word) :
    exec (.registerWrite by_ r v) s = .next s := by simp [execRegisterWrite, h, hb]

/-- The notify page of a ring (R358, R364). -/
theorem notifyWrites (s : State) {part ring : Nat} (v : Word) (v32 : BitVec 32) (hp : part < 16) (hg : ring < 254)
    (hr : (s.part part).inReset = false) :
    exec (.notifyProdWrite part ring v32) s = .next (s.modRing part ring (fun e => { e with prod := v32.toNat })) ∧
    exec (.notifyErrClear part ring) s = .next (s.modRing part ring (fun e => { e with err := false })) ∧
    exec (.notifyReprioritise part ring v) s = .next (s.reprioritise part (v.toNat % 2 ^ 32) (fieldOf v.toNat 32 7)) := by
  have hv : v32.toNat % 2 ^ 32 = v32.toNat := Nat.mod_eq_of_lt v32.isLt
  refine ⟨?_, ?_, ?_⟩
  · simp only [exec_notifyProdWrite, execNotifyProdWrite, hp, hg, decide_true, Bool.and_self, if_true, State.ringWrite_prod hr, hv]
  · simp only [exec_notifyErrClear, execNotifyErrClear, hp, hg, decide_true, Bool.and_self, if_true, State.ringWrite_err hr]
  · simp only [exec_notifyReprioritise, execNotifyReprioritise, hp, hg, decide_true, Bool.and_self, if_true, State.ringWrite_nprio hr]

end Sys2Proof.Machine

open Sys2Proof Sys2Proof.Machine

/-- Settles O50: each event or write is one update of the state, and the register reads back from that update. -/
theorem registerEvents : Obligations.RegisterEvents := by
  intro s part ring w k off peer base v v32 e x
  refine ⟨fun hp hg hr => ?_, fun hw hx hr => ⟨fun he hb => ?_, fun he hb => ?_, fun he => ?_⟩, fun hp hr => ?_, fun h2 => ?_,
    fun h1 => ?_, fun h0 => ⟨?_, fun by_ r hb => registerWrite_unheard h0 hb r v⟩, ?_⟩
  · obtain ⟨hprod, herr, hprio⟩ := notifyWrites s v v32 hp hg hr
    exact ⟨⟨_, hprod, State.ring_modRing ..⟩, ⟨_, herr, State.ring_modRing ..⟩, hprio⟩
  · simp [execWindowEnable, State.ownsWindow_of hw hx hr, State.enableWindow_good he hb, x]
  · simp [execWindowEnable, State.ownsWindow_of hw hx hr, State.enableWindow_bad he hb, x]
  · exact ⟨_, by rw [exec_windowDisable, execWindowDisable, if_pos (State.ownsWindow_of hw hx hr)], State.en_disableWindow he⟩
  · exact ⟨_, by rw [exec_poisonReportClear, execPoisonReportClear, if_pos hp, State.mmioWrite_report hr], by simp [e]⟩
  · simp [execBootstCommit, Nat.not_lt.2 h2]
  · simp [execModuleCapWrite, State.heard h1]
  · simp [execModuleCapWrite, h0]
  · intro wr sup trv n
    obtain ⟨htp, hta, htw, hti, hts⟩ := treleveberWrites s v
    refine ⟨fun h1 hp hr => ?_, fun hp => ?_, fun h1 => ?_, ?_, ?_, ?_, fun q hq => ?_, hts part, ?_⟩
    · obtain ⟨hsched, hcmd, hhi, hlo, hrest⟩ := supervisorWrites s part ring w k off v h1 hp hr
      exact ⟨⟨_, hsched, by simp [e, n]⟩, ⟨_, hcmd, by simp [e]⟩, ⟨_, hhi, by simp [e]⟩, ⟨_, hlo, by simp [e]⟩, hrest⟩
    · obtain ⟨hsched, hten, hshare, hreach⟩ := htp part hp
      refine ⟨⟨_, hsched, by simp [Part.ownSched, n], fun h => by simp [Part.ownSched, n, h]⟩, ⟨_, hten, by simp [e, n]⟩,
        ⟨_, hshare, by simp [e, n]⟩, fun hpe => ⟨_, hreach peer hpe, ?_⟩, fun h1 hn => ?_⟩
      · rw [State.part_modPart, if_pos rfl, ← List.contains_iff_mem, contains_setPut, if_pos rfl]
      · obtain ⟨-, -, hpart⟩ := hostWrites s v h1
        obtain ⟨hrange, -⟩ := hpart part hp
        exact ⟨_, hrange base, State.mem_owned_assign s part base hn⟩
    · obtain ⟨hawin, hhdm, hpart⟩ := hostWrites s v h1
      refine ⟨hawin, hhdm, fun hp hb => ?_, fun hp => ?_, fun hp hk => ?_⟩ <;> obtain ⟨-, henable, halloc, hmsix⟩ := hpart part hp
      · exact ⟨_, henable hb, by simp [e]⟩
      · exact ⟨_, halloc, by simp [e, n]⟩
      · exact ⟨_, hmsix k hk, by simp [e]⟩
    · exact ⟨_, hta off, s.asPart_setAsPart off n⟩
    · exact fun hw he => htw w hw he
    · exact fun hi => ⟨_, hti ring hi, by simp [n], fun i h => by simp [Tab.get_set, h]⟩
    · obtain ⟨hother, hten, -⟩ := supervisorRefused s q part off v
      obtain ⟨hsched, hcmd, hlog⟩ := hother hq
      exact ⟨hsched, hcmd, hlog, hten⟩
    · exact (supervisorRefused s part part off v).2

end

section

/-! The fabric: what travels at the ports, what the end of an access leaves of the link layer, and what a request of another chip moves in
the caches on its way. -/

namespace Sys2Proof.Machine

/-! ## The link layer (R413, R414, R419)

The route tables, the peer table and which ports are down change by the rows of the fabric alone; all that an access does when it fails
leaves them. -/

/-- The tables of the link layer. -/
structure Links where
  routes : Tab Route
  peers : Tab PeerSt
  down : Nat → Bool

def State.links (s : State) : Links := ⟨s.routes, s.peers, fun k => (s.port k).down⟩

theorem State.links_eq (s : State) : s.links = ⟨s.routes, s.peers, fun k => (s.ports.get .reset k).down⟩ := rfl

theorem foldl_links {α : Type} (l : List α) (f : State → α → State) (hf : ∀ t x, (f t x).links = t.links) (s : State) :
    (l.foldl f s).links = s.links :=
  List.foldlRecOn (motive := fun t => t.links = s.links) l f rfl fun t ht x _ => (hf t x).trans ht

section

variable (s : State)

/-! ### Counters, timelines, packets and landings (Machine/Base) -/

theorem State.links_setCore (k : Nat) (c : Core) : (s.setCore k c).links = s.links := rfl
theorem State.links_setUnit (t : Nat) (u : UnitSt) : (s.setUnit t u).links = s.links := rfl
theorem State.links_setThr (t : Nat) (e : Thread) : (s.setThr t e).links = s.links := rfl
theorem State.links_setLaunch (l : Nat) (e : Launch) : (s.setLaunch l e).links = s.links := rfl
theorem State.links_modStage (k : Nat) (f : StageRt → StageRt) : (s.modStage k f).links = s.links := rfl

theorem State.links_modCore (k : Nat) (f : Core → Core) : (s.modCore k f).links = s.links := rfl
theorem State.links_modUnit (t : Nat) (f : UnitSt → UnitSt) : (s.modUnit t f).links = s.links := rfl
theorem State.links_modCtx (t c : Nat) (f : Ctx → Ctx) : (s.modCtx t c f).links = s.links := rfl
theorem State.links_modThr (t : Nat) (f : Thread → Thread) : (s.modThr t f).links = s.links := rfl
theorem State.links_modPart (p : Nat) (f : Part → Part) : (s.modPart p f).links = s.links := rfl
theorem State.links_modInst (k i : Nat) (f : Inst → Inst) : (s.modInst k i f).links = s.links := rfl
theorem State.links_notify (t key c : Nat) (cause : Cause) (arg : Word) : (s.notify t key c cause arg).links = s.links := rfl
theorem State.links_irq (p v : Nat) : (s.irq p v).links = s.links := rfl
theorem State.links_log (p evt : Nat) (cause : Cause) (addr : Word) (t launch detail : Nat) :
    (s.log p evt cause addr t launch detail).links = s.links := rfl

theorem State.links_bump (part t key c : Nat) (n : Cnt) (no : Nat) : (s.bump part t key c n no).links = s.links := by
  unfold State.bump
  grind [State.links_modPart, State.links_modCtx, State.links_modThr]

theorem State.links_pm (t ev : Nat) (sup : Bool) : (s.pm t ev sup).links = s.links := by
  unfold State.pm
  grind [State.links_modUnit]

theorem State.links_opEnd (t tl no status : Nat) (addr : Word) (step : Nat) : (s.opEnd t tl no status addr step).links = s.links := by
  unfold State.opEnd
  grind [State.links_setThr, State.links_modUnit, State.links_notify]

theorem State.links_opDone (t tl no status : Nat) (addr : Word) (step : Nat) : (s.opDone t tl no status addr step).links = s.links := by
  unfold State.opDone
  grind [State.links_opEnd, foldl_links]

theorem State.links_flushOps (t status : Nat) : (s.flushOps t status).links = s.links :=
  foldl_links _ _ (fun _ _ => State.links_opEnd ..) s

/-- A packet joins the buffer of its port, whatever the port's state. -/
theorem State.links_routePacket (gw : Option Nat) (peer : Nat) (p : Packet) : (s.routePacket gw peer p).links = s.links := by
  unfold State.routePacket
  split
  · rfl
  next k _ =>
    split
    · rfl
    · simp only [State.links_eq, Tab.get_set, Links.mk.injEq, true_and]
      funext j
      split
      next hj => rw [hj]
      next => rfl

theorem State.links_respond (g : Asker) (typ status : Nat) (payload : List Word) (pmask : Nat) (sub : Bool) :
    (s.respond g typ status payload pmask sub).links = s.links := State.links_routePacket ..

theorem State.links_landEnds (l : Landing) (status : Nat) (addr : Word) : (s.landEnds l status addr).links = s.links := by
  unfold State.landEnds
  grind [State.links_opDone]

theorem State.links_landed (l : Landing) : (s.landed l).links = s.links := by
  unfold State.landed
  grind [State.links_respond, State.links_landEnds]

theorem State.links_rejectQuiet (l : Landing) : (s.rejectQuiet l).links = s.links := by
  unfold State.rejectQuiet
  grind [State.links_respond, State.links_landEnds, State.links_notify]

theorem State.links_reject (l : Landing) : (s.reject l).links = s.links := by
  unfold State.reject
  grind [State.links_rejectQuiet, State.links_bump]

theorem State.links_offer (k : Nat) (l : Landing) : (s.offer k l).links = s.links := by
  unfold State.offer
  grind [State.links_landed, State.links_pm, State.links_setUnit, State.links_setCore]

theorem State.links_drain (k : Nat) : (s.drain k).links = s.links := by
  unfold State.drain
  grind [State.links_offer, State.links_setCore, foldl_links]

/-! ### The end of a unit, traps and save areas (Machine/Base, Machine/Ops, Machine/Csa) -/

theorem State.links_stopStage (k : Nat) (addr : Word) : (s.stopStage k addr).links = s.links := by
  unfold State.stopStage
  grind [State.links_irq, State.links_log, State.links_modStage]

theorem State.links_loseInst (o : Option (Nat × Nat)) : (s.loseInst o).links = s.links := by
  unfold State.loseInst
  grind [State.links_modInst, State.links_stopStage]

theorem State.links_closeThread (t : Nat) : (s.closeThread t).links = s.links := by
  unfold State.closeThread
  grind [State.links_setThr, State.links_modCore, State.links_reject, foldl_links, State.links_eq]

theorem State.links_gangGone (p l : Nat) : (s.gangGone p l).links = s.links := by
  unfold State.gangGone
  grind [State.links_setLaunch]

theorem State.links_discard (t status : Nat) : (s.discard t status).links = s.links := by
  unfold State.discard
  grind [State.links_loseInst, State.links_gangGone, State.links_flushOps, State.links_closeThread]

theorem State.links_trapAt (t c : Nat) (cause : Cause) (tpc taddr : Word) : (s.trapAt t c cause tpc taddr).links = s.links := by
  unfold State.trapAt
  grind [State.links_pm, State.links_setUnit, State.links_discard, State.links_irq, State.links_log]

theorem State.links_logWalk (part asid va : Nat) : (s.logWalk part asid va).links = s.links := by
  unfold State.logWalk State.logTable
  grind [State.links_log]

theorem State.links_logMap (part asid i : Nat) (c : List Nat) : (s.logMap part asid i c).links = s.links := by
  unfold State.logMap State.logTable
  grind [State.links_log]

theorem State.links_syncCsa (t : Nat) (old : List (Nat × Nat)) : (s.syncCsa t old).links = s.links := rfl

theorem State.links_inCsa (t : Nat) (f : State → State) (hf : (f s).links = s.links) : (s.inCsa t f).links = s.links := by
  unfold State.inCsa
  grind [State.links_syncCsa]

/-! ### Accesses that fail (Machine/Access, Machine/Home, R192, R195, R415) -/

theorem State.links_modReq (i : Nat) (f : Req → Req) : (s.modReq i f).links = s.links := rfl
theorem State.links_dropReq (i : Nat) : (s.dropReq i).links = s.links := rfl
theorem State.links_launchLanding (l : Landing) : (s.launchLanding l).links = s.links := rfl
theorem State.links_unissue (r : Req) : (s.unissue r).links = s.links := rfl
theorem State.links_logPeer (r : Req) (peer detail : Nat) : (s.logPeer r peer detail).links = s.links := rfl

theorem State.links_release (r : Req) : (s.release r).links = s.links := by
  unfold State.release
  grind [State.links_modCtx]

theorem State.links_trapReq (r : Req) (cause : Nat) (taddr : Word) : (s.trapReq r cause taddr).links = s.links := by
  unfold State.trapReq
  grind [State.links_logPeer, State.links_logWalk, State.links_logMap, State.links_inCsa, State.links_trapAt, State.links_unissue,
    State.links_dropReq]

theorem State.links_coverFails (r : Req) : (s.coverFails r).links = s.links := by
  unfold State.coverFails
  grind [State.links_modThr, State.links_eq]

theorem State.links_matDone (core th : Nat) (j : MatJob) (p : MPlan) (status : Nat) (addr : Word) :
    (s.matDone core th j p status addr).links = s.links := by
  unfold State.matDone
  grind [State.links_modUnit, State.links_opDone, State.links_drain, State.links_pm]

theorem State.links_matFails (r : Req) (status : Nat) : (s.matFails r status).links = s.links := by
  unfold State.matFails
  grind [State.links_matDone]

theorem State.links_copyFails (k i : Nat) (va : Word) : (s.copyFails k i va).links = s.links :=
  (State.links_modInst ..).trans (State.links_stopStage ..)

theorem State.links_engFails (r : Req) (status : Nat) : (s.engFails r status).links = s.links := by
  unfold State.engFails
  grind [State.links_dropReq, State.links_matFails, State.links_copyFails, State.links_opDone]

theorem State.links_failReq (r : Req) : (s.failReq r).links = s.links := by
  unfold State.failReq
  grind [State.links_coverFails, State.links_release, State.links_notify, State.links_opDone, State.links_modReq, State.links_dropReq,
    State.links_launchLanding, State.links_engFails]

theorem State.links_failAtHome (i : Nat) : (s.failAtHome i).links = s.links := by
  unfold State.failAtHome
  grind [State.links_respond, State.links_dropReq, State.links_release, State.links_trapReq, State.links_failReq]

end

end Sys2Proof.Machine
end

section

/-! ## What a request moves in the caches (R324, R327)

Lines that a request brings in are verified on their way. The requests at the gauntlet stay as they are, and so does host memory where none
of its lines keeps a hallmark of its own: a mismatch needs one. -/

namespace Sys2Proof.Machine

/-- The requests l at the gauntlet are i, and the host memory h is m when m keeps no hallmark. -/
def Untouched (i : List Packet) (m : PMem) (l : List Packet) (h : PMem) : Prop := l = i ∧ (m.hall = [] → h = m)

/-- A state whose gauntlet and host memory are untouched, in that sense, since they were i and m. -/
def State.Holds (i : List Packet) (m : PMem) (s : State) : Prop := Untouched i m s.inbound s.hostMem

theorem State.holds_iff {i : List Packet} {m : PMem} (s : State) : s.Holds i m ↔ Untouched i m s.inbound s.hostMem := Iff.rfl

theorem State.holds_self (s : State) : s.Holds s.inbound s.hostMem := ⟨rfl, fun _ => rfl⟩

section

variable {i : List Packet} {m : PMem} {s : State} (h : s.Holds i m)
include h

omit h in
theorem foldl_holds {α : Type} (h : s.Holds i m) (l : List α) (f : State → α → State)
    (hf : ∀ t x, t.Holds i m → (f t x).Holds i m) : (l.foldl f s).Holds i m := List.foldlRecOn l f h fun t ht x _ => hf t x ht

/-- A line fails its hallmark only in a memory that keeps one, so host memory without hallmarks takes no mark. -/
theorem State.verify_holds (who : Option Nat) (block : Nat) (lines : List Nat) : (s.verify who block lines).Holds i m := by
  refine foldl_holds h lines _ fun t ln ht => ?_
  extract_lets k t1 t2
  split
  next hbad =>
    have h1 : t1.Holds i m := by
      refine ⟨by rw [← ht.1]; simp only [t1, State.setMemOf]; split <;> rfl, fun hm => ?_⟩
      obtain ⟨-, hmem⟩ := ht
      cases hl : isHostLine ln
      · simpa [t1, State.setMemOf, hl] using hmem hm
      · simp [State.memOf, hl, hmem hm, hm] at hbad
    cases who
    · exact h1
    · exact h1
  · exact ht

theorem State.assemble_holds (wi n : Nat) : (s.assemble wi n).Holds i m := State.verify_holds h ..

theorem State.disassemble_holds (wi n : Nat) : (s.disassemble wi n).Holds i m := State.verify_holds h ..

theorem State.dropView_holds (wi n : Nat) : (s.dropView wi n).Holds i m := by
  unfold State.dropView
  extract_lets k
  split
  · exact h
  next s1 _ e _ =>
    extract_lets s2
    have h1 : s1.Holds i m := by grind [State.verify_holds]
    have h2 : s2.Holds i m := by grind [State.disassemble_holds]
    exact h2

theorem State.touchView_holds (pa n : Nat) : (s.touchView pa n).Holds i m := by
  unfold State.touchView
  grind [State.assemble_holds, foldl_holds]

theorem State.stkDrop_holds (who : Option Nat) (ln : Nat) : (s.stkDrop who ln).Holds i m := by
  unfold State.stkDrop
  grind [State.dropView_holds, State.verify_holds, State.holds_iff]

theorem State.stkPut_holds (who : Option Nat) (ln : Nat) (dirty keep fill : Bool) : (s.stkPut who ln dirty keep fill).Holds i m := by
  unfold State.stkPut
  split
  · exact h
  split
  · exact h
  · extract_lets s1 d here s2
    have h1 : s1.Holds i m := by grind [State.verify_holds]
    have h2 : s2.Holds i m := by grind [State.stkDrop_holds]
    exact h2

theorem State.l2Drop_holds (who : Option Nat) (f : L2Line → Bool) : (s.l2Drop who f).Holds i m := by
  refine foldl_holds ?_ _ _ fun _ _ ht => State.stkPut_holds ht ..
  exact State.verify_holds h ..

theorem State.l2Put_holds (who : Option Nat) (asid va ln : Nat) (dirty keep : Bool) : (s.l2Put who asid va ln dirty keep).Holds i m := by
  unfold State.l2Put
  extract_lets s1 k here s2 s3
  have h1 : s1.Holds i m := by grind [State.l2Drop_holds]
  split
  · exact h1
  · have h2 : s2.Holds i m := State.verify_holds h1 ..
    have h3 : s3.Holds i m := by grind [State.l2Drop_holds]
    exact h3

theorem State.through_holds (part asid va ln mt : Nat) (dirty home : Bool) (pol : Policy) :
    (s.through part asid va ln mt dirty home pol).Holds i m := by
  unfold State.through
  grind [State.l2Put_holds, State.stkPut_holds, State.l2Drop_holds, State.verify_holds]

theorem State.showBytes_holds (a n v : Nat) : (s.showBytes a n v).Holds i m := by
  unfold State.showBytes
  split
  · exact h
  · exact h

theorem State.showTables_holds (pa n : Nat) : (s.showTables pa n).Holds i m :=
  foldl_holds (foldl_holds h _ _ fun _ _ ht => State.showBytes_holds ht ..) _ _ fun _ _ ht => State.showBytes_holds ht ..

theorem State.cacheAt_holds (part asid va : Nat) (tgt : Tgt) (mt n : Nat) (dirty home : Bool) (pol : Policy) :
    (s.cacheAt part asid va tgt mt n dirty home pol).Holds i m := by
  cases tgt with
  | dev pa => exact State.through_holds (State.touchView_holds (State.showTables_holds h ..) ..) ..
  | host pa => exact State.through_holds h ..
  | mmio | peer => exact h

theorem State.homeRead_holds (who : Option Nat) (pa : Nat) : (s.homeRead who pa).Holds i m := by
  unfold State.homeRead
  grind [State.verify_holds]

theorem State.walkReads_holds (who : Option Nat) (va table level : Nat) : (s.walkReads who va table level).Holds i m := by
  induction level generalizing s table with
  | zero => exact h
  | succ n ih => unfold State.walkReads; grind [State.homeRead_holds]

theorem State.sigWalk_holds (asid va : Nat) : (s.sigWalk asid va).Holds i m := by
  unfold State.sigWalk State.walkCome
  grind [State.homeRead_holds, State.walkReads_holds]

theorem State.keepTrans_holds (asid va : Nat) (t : Trans) : (s.keepTrans asid va t).Holds i m := by
  unfold State.keepTrans
  dsimp only
  split
  · exact h
  · exact h

end

end Sys2Proof.Machine
end

section

/-! ## Ports, routes and peers (R413 to R415, R417 to R419) -/

namespace Sys2Proof.Machine

/-! ### Packets that leave -/

/-- t is s with other packets at its ports and held for a change of route. -/
def State.Sent (s t : State) : Prop := ∃ ps lh, t = { s with ports := ps, linkHeld := lh }

theorem State.Sent.refl (s : State) : s.Sent s := ⟨s.ports, s.linkHeld, rfl⟩

theorem State.Sent.trans {s t u : State} (h : s.Sent t) (h' : t.Sent u) : s.Sent u := by
  obtain ⟨_, _, rfl⟩ := h
  obtain ⟨ps, lh, rfl⟩ := h'
  exact ⟨ps, lh, rfl⟩

theorem State.Sent.peer_eq {s t : State} (h : s.Sent t) : t.peer = s.peer := by obtain ⟨_, _, rfl⟩ := h; rfl
theorem State.Sent.mem_eq {s t : State} (h : s.Sent t) : t.mem = s.mem := by obtain ⟨_, _, rfl⟩ := h; rfl
theorem State.Sent.reqs_eq {s t : State} (h : s.Sent t) : t.reqs = s.reqs := by obtain ⟨_, _, rfl⟩ := h; rfl
theorem State.Sent.routes_eq {s t : State} (h : s.Sent t) : t.routes = s.routes := by obtain ⟨_, _, rfl⟩ := h; rfl
theorem State.Sent.holds {s t : State} (h : s.Sent t) {i : List Packet} {m : PMem} (hs : s.Holds i m) : t.Holds i m := by
  obtain ⟨_, _, rfl⟩ := h
  exact hs

theorem foldl_sent {α : Type} (l : List α) (f : State → α → State) (hf : ∀ (t : State) x, t.Sent (f t x)) (s : State) :
    s.Sent (l.foldl f s) :=
  List.foldlRecOn (motive := fun t : State => s.Sent t) l f (.refl s) fun t ht x _ => ht.trans (hf t x)

theorem State.routePacket_sent (s : State) (gw : Option Nat) (peer : Nat) (p : Packet) : s.Sent (s.routePacket gw peer p) := by
  unfold State.routePacket
  split
  · exact .refl s
  · split
    · exact ⟨s.ports, _, rfl⟩
    · exact ⟨_, s.linkHeld, rfl⟩

theorem State.respond_sent (s : State) (g : Asker) (typ status : Nat) (payload : List Word) (pmask : Nat) (sub : Bool) :
    s.Sent (s.respond g typ status payload pmask sub) := s.routePacket_sent ..

theorem State.releaseHeld_sent (s : State) : s.Sent s.releaseHeld :=
  State.Sent.trans ⟨s.ports, [], rfl⟩ (foldl_sent _ _ (fun _ _ => State.routePacket_sent ..) _)

theorem State.links_releaseHeld (s : State) : s.releaseHeld.links = s.links :=
  foldl_links _ _ (fun _ _ => State.links_routePacket ..) _

theorem State.acked_sent (s : State) (k n : Nat) : s.Sent (s.acked k n) := by
  unfold State.acked
  split
  · exact .refl s
  · exact State.Sent.trans ⟨_, s.linkHeld, rfl⟩ (State.releaseHeld_sent _)

@[simp] theorem State.port_modPort (s : State) (k j : Nat) (f : Port → Port) :
    (s.modPort k f).port j = if j = k then f (s.port k) else s.port j := Tab.get_set ..

/-- With no packet held for a change of route, an acknowledgement takes the packets off their port (R419). -/
theorem State.port_acked {s : State} (h : s.linkHeld = []) (k : Nat) {n : Nat} (hn : 0 < n) :
    (s.acked k n).port k = { s.port k with buf := (s.port k).buf.drop n, replays := 0 } := by
  have hr : ∀ t : State, t.linkHeld = [] → t.releaseHeld.port k = t.port k := fun t ht => by rw [State.releaseHeld, ht]; rfl
  rw [State.acked, if_neg (Nat.ne_of_gt hn)]
  refine (hr (s.modPort k _) h).trans ?_
  rw [State.port_modPort, if_pos rfl]

/-! ### Packets that arrive (R414, R417, R418) -/

section
variable {s : State} {gw : Nat} {p : Packet}

theorem State.arrive_invalid (h : p.valid = false) : s.arrive gw p = { s with captures := s.captures.set gw p } := by
  simp [State.arrive, h]

theorem State.arrive_elsewhere (h : p.valid = true) (hd : p.dst / 4096 ≠ s.peer) :
    s.arrive gw p = s.routePacket (some gw) (p.dst / 4096) p := by simp [State.arrive, h, hd]

theorem State.arrive_request (h : p.valid = true) (hd : p.dst / 4096 = s.peer) (ht : p.typ ≤ 7) :
    s.arrive gw p = { s with inbound := s.inbound ++ [p] } := by simp [State.arrive, h, hd, Packet.request, ht]

theorem State.arrive_response (h : p.valid = true) (hd : p.dst / 4096 = s.peer) (ht : 7 < p.typ) :
    s.arrive gw p = { s with resps := s.resps ++ [p] } := by simp [State.arrive, h, hd, Packet.request, Nat.not_le.2 ht]

end

/-- A word of a line whose hallmark has failed is poisoned (R418). -/
theorem word_poisonLine (p : Packet) {line n : Nat} (h : n / 8 = line) : ((p.poisonLine line).word n).p = true := by
  have h8 : 8 * line ≤ n ∧ n - 8 * line < 8 := by omega
  have hb : Nat.testBit 255 (n - 8 * line) = true := by
    rw [show 255 = 2 ^ 8 - 1 from rfl, Nat.testBit_two_pow_sub_one]
    exact decide_eq_true h8.2
  simp [Packet.word, Packet.poisonLine, Nat.testBit_or, Nat.testBit_shiftLeft, h8.1, hb]

/-- What a port that is up makes of each fate of a packet. -/
theorem execPacketReceive_up {s : State} {port : Nat} (hp : port < 32) (hd : (s.port port).down = false) (p : Packet) (acks : Nat) :
    let ev (f : FlitFate) := execPacketReceive port p (f, acks) s
    let t := s.acked port acks
    ev .good = .next (t.arrive port p) ∧ ev .headerBad = .next t ∧ ev .payloadBad = .next t ∧ ev .noPacket = .next t ∧
    ∀ line, line < p.nl → ev (.hallmarkBad line) = .next (t.arrive port (p.poisonLine line)) := by
  have hup : (32 ≤ port || (s.port port).down) = false := by simp [hp, hd]
  refine ⟨?_, ?_, ?_, ?_, fun line hl => ?_⟩
  · simp [execPacketReceive, hup]
  · simp [execPacketReceive, hup]
  · simp [execPacketReceive, hup]
  · simp [execPacketReceive, hup]
  · simp [execPacketReceive, hup, hl]

/-- A port that is up goes over its unacknowledged packets again, up to 8 times (R419). -/
theorem execLinkReplay_replays {s : State} {port : Nat} (hb : (s.port port).buf ≠ []) (hd : (s.port port).down = false)
    (hr : (s.port port).replays < 8) :
    execLinkReplay port s = .next (s.modPort port (fun q => { q with replays := q.replays + 1 })) := by
  have hr' : ¬ 8 ≤ (s.port port).replays := Nat.not_le.2 hr
  simp [execLinkReplay, hb, hd, hr']

/-! ### Peers that fail (R415) -/

theorem State.failPeer_present {s : State} {peer : Nat} (h : s.peerSt peer = .present) :
    s.failPeer peer = (s.reqs.filter (·.tgt == .peer peer)).foldl (fun t r => t.failAtHome r.id)
      { s with peers := s.peers.set peer .disabled } := by simp [State.failPeer, h]

theorem State.failPeer_absent {s : State} {peer : Nat} (h : s.peerSt peer ≠ .present) : s.failPeer peer = s := by
  simp [State.failPeer, h]

/-- The failure of a peer changes its entry of the peer table, and nothing else of the link layer. -/
theorem State.links_failPeer {s : State} {peer : Nat} (h : s.peerSt peer = .present) :
    (s.failPeer peer).links = { s.links with peers := s.peers.set peer .disabled } := by
  rw [State.failPeer_present h]
  exact foldl_links _ _ (fun _ _ => State.links_failAtHome ..) _

theorem State.links_failUnrouted (s : State) (l : List Nat) :
    (s.failUnrouted l).links.routes = s.routes ∧ (s.failUnrouted l).links.down = s.links.down := by
  refine List.foldlRecOn (motive := fun t : State => t.links.routes = s.routes ∧ t.links.down = s.links.down) l _ ⟨rfl, rfl⟩
    fun t ht n _ => ?_
  split
  · by_cases hn : t.peerSt n = .present
    · rw [State.links_failPeer hn]
      exact ht
    · rwa [State.failPeer_absent hn]
  · exact ht

/-- With no access at another chip, peers fail in the peer table alone. -/
theorem State.failUnrouted_idle {s : State} (h : ∀ r ∈ s.reqs, ∀ n, r.tgt ≠ .peer n) (l : List Nat) :
    ∃ ps, s.failUnrouted l = { s with peers := ps } := by
  refine List.foldlRecOn (motive := fun t : State => ∃ ps, t = { s with peers := ps }) l _ ⟨s.peers, rfl⟩ fun t ht n _ => ?_
  obtain ⟨ps, rfl⟩ := ht
  split
  · by_cases hn : ({ s with peers := ps } : State).peerSt n = .present
    · rw [State.failPeer_present hn, List.filter_eq_nil_iff.2 fun r hr => by simpa using h r hr n]
      exact ⟨_, rfl⟩
    · exact ⟨ps, State.failPeer_absent hn⟩
  · exact ⟨ps, rfl⟩

theorem State.portFor_congr {s t : State} (h : s.routes = t.routes) (n : Nat) : s.portFor n = t.portFor n := by
  simp only [State.portFor, State.portOf, h]

/-- A peer whose last route goes is disabled (R414, R415). -/
theorem State.failUnrouted_disables {s : State} {peer : Nat} (hr : (s.failUnrouted [peer]).portFor peer = none)
    (hp : s.peerSt peer = .present) : (s.failUnrouted [peer]).peerSt peer = .disabled := by
  have hs : s.portFor peer = none := (State.portFor_congr (s.links_failUnrouted [peer]).1 peer).symm.trans hr
  have hf : s.failUnrouted [peer] = s.failPeer peer := by simp [State.failUnrouted, hs]
  have hl : (s.failPeer peer).peers = s.peers.set peer .disabled := congrArg Links.peers (State.links_failPeer hp)
  rw [hf, State.peerSt, hl, Tab.get_set_same]

/-- A gateway's route is written; peers fail only when it loses V (R414). -/
theorem execRouteChange_next {s : State} {gw peer : Nat} (hg : gw < 32) (hp : peer < 1024) (v : Bool) (port : Nat) :
    let t : State := { s with routes := s.routes.set (1024 * gw + peer) ⟨v, port % 32⟩ }
    execRouteChange gw peer v port s = .next (if v then t else t.failUnrouted [peer]) := by
  have hin : ¬ ((32 ≤ gw || 1024 ≤ peer) = true) := by simp [hg, hp]
  exact if_neg hin

/-! ### A link that goes down (R419) -/

/-- The routes without those through a port. -/
def cutRoutes (port : Nat) (l : Tab Route) : Tab Route :=
  l.map (fun e => if e.2.v && e.2.port == port then (e.1, { e.2 with v := false }) else e)

theorem port_ne_of_mem_cutRoutes {port : Nat} {l : Tab Route} {e : Nat × Route} (he : e ∈ cutRoutes port l) (hv : e.2.v = true) :
    e.2.port ≠ port := by
  obtain ⟨x, -, rfl⟩ := List.mem_map.1 he
  split at hv
  · cases hv
  next hx =>
    rw [if_neg hx]
    exact fun hport => hx (by simp [hv, hport])

/-- The link goes down: its port is marked, its routes are cut, what waited there or was held leaves by other ports, and then the peers
without a route fail. -/
theorem execLinkDown_next {s : State} {port : Nat} (hd : (s.port port).down = false) (hr : 8 ≤ (s.port port).replays) :
    ∃ t l, execLinkDown port s = .next (t.failUnrouted l) ∧ ({ s with routes := cutRoutes port s.routes } : State).Sent t ∧
      t.links.down port = true := by
  let s1 : State := { s.modPort port (fun _ => { Port.reset with down := true }) with routes := cutRoutes port s.routes, linkHeld := [] }
  let s2 : State := (s.port port).buf.foldl (fun s p => s.sendPacket (p.dst / 4096) p) s1
  let s3 : State := { s2 with linkHeld := s2.linkHeld ++ s.linkHeld }
  have h1 : ({ s with routes := cutRoutes port s.routes } : State).Sent s1 := ⟨_, _, rfl⟩
  have h2 : s1.Sent s2 := foldl_sent _ _ (fun t p => t.routePacket_sent ..) s1
  have h3 : s2.Sent s3 := ⟨s2.ports, _, rfl⟩
  refine ⟨s3.releaseHeld, (s.routes.filter (fun e => e.2.v && e.2.port == port)).map (·.1 % 1024), ?_,
    (h1.trans h2).trans (h3.trans s3.releaseHeld_sent), ?_⟩
  · rw [execLinkDown, if_neg (by simp [hd, hr])]
    rfl
  · have hl2 : s2.links = s1.links := foldl_links _ _ (fun t p => t.links_routePacket ..) s1
    have hl : s3.releaseHeld.links = s1.links := s3.links_releaseHeld.trans hl2
    rw [hl]
    exact congrArg Port.down (Tab.get_set_same Port.reset { Port.reset with down := true } s.ports port)

end Sys2Proof.Machine
end

section

/-! ## The gauntlet and the responses (R420 to R422) -/

namespace Sys2Proof.Machine

/-! ### A request in its turn at the gauntlet -/

/-- The state without the request that is judged. -/
abbrev State.judging (s : State) (i : Nat) : State := { s with inbound := dropNth i s.inbound }

/-- The state once the walk's lines have come, in which the request is judged. -/
abbrev State.judged (s : State) (i : Nat) (p : Packet) : State := (s.judging i).sigWalk p.asid p.addr.toNat

/-- An accepted request has been answered, once its line has passed the caches. -/
def State.accepting (s : State) (i : Nat) (p : Packet) (r : Req) (tr : Trans) (tgt : Tgt) : State :=
  (((s.judged i p).keepTrans p.asid p.addr.toNat tr).cacheAt r.part p.asid p.addr.toNat tgt tr.mt r.bytes r.writes true .normal).respond
    p.asker 0x12 0 [] 0

theorem State.accepting_holds (s : State) (i : Nat) (p : Packet) (r : Req) (tr : Trans) (tgt : Tgt) :
    (s.accepting i p r tr tgt).Holds (dropNth i s.inbound) s.hostMem := by
  have hw : (s.judged i p).Holds (dropNth i s.inbound) s.hostMem := State.sigWalk_holds (s.judging i).holds_self ..
  exact (State.respond_sent ..).holds (State.cacheAt_holds (State.keepTrans_holds hw ..) ..)

/-- The request names a partition in reset, an address space that is not the partition's, or a cluster that is not there (R14, R420). -/
def State.foreign (s : State) (p : Packet) (a : Nat) : Bool :=
  (s.part a).inReset || !s.asValid p.asid || s.asPart p.asid != a || s.nclus ≤ p.dst / 64 % 64

theorem State.foreign_iff (s : State) (p : Packet) (a : Nat) : s.foreign p a = true ↔
    (s.part a).inReset = true ∨ s.asValid p.asid = false ∨ s.asPart p.asid ≠ a ∨ s.nclus ≤ p.dst / 64 % 64 := by
  simp [State.foreign, or_assoc]

section gauntlet
variable {s : State} {i : Nat} {p : Packet} (hp : s.inbound[i]? = some p)
  (hfirst : ∀ x ∈ s.inbound.take i, x.src / 4096 ≠ p.src / 4096)
include hp hfirst

omit hp in
theorem oldest_of_chip : ¬ (s.inbound.take i).any (fun q => q.src / 4096 == p.src / 4096) = true := by simpa using hfirst

theorem gauntlet_noTenant (ht : (s.judging i).tenantPart p.tenant = none) :
    execGauntletRequest i s = .next ((s.judging i).respond p.asker 0x12 3 [] 0) := by
  simp only [execGauntletRequest, hp, if_neg (oldest_of_chip hfirst), ht]

variable {a : Nat} (ht : (s.judging i).tenantPart p.tenant = some a)
include ht

theorem gauntlet_foreign (hf : s.foreign p a = true) :
    execGauntletRequest i s = .next (((s.judging i).logSpace a p.asid).respond p.asker 0x12 3 [] 0) := by
  simp only [execGauntletRequest, hp, if_neg (oldest_of_chip hfirst), ht]
  exact if_pos hf

variable (hf : ¬ s.foreign p a = true)
include hf

theorem gauntlet_landing (h4 : p.typ = 4) : execGauntletRequest i s = .next ((s.judging i).gauntletLanding p a) := by
  simp only [execGauntletRequest, hp, if_neg (oldest_of_chip hfirst), ht, h4]
  exact if_neg hf

theorem gauntlet_fragment (h7 : p.typ = 7) :
    execGauntletRequest i s = .next (((s.judging i).respond p.asker 0x12 0 [] 0).respond p.asker 0x10 0 [] 0) := by
  simp only [execGauntletRequest, hp, if_neg (oldest_of_chip hfirst), ht, h7]
  exact if_neg hf

variable (h4 : p.typ ≠ 4) (h7 : p.typ ≠ 7)
include h4 h7

theorem gauntlet_unknown (hk : p.kind = none) : execGauntletRequest i s = .next ((s.judging i).respond p.asker 0x12 0x24 [] 0) := by
  simp only [execGauntletRequest, hp, if_neg (oldest_of_chip hfirst), ht, h4, h7, hk]
  exact if_neg hf

variable {k : AKind} (hk : p.kind = some k)
include hk

theorem gauntlet_refused {st : Nat} (hj : (s.judged i p).gauntletJudge ((s.judging i).reqOf p a k) (p.typ == 6) = .error (st, none)) :
    execGauntletRequest i s = .next ((if st = 0x24 then (s.judged i p).logWalk a p.asid p.addr.toNat else s.judged i p).respond
      p.asker 0x12 st [] 0) := by
  simp only [execGauntletRequest, hp, if_neg (oldest_of_chip hfirst), ht, h4, h7, hk, hj]
  exact if_neg hf

theorem gauntlet_parked {st pte : Nat} (hs : st ≠ 0x24)
    (hj : (s.judged i p).gauntletJudge ((s.judging i).reqOf p a k) (p.typ == 6) = .error (st, some pte)) :
    execGauntletRequest i s = .next (if k.lines then (s.judged i p).respond p.asker 0x12 st [] 0
      else ((s.judged i p).respond p.asker 0x12 st [] 0).watch ⟨some pte, a, p.asid, p.addr, p.src / 4096, p.src, p.tag, 0, false⟩) := by
  simp only [execGauntletRequest, hp, if_neg (oldest_of_chip hfirst), ht, h4, h7, hk, hj, if_neg hs]
  exact if_neg hf

theorem gauntlet_accepted {tr : Trans} {tgt : Tgt}
    (hj : (s.judged i p).gauntletJudge ((s.judging i).reqOf p a k) (p.typ == 6) = .ok (tr, tgt)) :
    let r := (s.judging i).reqOf p a k
    execGauntletRequest i s = .next ((s.accepting i p r tr tgt).pushReq { r with tgt := tgt, et := tr.et }) := by
  simp only [execGauntletRequest, hp, if_neg (oldest_of_chip hfirst), ht, h4, h7, hk, hj]
  exact if_neg hf

end gauntlet

/-! ### What answers this chip's own accesses -/

section responses
variable {s : State} {i : Nat} {p : Packet} (hp : s.resps[i]? = some p)

/-- The request that a response names, by the packet's endpoints, TAG, ADDR, LO and SZ (log 84). -/
def Req.answeredBy (p : Packet) (r : Req) : Bool :=
  (r.phase == .sent || r.phase == .accepted) && r.tgt == .peer (p.src / 4096) && r.ptag == p.tag && r.core == p.dst % 4096 &&
    p.addr == r.wire && p.lo == loNum r.lo && p.sz == r.size

/-- The monitor that a notice packet resolves (R421). -/
def State.noticed (s : State) (p : Packet) (m : Monitor) : Bool :=
  m.pte.isNone && m.chip == p.src / 4096 && m.chip != s.peer && m.asid == p.asid && m.va == p.addr

/-- The state without the response that is taken in. -/
abbrev State.answered (s : State) (i : Nat) : State := { s with resps := dropNth i s.resps }

include hp

theorem response_notice (ht : p.typ = 0x11) {m : Monitor} (hm : s.monitors.find? (s.noticed p) = some m) :
    execResponseReceived i s = .next { s.answered i with
      monitors := dropFirst (s.noticed p) s.monitors, notes := s.notes ++ [⟨m.thread, m.key, m.ctx, cz 0x508, m.va, none⟩] } := by
  unfold State.noticed at hm
  simp only [execResponseReceived, hp, ht, if_true, State.noticePacket, hm]
  rfl

variable (ht : p.typ ≠ 0x11) {r : Req} (hr : s.reqs.find? (Req.answeredBy p) = some r)
include ht hr

theorem response_send (hk : r.k = .send) : execResponseReceived i s = .next ((s.answered i).sendAnswer r p) := by
  unfold Req.answeredBy at hr
  simp [execResponseReceived, hp, ht, hr, hk, State.answered]

theorem response_engine (hk : r.k = .rdMat ∨ r.k = .rdLine ∨ r.k = .wrLine) :
    execResponseReceived i s = .next ((s.answered i).engAnswer r p) := by
  unfold Req.answeredBy at hr
  rcases hk with hk | hk | hk <;> simp [execResponseReceived, hp, ht, hr, hk, State.answered, AKind.lines]

theorem response_context (h1 : r.k ≠ .send) (h2 : r.k ≠ .rdMat) (h3 : r.k ≠ .rdLine) (h4 : r.k ≠ .wrLine) :
    execResponseReceived i s = .next ((s.answered i).ctxAnswer r p) := by
  unfold Req.answeredBy at hr
  simp [execResponseReceived, hp, ht, hr, h1, h2, h3, h4, State.answered, AKind.lines]

end responses

/-- A retry list that is full, or a landing that finds no room, is tried again later (R178, R422). -/
theorem State.ctxAnswer_refused {s : State} {r : Req} {p : Packet} (h : p.status = 0x28 ∨ p.status = 0x29) :
    s.ctxAnswer r p = s.modReq r.id (fun q => { q with phase := .refused, at_ := s.clk }) :=
  if_pos (by simpa using h)

/-- The second answer to an access that its context no longer waits for says that it has been performed. -/
theorem State.ctxAnswer_done {s : State} {r : Req} {p : Packet} (h : p.status = 0) (ht : p.typ ≠ 0x12) (hu : s.unsettled r = false) :
    s.ctxAnswer r p = s.remoteDone r p := by
  unfold State.ctxAnswer
  cases hk : r.k <;> simp [h, ht, hu]

end Sys2Proof.Machine

open Sys2Proof Sys2Proof.Machine

/-- Settles O48: each row from the lemma of its event. A link that goes down, a route that goes and a peer that fails leave the rest of the
link layer because nothing that an access does when it fails touches it. -/
theorem fabricEvents : Obligations.FabricEvents := by
  intro s port peer gw i p q
  refine ⟨fun hport hd acks => ?_, fun hb hd hr => ?_, fun hd hr => ?_, fun hg hpeer v => ?_, fun h => ?_, fun h => ?_,
    fun hp hfirst => ?_, fun hp => ?_⟩
  · obtain ⟨hgood, hhdr, hpay, hnone, hhall⟩ := execPacketReceive_up hport hd p acks
    have hline (line : Nat) (hl : line < p.nl) : execPacketReceive port p (.hallmarkBad line, acks) s =
        execPacketReceive port (p.poisonLine line) (.good, acks) s := by
      obtain ⟨hgood', -⟩ := execPacketReceive_up hport hd (p.poisonLine line) acks
      exact (hhall line hl).trans hgood'.symm
    have hpe : (s.acked port acks).peer = s.peer := (s.acked_sent port acks).peer_eq
    refine ⟨fun h0 => if_pos h0, fun h0 hl => State.port_acked hl port h0, hhdr, hpay, hnone, hline,
      fun line n _ _ hn => word_poisonLine p hn, fun hv => ?_, fun hv hdst => ?_, fun hv hdst ht => ?_, fun hv hdst ht => ?_⟩
    · exact hgood.trans (congrArg _ (State.arrive_invalid hv))
    · exact hgood.trans (congrArg _ (State.arrive_elsewhere hv (hpe ▸ hdst)))
    · exact hgood.trans (congrArg _ (State.arrive_request hv (hdst.trans hpe.symm) ht))
    · exact hgood.trans (congrArg _ (State.arrive_response hv (hdst.trans hpe.symm) ht))
  · exact ⟨_, execLinkReplay_replays hb hd hr, (s.port_modPort port port _).trans (if_pos rfl)⟩
  · obtain ⟨t, l, hnext, hsent, hdown⟩ := execLinkDown_next hd hr
    obtain ⟨hroutes, hports⟩ := t.links_failUnrouted l
    refine ⟨_, hnext, (congrFun hports port).trans hdown, fun hidle => ?_, fun e he hv => ?_⟩
    · obtain ⟨ps, hf⟩ := State.failUnrouted_idle (s := t) (hsent.reqs_eq ▸ hidle) l
      rw [hf]
      exact hsent.mem_eq
    · have ht : t.routes = cutRoutes port s.routes := hsent.routes_eq
      have he' : e ∈ cutRoutes port s.routes := (hroutes.trans ht) ▸ he
      exact port_ne_of_mem_cutRoutes he' hv
  · refine ⟨_, execRouteChange_next hg hpeer v port, ?_, ?_⟩
    · cases v
      · exact (State.links_failUnrouted _ [peer]).1
      · rfl
    · rintro rfl
      exact State.failUnrouted_disables
  · exact congrArg _ (State.failPeer_present h)
  · simp [execPeerSetPresent, h]
  · intro g u ev answer
    refine ⟨fun ht => gauntlet_noTenant hp hfirst ht, fun a ht => ⟨fun h => gauntlet_foreign hp hfirst ht ((s.foreign_iff p a).2 h),
      fun hr hv ha hn => ?_⟩⟩
    have hf : ¬ s.foreign p a = true := by simp [State.foreign, hr, hv, ha, hn]
    refine ⟨gauntlet_landing hp hfirst ht hf, gauntlet_fragment hp hfirst ht hf,
      fun h4 h7 hk => gauntlet_unknown hp hfirst ht hf h4 h7 hk,
      fun k h4 h7 hk => ⟨fun st hj => gauntlet_refused hp hfirst ht hf h4 h7 hk hj,
        fun st pte hs hj => gauntlet_parked hp hfirst ht hf h4 h7 hk hs hj, fun tr tgt hj => ?_⟩⟩
    obtain ⟨hin, hhost⟩ := s.accepting_holds i p ((s.judging i).reqOf p a k) tr tgt
    exact ⟨_, gauntlet_accepted hp hfirst ht hf h4 h7 hk hj, List.mem_append_right _ (List.mem_singleton.2 rfl), hin, hhost⟩
  · intro u ev named hit
    refine ⟨fun ht m hm => response_notice hp ht hm, fun ht r hr => ⟨fun hk => response_send hp ht hr hk,
      fun hk => response_engine hp ht hr hk, fun h1 h2 h3 h4 => ⟨response_context hp ht hr h1 h2 h3 h4, ?_, ?_⟩⟩⟩
    · exact State.ctxAnswer_refused
    · exact State.ctxAnswer_done

end

section

/-! Decoding reads back what encoding writes, row by row, and so it reads each word of the manual's programs that is the encoding of the
instruction printed beside it. -/

namespace Sys2Proof.Laws.RoundTrip

/-- Every encoded instruction by the lemma of its row; the rows left over are the machine's own steps, which have no form. -/
theorem statement (i : Instr) : Statement i := by
  cases i with
  | iadd => exact iadd ..
  | isub => exact isub ..
  | imul => exact imul ..
  | imulh => exact imulh ..
  | idiv => exact idiv ..
  | irem => exact irem ..
  | imin => exact imin ..
  | imax => exact imax ..
  | iabs => exact iabs ..
  | and => exact and ..
  | or => exact or ..
  | xor => exact xor ..
  | andn => exact andn ..
  | shl => exact shl ..
  | shr => exact shr ..
  | sra => exact sra ..
  | rol => exact rol ..
  | clz => exact clz ..
  | ctz => exact ctz ..
  | popc => exact popc ..
  | bswap => exact bswap ..
  | bfx => exact bfx ..
  | bfi => exact bfi ..
  | iext => exact iext ..
  | cmp => exact cmp ..
  | sel => exact sel ..
  | ldi => exact ldi ..
  | ldk => exact ldk ..
  | adda => exact adda ..
  | mramk => exact mramk ..
  | self => exact self ..
  | br => exact br ..
  | bz => exact bz ..
  | bnz => exact bnz ..
  | bcmp => exact bcmp ..
  | jmp => exact jmp ..
  | call => exact call ..
  | loop => exact loop ..
  | nop => exact nop
  | empty => exact empty ..
  | markf => exact markf ..
  | probe => exact probe ..
  | waitf => exact waitf ..
  | qcfg => exact qcfg ..
  | qrst => exact qrst ..
  | qocc => exact qocc ..
  | ld => exact ld ..
  | st => exact st ..
  | pref => exact pref ..
  | resid => exact resid ..
  | evict => exact evict ..
  | fence => exact fence
  | ldl => exact ldl ..
  | rsend => exact rsend ..
  | ldx => exact ldx ..
  | stx => exact stx ..
  | smfrz => exact smfrz ..
  | smrel => exact smrel ..
  | amo => exact amo ..
  | cas => exact cas ..
  | amox => exact amox ..
  | flagf => exact flagf ..
  | shld => exact shld ..
  | shst => exact shst ..
  | shset => exact shset ..
  | shadv => exact shadv ..
  | shrd => exact shrd ..
  | vadd => exact vadd ..
  | vsub => exact vsub ..
  | vmul => exact vmul ..
  | vfma => exact vfma ..
  | vmin => exact vmin ..
  | vmax => exact vmax ..
  | vabs => exact vabs ..
  | vneg => exact vneg ..
  | vand => exact vand ..
  | vor => exact vor ..
  | vxor => exact vxor ..
  | vshl => exact vshl ..
  | vshr => exact vshr ..
  | vcmp => exact vcmp ..
  | vsel => exact vsel ..
  | vcvt => exact vcvt ..
  | vcopy => exact vcopy ..
  | vbcst => exact vbcst ..
  | vgath => exact vgath ..
  | vscat => exact vscat ..
  | vsum => exact vsum ..
  | vrmax => exact vrmax ..
  | vsfu => exact vsfu ..
  | vqnt => exact vqnt ..
  | vdq => exact vdq ..
  | vpclr => exact vpclr ..
  | fadd => exact fadd ..
  | fsub => exact fsub ..
  | fmul => exact fmul ..
  | ffma => exact ffma ..
  | fmin => exact fmin ..
  | fmax => exact fmax ..
  | fabs => exact fabs ..
  | fneg => exact fneg ..
  | fcmp => exact fcmp ..
  | fcvt => exact fcvt ..
  | fclass => exact fclass ..
  | cvp => exact cvp ..
  | cvu => exact cvu ..
  | fexp2 => exact fexp2 ..
  | flog2 => exact flog2 ..
  | frcp => exact frcp ..
  | frsq => exact frsq ..
  | fsqrt => exact fsqrt ..
  | fsin => exact fsin ..
  | fcos => exact fcos ..
  | ftanh => exact ftanh ..
  | mma => exact mma ..
  | mmb => exact mmb ..
  | mms => exact mms ..
  | mcmp => exact mcmp ..
  | mzero => exact mzero ..
  | mlda => exact mlda ..
  | msta => exact msta ..
  | mdrn => exact mdrn ..
  | mrsum => exact mrsum ..
  | mcsum => exact mcsum ..
  | mtbl => exact mtbl ..
  | mstat => exact mstat ..
  | cpy => exact cpy ..
  | gath => exact gath ..
  | scat => exact scat ..
  | coll => exact coll ..
  | tlwait => exact tlwait ..
  | tlread => exact tlread ..
  | tlnote => exact tlnote ..
  | fqprst => exact fqprst ..
  | start => exact start ..
  | hjoin => exact hjoin ..
  | hexit => exact hexit
  | post => exact post ..
  | susp => exact susp ..
  | yield => exact yield
  | uexit => exact uexit
  | enq => exact enq ..
  | enqw => exact enqw ..
  | deq => exact deq
  | recdone => exact recdone
  | splitok => exact splitok ..
  | mergeok => exact mergeok
  | tballoc => exact tballoc ..
  | tbfree => exact tbfree ..
  | tbset => exact tbset ..
  | tbstat => exact tbstat ..
  | spanx => exact spanx
  | spanc => exact spanc
  | gbar => exact gbar
  | lcnt => exact lcnt ..
  | cancel => exact cancel ..
  | pchk => exact pchk ..
  | pclr => exact pclr ..
  | pset => exact pset ..
  | stc => exact stc ..
  | sig => exact sig ..
  | upret => exact upret
  | upmask => exact upmask ..
  | trap => exact trap ..
  | tret => exact tret
  | csrr => exact csrr ..
  | csrw => exact csrw ..
  | tinv => exact tinv ..
  | tsync => exact tsync
  | l2fl => exact l2fl ..
  | idle => exact idle
  | _ => exact of_step rfl rfl

end Sys2Proof.Laws.RoundTrip

namespace Sys2Proof

/-- Parcels that a well-formed instruction encodes to are read as that instruction. -/
theorem reads_of_encode {ws : List Nat} {i : Instr} (hs : i.isStep = false) (hw : i.WellFormed = true)
    (he : encode i = ws.map (BitVec.ofNat 32)) (hl : ws.length ≤ 8) : Claims.Reads ws i := by
  have hlen : 0 + 4 * (encode i).length ≤ 32 := by
    rw [he, List.length_map]
    omega
  have hread := (Laws.RoundTrip.statement i).1 hs hw 0 [] hlen
  rwa [List.append_nil, he] at hread

end Sys2Proof

open Sys2Proof Sys2Proof.Machine

/-- Settles O55: the round trip of each row, for all rows at once. -/
theorem decodeReadsBackEveryEncoding : Obligations.DecodeReadsBackEveryEncoding := Sys2Proof.Laws.RoundTrip.statement

/-- Settles O54: each line of parcels is the encoding of the instruction beside it. -/
theorem workedWordsDecode : Obligations.WorkedWordsDecode := by
  unfold Obligations.WorkedWordsDecode
  and_intros <;> exact reads_of_encode rfl (by decide) (by decide) (by decide)

end

section

/-! The causes of R94, one equation of `decode` for each in the order of R95. -/

namespace Sys2Proof

/-- `fmtOf` is defined on the opcodes that R93 leaves assigned. -/
theorem fmtOf_eq_none_iff (op : BitVec 8) : fmtOf op = none ↔ Claims.Unassigned op.toNat := by
  simp only [fmtOf, Claims.Unassigned, apply_ite (· = none), reduceCtorEq, if_true_left, if_false_left, ite_self,
    eq_self, and_true]
  omega

/-- Cause 006 is judged last (R95). -/
def judgeCombo (i : Instr) : Except Reject Instr := if i.combo then .ok i else .error .combo

/-- Causes 101, 103 and 006 in their order, once the fields of i are sound (R95). -/
def judgeOperands (i : Instr) : Except Reject Instr :=
  if i.noRsv = false then .error .code else if i.accepted = false then .error .operand
  else if i.combo = false then .error .combo else .ok i

/-- Cause 005: the fields of f name no instruction, or one that these parcels do not encode or whose coded fields it refuses. -/
def Form.Faulty (f : Form) (ps : List Parcel) : Prop :=
  f.instr = none ∨ ∃ i, f.instr = some i ∧ (encode i ≠ ps.take (encode i).length ∨ i.coded = false)

theorem judgeCombo_eq (i : Instr) : judgeCombo i = if i.combo = false then .error .combo else .ok i := by
  unfold judgeCombo
  cases i.combo <;> rfl

theorem decode_eq_bind (off : Nat) (ps : List Parcel) : decode off ps = decodeParcels off ps >>= judgeCombo := by
  unfold decode
  cases decodeParcels off ps <;> rfl

theorem decodeFields_faulty {f : Form} {ps : List Parcel} (h : f.Faulty ps) : decodeFields f ps = .error .field := by
  unfold decodeFields
  rcases h with h | ⟨i, h, hbad⟩
  · rw [h]
  · simp [h, hbad]

theorem decodeFields_sound {f : Form} {ps : List Parcel} {i : Instr} (h : f.instr = some i)
    (he : encode i = ps.take (encode i).length) (hc : i.coded = true) :
    decodeFields f ps >>= judgeCombo = judgeOperands i := by
  have hsound : ¬ (encode i ≠ ps.take (encode i).length ∨ i.coded = false) := by simp [← he, hc]
  unfold decodeFields judgeOperands
  simp only [h, Bool.not_eq_true', if_neg hsound]
  by_cases hr : i.noRsv = false
  · rw [if_pos hr, if_pos hr]
    rfl
  rw [if_neg hr, if_neg hr]
  by_cases ha : i.accepted = false
  · rw [if_pos ha, if_pos ha]
    rfl
  rw [if_neg ha, if_neg ha]
  exact judgeCombo_eq i

/-- The fields of f are faulty, or those of an instruction that its parcels encode. -/
theorem Form.faulty_or_sound (f : Form) (ps : List Parcel) :
    f.Faulty ps ∨ ∃ i, f.instr = some i ∧ encode i = ps.take (encode i).length ∧ i.coded = true := by
  cases hi : f.instr with
  | none => exact .inl (.inl hi)
  | some i =>
    by_cases hbad : encode i ≠ ps.take (encode i).length ∨ i.coded = false
    · exact .inl (.inr ⟨i, hi, hbad⟩)
    · obtain ⟨he, hc⟩ := not_or.1 hbad
      exact .inr ⟨i, rfl, Decidable.not_not.1 he, (Bool.not_eq_false _).mp hc⟩

theorem judgeOperands_cases (i : Instr) : judgeOperands i = .error .code ∨ judgeOperands i = .error .operand ∨
    judgeOperands i = .error .combo ∨ judgeOperands i = .ok i := by
  unfold judgeOperands
  cases i.noRsv <;> cases i.accepted <;> cases i.combo <;> simp only [reduceIte, reduceCtorEq, or_true, or_false, true_or]

theorem judgeOperands_ne_field (i : Instr) : judgeOperands i ≠ .error .field := by
  rcases judgeOperands_cases i with h | h | h | h <;> rw [h] <;> exact nofun

theorem judgeOperands_ne_opcode (i : Instr) : judgeOperands i ≠ .error .opcode := by
  rcases judgeOperands_cases i with h | h | h | h <;> rw [h] <;> exact nofun

theorem decode_pad (off : Nat) (rest : List Parcel) : decode off (0xFFFFFFFF#32 :: rest) = .error .pad := rfl

theorem ne_pad_of_length {p0 : Parcel} (hl : p0.extractLsb' 0 2 ≠ 3#2) : p0 ≠ 0xFFFFFFFF#32 := by
  rintro rfl
  exact hl rfl

section
variable {off : Nat} {p0 : Parcel} {rest : List Parcel}

theorem decode_fill (hp : p0 ≠ 0xFFFFFFFF#32) (hl : p0.extractLsb' 0 2 = 3#2) : decode off (p0 :: rest) = .error .fill := by
  simp [decode, decodeParcels, hp, hl]

theorem decode_crosses (hl : p0.extractLsb' 0 2 ≠ 3#2) (hc : 32 < off + lenOf p0) :
    decode off (p0 :: rest) = .error .crosses := by
  simp [decode, decodeParcels, ne_pad_of_length hl, hl, hc]

variable (hl : p0.extractLsb' 0 2 ≠ 3#2) (hfit : off + lenOf p0 ≤ 32)
include hl hfit

theorem decode_fits : decode off (p0 :: rest) =
    decodeForm p0 rest >>= fun f => decodeFields f (p0 :: rest) >>= judgeCombo := by
  have hparcels : decodeParcels off (p0 :: rest) = decodeForm p0 rest >>= fun f => decodeFields f (p0 :: rest) := by
    rw [decodeParcels, if_neg (ne_pad_of_length hl), if_neg hl, if_neg (by omega)]
    cases decodeForm p0 rest <;> rfl
  rw [decode_eq_bind, hparcels]
  cases decodeForm p0 rest <;> rfl

theorem decode_opcode (h : fmtOf (opOf p0) = none) : decode off (p0 :: rest) = .error .opcode := by
  simp only [decode_fits hl hfit, decodeForm, h]
  rfl

variable {fmt : Fmt} (hop : fmtOf (opOf p0) = some fmt)
include hop

theorem decode_length (hlen : fmt.len ≠ p0.extractLsb' 0 2) : decode off (p0 :: rest) = .error .length := by
  simp only [decode_fits hl hfit, decodeForm, hop, if_pos hlen]
  rfl

variable (hlen : fmt.len = p0.extractLsb' 0 2)
include hlen

theorem decode_short (hf : Form.ofParcels fmt (p0 :: rest) = none) : decode off (p0 :: rest) = .error .short := by
  simp only [decode_fits hl hfit, decodeForm, hop, if_neg (not_not_intro hlen), hf]
  rfl

variable {f : Form} (hf : Form.ofParcels fmt (p0 :: rest) = some f)
include hf

theorem decode_form : decode off (p0 :: rest) = decodeFields f (p0 :: rest) >>= judgeCombo := by
  simp only [decode_fits hl hfit, decodeForm, hop, if_neg (not_not_intro hlen), hf]
  rfl

theorem decode_faulty (h : f.Faulty (p0 :: rest)) : decode off (p0 :: rest) = .error .field := by
  rw [decode_form hl hfit hop hlen hf, decodeFields_faulty h]
  rfl

theorem decode_sound {i : Instr} (h : f.instr = some i) (he : encode i = (p0 :: rest).take (encode i).length)
    (hc : i.coded = true) : decode off (p0 :: rest) = judgeOperands i :=
  (decode_form hl hfit hop hlen hf).trans (decodeFields_sound h he hc)

theorem faulty_iff_decode_field : f.Faulty (p0 :: rest) ↔ decode off (p0 :: rest) = .error .field := by
  refine ⟨decode_faulty hl hfit hop hlen hf, fun hr => (f.faulty_or_sound _).resolve_right ?_⟩
  rintro ⟨i, h, he, hc⟩
  exact judgeOperands_ne_field i ((decode_sound hl hfit hop hlen hf h he hc).symm.trans hr)

end

/-- An assigned opcode is not refused as an unassigned one, whatever else stands in the word. -/
theorem decode_ne_opcode {off : Nat} {p0 : Parcel} {rest : List Parcel} {fmt : Fmt} (hl : p0.extractLsb' 0 2 ≠ 3#2)
    (hfit : off + lenOf p0 ≤ 32) (hop : fmtOf (opOf p0) = some fmt) : decode off (p0 :: rest) ≠ .error .opcode := by
  by_cases hlen : fmt.len = p0.extractLsb' 0 2
  · cases hf : Form.ofParcels fmt (p0 :: rest) with
    | none => simp [decode_short hl hfit hop hlen hf]
    | some f =>
      rcases f.faulty_or_sound (p0 :: rest) with h | ⟨i, h, he, hc⟩
      · simp [decode_faulty hl hfit hop hlen hf h]
      · rw [decode_sound hl hfit hop hlen hf h he hc]
        exact judgeOperands_ne_opcode i
  · simp [decode_length hl hfit hop hlen]

end Sys2Proof

namespace Sys2Proof.Machine

/-- The block after the pc's, when the address space does not end there. -/
theorem rejectAddr_crosses {pc : Word} (h : pc.toNat + 32 < 2 ^ 64) :
    (rejectAddr .crosses pc).toNat = pc.toNat / 32 * 32 + 32 := by
  rw [rejectAddr, if_pos rfl, BitVec.toNat_ofNat, Nat.mod_eq_of_lt (by omega)]

theorem rejectAddr_own {e : Reject} (h : e ≠ .crosses) (pc : Word) : rejectAddr e pc = pc := if_neg h

end Sys2Proof.Machine

open Sys2Proof Sys2Proof.Machine

/-- Settles O56, one equation of `decode` for each cause. -/
theorem decodeCauses : Obligations.DecodeCauses := by
  intro off p0 rest
  refine ⟨fun hp => ⟨hp ▸ decode_pad off rest, rfl⟩, fun hp hl => ⟨decode_fill hp hl, rfl⟩,
    fun hl hc => ⟨decode_crosses hl hc, rfl⟩,
    fun hl hfit => ⟨fun hu => ?_, fun hu => ⟨?_, fun fmt hop => ⟨fun hlen => ?_, ?_⟩⟩⟩,
    fun pc h => ⟨rejectAddr_crosses h, fun e he => rejectAddr_own he pc⟩⟩
  · exact ⟨decode_opcode hl hfit ((fmtOf_eq_none_iff _).2 hu), rfl⟩
  · obtain ⟨fmt, hop⟩ := Option.ne_none_iff_exists'.1 (mt (fmtOf_eq_none_iff (opOf p0)).1 hu)
    exact decode_ne_opcode hl hfit hop
  · exact ⟨decode_length hl hfit hop hlen, rfl⟩
  · intro hlen f hf
    exact ⟨faulty_iff_decode_field hl hfit hop hlen hf, fun i h he hc => decode_sound hl hfit hop hlen hf h he hc⟩

end

section

/-! One step of the machine: which of its agents acts, and what the fetch of a context that issues gives. -/

namespace Sys2Proof

/-- Parcels that decode start with an instruction that has a length and stays in its fetch block (R79). -/
theorem fits_of_decodeParcels_ok {off : Nat} {ps : List Parcel} {i : Instr} (h : decodeParcels off ps = .ok i) :
    (ps.headD 0).extractLsb' 0 2 ≠ 3#2 ∧ off + lenOf (ps.headD 0) ≤ 32 := by
  cases ps with
  | nil => cases h
  | cons p0 rest =>
    rw [decodeParcels] at h
    have hpad : p0 ≠ 0xFFFFFFFF#32 := fun hp => by simp [hp] at h
    have hfill : p0.extractLsb' 0 2 ≠ 3#2 := fun hl => by simp [hpad, hl] at h
    have hcross : ¬ 32 < off + lenOf p0 := fun hc => by simp [hpad, hfill, hc] at h
    exact ⟨hfill, Nat.le_of_not_lt hcross⟩

end Sys2Proof

namespace Sys2Proof.Machine

/-! ### Fetch -/

/-- Clean parcels that decode, with none of the causes of the context's own state, are fetched as the instruction (R95, R402). -/
theorem fetchIn_instr {m : PMem} {pa : Nat} {p0 : Parcel} {uact exchange : Bool} {i : Instr}
    (hp0 : p0 = (blockParcels m pa).headD 0) (hfirst : m.anyPoison pa 4 = false) (hall : m.anyPoison pa (lenOf p0) = false)
    (hi : decodeParcels (pa % 32) (blockParcels m pa) = .ok i) (hlate : lateCause uact exchange i = none) (pc : Word) :
    fetchIn m pa pc uact exchange = .instr i p0 (lenOf p0) := by
  subst hp0
  obtain ⟨hl, hfit⟩ := fits_of_decodeParcels_ok hi
  have hlen : min (lenOf ((blockParcels m pa).headD 0)) (32 - pa % 32) = lenOf ((blockParcels m pa).headD 0) := by omega
  simp only [fetchIn, if_neg hl, hlen, hfirst, hall, hi, hlate, Bool.or_self, Bool.false_eq_true, if_false]

section
variable {s x : State} {tr : Trans} {pa : Nat} (hx : x = s.sigWalk s.un.asid s.cx.pc.toNat)
  (htr : x.translate s.un.asid s.cx.pc.toNat = .page tr) (hex : tr.x = true) (hpa : pa = tr.pa s.cx.pc.toNat)
include hx htr hex hpa

theorem State.fetchAt_device (hap : tr.aper = 0) :
    let w := x.fetchBlock s.un.asid s.cx.pc.toNat tr (.dev pa) pa
    s.fetchAt = (w, fetchIn w.mem pa s.cx.pc s.cx.uact (s.un.phased && s.un.exchange)) := by
  subst hx hpa
  simp [State.fetchAt, htr, hex, hap]

theorem State.fetchAt_host (hap : tr.aper = 1) :
    let w := (x.fetchBlock s.un.asid s.cx.pc.toNat tr (.host pa) pa).track (pa / 64)
    s.fetchAt = (w, fetchIn w.hostMem pa s.cx.pc s.cx.uact (s.un.phased && s.un.exchange)) := by
  subst hx hpa
  simp [State.fetchAt, htr, hex, hap]

end

/-- A context with no notice due runs the instruction that it has fetched. -/
theorem State.issue_instr {s w : State} {i : Instr} {p0 : Parcel} {n : Nat} (hf : s.fetchAt = (w, .instr i p0 n))
    (hn : s.noticeDue s.core s.ctx = none) : s.issue = noteIssue s.core s.ctx (exec i { w with ir := p0, len := n }) := by
  simp [State.issue, hf, hn]

/-! ### The agents of a step (log 2) -/

theorem State.clk_tick (s : State) : s.tick.clk = s.clk + 1 + s.pace.headD 0 := rfl

section
variable {s : State}

theorem State.afterTick_agenda {i : Instr} {l : List Instr} (h : s.agenda = i :: l) :
    s.afterTick = if i.isStep then exec i { s with agenda := l } else .next { s with agenda := l } := by
  simp [State.afterTick, h]

theorem State.afterTick_timed {i : Instr} (h : s.agenda = []) (ht : s.timedNow = some i) :
    s.afterTick = exec i { s with timed := s.timed.drop 1 } := by
  simp [State.afterTick, h, ht]

theorem State.afterTick_free (h : s.agenda = []) (ht : s.timedNow = none) : s.afterTick = s.freeStep := by
  simp [State.afterTick, h, ht]

theorem State.freeStep_work {i : Instr} (ht : s.turn = true) (hd : s.due = some i) :
    s.freeStep = exec i { s with turn := false } := by
  simp [State.freeStep, ht, hd]

theorem State.freeStep_issue {k c : Nat} (ht : s.turn = false ∨ s.due = none) (hn : s.next? = some (k, c)) :
    s.freeStep = ({ s with turn := true, core := k, ctx := c } : State).issue := by
  rcases ht with ht | ht <;> simp [State.freeStep, ht, hn]

theorem State.freeStep_idle {i : Instr} (ht : s.turn = false) (hn : s.next? = none) (hd : s.due = some i) :
    s.freeStep = exec i s := by
  simp [State.freeStep, ht, hn, hd]

theorem State.freeStep_none (hn : s.next? = none) (hd : s.due = none) : s.freeStep = .next s := by
  simp [State.freeStep, hn, hd]

end

end Sys2Proof.Machine

open Sys2Proof Sys2Proof.Machine

/-- Settles O53: the agent whose turn it is, and for a context that issues what its fetch gives. -/
theorem stepRunsTheDecodedInstruction : Obligations.StepRunsTheDecodedInstruction := by
  refine ⟨?_, fun k c t => rfl, State.clk_tick, ?_, ?_, fun s => rfl, ?_⟩
  · intro s u v x w k c tr i m pa p0 hu hag htimed hturn hnext hv hnotice hx htr hex hpa hwhere hp0 hfirst hall hi hlate
    have hfetched := fetchIn_instr hp0 hfirst hall hi hlate v.cx.pc
    have hf : v.fetchAt = (w, .instr i p0 (lenOf p0)) := by
      rcases hwhere with ⟨hap, hw, hm⟩ | ⟨hap, hw, hm⟩
      · rw [State.fetchAt_device hx htr hex hpa hap, ← hw, ← hm, hfetched]
      · rw [State.fetchAt_host hx htr hex hpa hap, ← hw, ← hm, hfetched]
    have hcore : v.core = k := hv ▸ rfl
    have hctx : v.ctx = c := hv ▸ rfl
    calc step s = u.freeStep := by rw [step, ← hu, State.afterTick_free hag htimed]
      _ = v.issue := by rw [State.freeStep_issue hturn hnext, ← hv]
      _ = noteIssue k c (exec i { w with ir := p0, len := lenOf p0 }) := by
        rw [State.issue_instr hf (by rwa [hcore, hctx]), hcore, hctx]
  · intro s u i l hu hag
    rw [step, ← hu, State.afterTick_agenda hag]
    exact ⟨fun h => if_pos h, fun h => if_neg (by simp [h])⟩
  · intro s u i hu hag htimed
    rw [step, ← hu, State.afterTick_timed hag htimed]
  · intro s u hu hag htimed
    rw [step, ← hu, State.afterTick_free hag htimed]
    exact ⟨fun i => State.freeStep_work, fun i => State.freeStep_idle, fun hd hn => State.freeStep_none hn hd⟩

end
